-- ==== Sys2Proof/Word.lean ====
section
/-! DEFINITION. The words of the machine: plain bit vectors, and the poisonable word of R33. -/

namespace Sys2Proof

/-- One byte of memory. -/
abbrev Byte := BitVec 8

/-- A 32-bit lane, scalar register or instruction word (R25). -/
abbrev Word := BitVec 32

/-- A 64-bit register of the sequencer or of a spoke (R44, R301). -/
abbrev DWord := BitVec 64

/-- One bit per lane of a warp, lane l at bit l; a warp has at most 128 lanes (R81). -/
abbrev Mask := BitVec 128

/-- A word that carries a poison bit: each lane of each vector and scalar register (R33). -/
inductive PWord where
  | val (w : Word)
  | poison
  deriving DecidableEq, Repr

/-- The pattern a poisoned lane reads as (R33). -/
def poisonPattern : Word := 0x7FD00BAD#32

/-- The bits a poisonable word reads as: a poisoned one reads as the pattern (R33). -/
def PWord.bits : PWord → Word
  | .val w => w
  | .poison => poisonPattern

/-- Whether the poison bit is set (R33). -/
def PWord.isPoison : PWord → Bool
  | .val _ => false
  | .poison => true

/-- A result that depends on one operand (R33). -/
def PWord.map (f : Word → Word) : PWord → PWord
  | .val w => .val (f w)
  | .poison => .poison

/-- A result that depends on two operands: poison when either is (R33). -/
def PWord.map2 (f : Word → Word → Word) : PWord → PWord → PWord
  | .val a, .val b => .val (f a b)
  | _, _ => .poison

/-- Four little-endian bytes of a word (R7). -/
def wordBytes (w : Word) : List Byte :=
  [w.extractLsb' 0 8, w.extractLsb' 8 8, w.extractLsb' 16 8, w.extractLsb' 24 8]

/-- The number a list of bytes stands for, little-endian (R7). -/
def natOfBytes : List Byte → Nat
  | [] => 0
  | b :: bs => b.toNat + 256 * natOfBytes bs

/-- `n` little-endian bytes of a number (R7). -/
def bytesOfNat : Nat → Nat → List Byte
  | 0, _ => []
  | n + 1, x => BitVec.ofNat 8 x :: bytesOfNat n (x / 256)

end Sys2Proof
end

