-- ==== Sys2Proof/Machine/Float.lean ====
section
/-! DEFINITION. Number formats and exact arithmetic (R59 to R80): every operand is decoded exactly, every result is one rounding of
an exact value. Values are dyadic, a natural number times a power of two; a value that is not dyadic is held between two
neighbouring dyadic ones. -/

namespace Sys2Proof.Machine

/-- The five rounding modes of R61, coded as MR.RM (R36). -/
inductive RM where
  | rne | rtz | rdn | rup | rna
  deriving DecidableEq, Repr

/-- The mode an RM code names; the reserved codes 101 to 111 never reach it (R36). -/
def RM.ofCode : Nat → RM
  | 0 => .rne
  | 1 => .rtz
  | 2 => .rdn
  | 3 => .rup
  | _ => .rna

/-- The fields of MR that shape a float result (R61, R62, R65). -/
structure FpEnv where
  rm : RM
  sat : Bool
  ftz : Bool
  deriving DecidableEq, Repr

/-- Round to nearest even with nothing set, as where MR plays no part (R78, R118, R183). -/
def FpEnv.plain : FpEnv := { rm := .rne, sat := false, ftz := false }

/-- The exceptions of R64. -/
structure Flags where
  nv : Bool := false
  dz : Bool := false
  of : Bool := false
  uf : Bool := false
  nx : Bool := false
  deriving DecidableEq, Repr

/-- Both sets of exceptions. -/
def Flags.or (a b : Flags) : Flags :=
  { nv := a.nv || b.nv, dz := a.dz || b.dz, of := a.of || b.of, uf := a.uf || b.uf, nx := a.nx || b.nx }

/-- No exception. -/
def Flags.none : Flags := {}

/-- Invalid operation. -/
def Flags.invalid : Flags := { nv := true }

/-- TVAL's coding of R145: [4] NV, [3] DZ, [2] OF, [1] UF, [0] NX, which is also the order of the MR enables (R36). -/
def Flags.toNat (f : Flags) : Nat :=
  f.nv.toNat * 16 + f.dz.toNat * 8 + f.of.toNat * 4 + f.uf.toNat * 2 + f.nx.toNat

/-- What the codes with an all-ones exponent stand for (R60, R68): IEEE infinities and NaNs, the single NaN code of E4M3, or
numbers like all others. -/
inductive Special where
  | ieee | nanOnly | finite
  deriving DecidableEq, Repr

/-- A binary float format: exponent bits, fraction bits, bias, specials (R60, R68). -/
structure FFmt where
  eb : Nat
  mb : Nat
  bias : Nat
  sp : Special
  deriving DecidableEq, Repr

/-- The float formats of R60 and the narrow ones of R68. -/
def FFmt.fp32 : FFmt := { eb := 8, mb := 23, bias := 127, sp := .ieee }
/-- R60. -/
def FFmt.fp16 : FFmt := { eb := 5, mb := 10, bias := 15, sp := .ieee }
/-- R60. -/
def FFmt.bf16 : FFmt := { eb := 8, mb := 7, bias := 127, sp := .ieee }
/-- R68, code 3: bits 31 to 13 of a binary32 word. -/
def FFmt.e8m10 : FFmt := { eb := 8, mb := 10, bias := 127, sp := .ieee }
/-- R68, code 4. -/
def FFmt.e4m3 : FFmt := { eb := 4, mb := 3, bias := 7, sp := .nanOnly }
/-- R68, code 5. -/
def FFmt.e5m2 : FFmt := { eb := 5, mb := 2, bias := 15, sp := .ieee }
/-- R68, code 6. -/
def FFmt.e2m3 : FFmt := { eb := 2, mb := 3, bias := 1, sp := .finite }
/-- R68, code 7. -/
def FFmt.e3m2 : FFmt := { eb := 3, mb := 2, bias := 3, sp := .finite }
/-- R68, code 8. -/
def FFmt.e2m1 : FFmt := { eb := 2, mb := 1, bias := 1, sp := .finite }

/-- The bits of one element. -/
def FFmt.bits (t : FFmt) : Nat := 1 + t.eb + t.mb

/-- The exponent of the last place of a subnormal. -/
def FFmt.emin (t : FFmt) : Int := 1 - (t.bias : Int) - (t.mb : Int)

/-- The code of the largest finite magnitude (R60, R68). -/
def FFmt.maxCode (t : FFmt) : Nat :=
  match t.sp with
  | .ieee => (2 ^ t.eb - 1) * 2 ^ t.mb - 1
  | .nanOnly => 2 ^ (t.eb + t.mb) - 2
  | .finite => 2 ^ (t.eb + t.mb) - 1

/-- The code of +infinity in an IEEE format. -/
def FFmt.infCode (t : FFmt) : Nat := (2 ^ t.eb - 1) * 2 ^ t.mb

/-- The canonical NaN (R60), 0x7F in E4M3 (R76); the finite formats have none and write +0 (R76). E5M2's is 0x7E (R76). -/
def FFmt.nan (t : FFmt) : Nat :=
  match t.sp with
  | .ieee => (2 ^ t.eb - 1) * 2 ^ t.mb + 2 ^ (t.mb - 1)
  | .nanOnly => 2 ^ (t.eb + t.mb) - 1
  | .finite => 0

/-- A sign bit of a format. -/
def FFmt.sign (t : FFmt) (neg : Bool) : Nat := neg.toNat * 2 ^ (t.eb + t.mb)

/-- An exact value of a float code: NaN (signalling or not), an infinity, or (-1)^neg · m · 2^e. -/
inductive FVal where
  | nan (signalling : Bool)
  | inf (neg : Bool)
  | fin (neg : Bool) (m : Nat) (e : Int)
  deriving DecidableEq, Repr

/-- Every code of every format has the value its table gives it (R60, R68, R77). -/
def FFmt.unpack (t : FFmt) (x : Nat) : FVal :=
  let neg := x / 2 ^ (t.eb + t.mb) % 2 == 1
  let ex := x / 2 ^ t.mb % 2 ^ t.eb
  let fr := x % 2 ^ t.mb
  if t.sp == .ieee && ex == 2 ^ t.eb - 1 then
    if fr == 0 then .inf neg else .nan (fr / 2 ^ (t.mb - 1) == 0)
  else if t.sp == .nanOnly && ex == 2 ^ t.eb - 1 && fr == 2 ^ t.mb - 1 then .nan false
  else if ex == 0 then .fin neg fr t.emin
  else .fin neg (2 ^ t.mb + fr) (t.emin + (ex : Int) - 1)

/-- Whether a code is a non-zero subnormal. -/
def FFmt.isSub (t : FFmt) (x : Nat) : Bool :=
  x / 2 ^ t.mb % 2 ^ t.eb == 0 && x % 2 ^ t.mb != 0

/-- An operand under MR.FTZ: a subnormal reads as a zero of its sign (R62). -/
def FFmt.read (t : FFmt) (ftz : Bool) (x : Nat) : FVal :=
  if ftz && t.isSub x then .fin (x / 2 ^ (t.eb + t.mb) % 2 == 1) 0 t.emin else t.unpack x

/-- A magnitude: m · 2^e, or strictly between m · 2^e and (m + 1) · 2^e when `more` is set. -/
structure Mag where
  m : Nat
  e : Int
  more : Bool := false
  deriving DecidableEq, Repr

/-- Rounds a magnitude to a multiple of 2^q: the multiplier, and whether the value changed (R61). -/
def Mag.roundAt (x : Mag) (neg : Bool) (rm : RM) (q : Int) : Nat × Bool :=
  if q ≤ x.e then
    let m := x.m * 2 ^ (x.e - q).toNat
    if x.more then ((if (rm == .rup && !neg) || (rm == .rdn && neg) then m + 1 else m), true) else (m, false)
  else
    let s := (q - x.e).toNat
    let m := x.m / 2 ^ s
    let r := x.m % 2 ^ s
    let half := 2 ^ (s - 1)
    let inexact := r != 0 || x.more
    let tie := r == half && !x.more
    let above := Nat.blt half r || (r == half && x.more)
    let up := match rm with
      | .rne => above || (tie && m % 2 == 1)
      | .rna => above || tie
      | .rtz => false
      | .rdn => inexact && neg
      | .rup => inexact && !neg
    ((if up then m + 1 else m), inexact)

/-- The exponent of the leading bit of a non-zero magnitude. -/
def Mag.lead (x : Mag) : Int := (Nat.log2 x.m : Int) + x.e

/-- The code of a rounded magnitude m · 2^q that the format holds. -/
def FFmt.pack (t : FFmt) (m : Nat) (q : Int) : Nat :=
  if m == 0 then 0
  else
    let l := (Nat.log2 m : Int) + q
    if l < 1 - (t.bias : Int) then m * 2 ^ (q - t.emin).toNat
    else
      let f := if q ≤ l - (t.mb : Int) then m / 2 ^ (l - (t.mb : Int) - q).toNat else m * 2 ^ (q - (l - (t.mb : Int))).toNat
      (l + (t.bias : Int)).toNat * 2 ^ t.mb + f - 2 ^ t.mb

/-- Whether overflow goes to infinity in a mode (R75, R118). -/
def RM.toInf (rm : RM) (neg : Bool) : Bool :=
  match rm with
  | .rne | .rna => true
  | .rtz => false
  | .rup => !neg
  | .rdn => neg

/-- A magnitude rounded into a format with an unbounded exponent range and subnormal spacing below (R74): multiplier, exponent,
inexact, and whether it is tiny after rounding (R64). -/
def FFmt.roundIn (t : FFmt) (rm : RM) (neg : Bool) (x : Mag) : Nat × Int × Bool × Bool :=
  let free := x.lead - (t.mb : Int)
  let q := if free < t.emin then t.emin else free
  let r := x.roundAt neg rm q
  let u := x.roundAt neg rm free
  let tiny := u.1 == 0 || (Nat.log2 u.1 : Int) + free < 1 - (t.bias : Int)
  (r.1, q, r.2, tiny)

/-- Whether m · 2^q exceeds the largest finite magnitude of the format. -/
def FFmt.tooBig (t : FFmt) (m : Nat) (q : Int) : Bool :=
  m != 0 && (let l := (Nat.log2 m : Int) + q
    let top : Int := match t.sp with
      | .ieee => (t.bias : Int)
      | _ => (t.bias : Int) + 1
    decide (top < l) || (t.sp != .ieee && l == top && Nat.blt t.maxCode (t.pack m q)))

/-- One rounding into fp32, fp16 or bf16: R61, the overflow of R65, the flush of R62, the exceptions of R64. -/
def FFmt.finish (t : FFmt) (v : FpEnv) (neg : Bool) (x : Mag) : Nat × Flags :=
  if x.m == 0 && !x.more then (t.sign neg, {})
  else
    let (m, q, inexact, tiny) := t.roundIn v.rm neg x
    if t.tooBig m q then
      if v.sat then (t.sign neg + t.maxCode, { nx := true })
      else if v.rm.toInf neg then (t.sign neg + t.infCode, { of := true, nx := true })
      else (t.sign neg + t.maxCode, { of := true, nx := true })
    else
      let c := t.pack m q
      if v.ftz && t.isSub c then (t.sign neg, { uf := true, nx := true })
      else (t.sign neg + c, { uf := tiny && inexact, nx := inexact })

/-- One rounding into a narrow format under a saturation switch (R74, R75); FTZ never applies (R76). -/
def FFmt.narrow (t : FFmt) (rm : RM) (sat : Bool) (neg : Bool) (x : Mag) : Nat × Flags :=
  if x.m == 0 && !x.more then (t.sign neg, {})
  else
    let (m, q, inexact, tiny) := t.roundIn rm neg x
    if t.tooBig m q then
      if sat || !rm.toInf neg || t.sp == .finite then (t.sign neg + t.maxCode, { nx := true })
      else if t.sp == .nanOnly then (t.nan, { of := true, nx := true })
      else (t.sign neg + t.infCode, { of := true, nx := true })
    else (t.sign neg + t.pack m q, { uf := tiny && inexact, nx := inexact })

/-- A conversion of any value into a narrow format: R74, R75, and R76 for what is not finite. -/
def FFmt.toNarrow (t : FFmt) (rm : RM) (sat : Bool) (x : FVal) : Nat × Flags :=
  match x with
  | .nan _ => (t.nan, .invalid)
  | .inf neg =>
    match t.sp with
    | .ieee => (t.sign neg + t.infCode, {})
    | .nanOnly => if sat then (t.sign neg + t.maxCode, .invalid) else (t.nan, .invalid)
    | .finite => (t.sign neg + t.maxCode, .invalid)
  | .fin neg m e => t.narrow rm sat neg { m := m, e := e }

/-- A dyadic number with a sign, as an integer multiple of 2^e. -/
structure Dy where
  n : Int
  e : Int
  deriving DecidableEq, Repr

/-- The dyadic number of a finite value; 0 for any other. -/
def FVal.dy : FVal → Dy
  | .fin neg m e => { n := if neg then -(m : Int) else (m : Int), e := e }
  | _ => { n := 0, e := 0 }

/-- Exact sum. -/
def Dy.add (a b : Dy) : Dy :=
  if a.e ≤ b.e then { n := a.n + b.n * (2 ^ (b.e - a.e).toNat : Nat), e := a.e }
  else { n := a.n * (2 ^ (a.e - b.e).toNat : Nat) + b.n, e := b.e }

/-- Exact product. -/
def Dy.mul (a b : Dy) : Dy := { n := a.n * b.n, e := a.e + b.e }

/-- The opposite. -/
def Dy.neg (a : Dy) : Dy := { n := -a.n, e := a.e }

/-- The magnitude of a dyadic number. -/
def Dy.mag (a : Dy) : Mag := { m := a.n.natAbs, e := a.e }

/-- Whether a dyadic number is negative. -/
def Dy.isNeg (a : Dy) : Bool := decide (a.n < 0)

/-- Whether a is below b. -/
def Dy.lt (a b : Dy) : Bool := (a.add b.neg).isNeg

/-- The sign of a value. -/
def FVal.neg : FVal → Bool
  | .nan _ => false
  | .inf s => s
  | .fin s _ _ => s

/-- Whether a value is NaN. -/
def FVal.isNan : FVal → Bool
  | .nan _ => true
  | _ => false

/-- Whether a value is a signalling NaN. -/
def FVal.isSnan : FVal → Bool
  | .nan s => s
  | _ => false

/-- Whether a value is zero. -/
def FVal.isZero : FVal → Bool
  | .fin _ m _ => m == 0
  | _ => false

/-- Whether a value is infinite. -/
def FVal.isInf : FVal → Bool
  | .inf _ => true
  | _ => false

/-- The opposite value. -/
def FVal.opp : FVal → FVal
  | .nan s => .nan s
  | .inf s => .inf (!s)
  | .fin s m e => .fin (!s) m e

/-- The canonical NaN, with NV when an operand was signalling (R63). -/
def FFmt.nanOf (t : FFmt) (ops : List FVal) : Nat × Flags :=
  (t.nan, { nv := ops.any FVal.isSnan })

/-- The sign of an exact zero sum (R61): that of the terms when they agree, else plus, or minus in RDN. -/
def zeroSign (rm : RM) (a b : Bool) : Bool := if a == b then a else rm == .rdn

/-- a + b, rounded once (R151). -/
def FFmt.add (t : FFmt) (v : FpEnv) (a b : FVal) : Nat × Flags :=
  match a, b with
  | .nan _, _ => t.nanOf [a, b]
  | _, .nan _ => t.nanOf [a, b]
  | .inf s, .inf r => if s == r then (t.sign s + t.infCode, {}) else (t.nan, .invalid)
  | .inf s, _ => (t.sign s + t.infCode, {})
  | _, .inf s => (t.sign s + t.infCode, {})
  | .fin s _ _, .fin r _ _ =>
    let d := a.dy.add b.dy
    if d.n == 0 then (t.sign (zeroSign v.rm s r), {}) else t.finish v d.isNeg d.mag

/-- a · b, rounded once (R151). -/
def FFmt.mul (t : FFmt) (v : FpEnv) (a b : FVal) : Nat × Flags :=
  let s := xor a.neg b.neg
  if a.isNan || b.isNan then t.nanOf [a, b]
  else if (a.isInf && b.isZero) || (a.isZero && b.isInf) then (t.nan, .invalid)
  else if a.isInf || b.isInf then (t.sign s + t.infCode, {})
  else t.finish v s (a.dy.mul b.dy).mag

/-- ±(a · b) ± c with one rounding; `np` negates the product and `nc` the addend (R152). -/
def FFmt.fma (t : FFmt) (v : FpEnv) (np nc : Bool) (a b c0 : FVal) : Nat × Flags :=
  let c := if nc then c0.opp else c0
  let s := xor (xor a.neg b.neg) np
  if !(a.isNan || b.isNan) && ((a.isInf && b.isZero) || (a.isZero && b.isInf)) then (t.nan, .invalid)
  else if a.isNan || b.isNan || c.isNan then t.nanOf [a, b, c]
  else if a.isInf || b.isInf then
    if c.isInf && c.neg != s then (t.nan, .invalid) else (t.sign s + t.infCode, {})
  else if c.isInf then (t.sign c.neg + t.infCode, {})
  else
    let p := a.dy.mul b.dy
    let d := (if np then p.neg else p).add c.dy
    if d.n == 0 then (t.sign (zeroSign v.rm s c.neg), {}) else t.finish v d.isNeg d.mag

/-- The quotient of two magnitudes, cut after at least 64 significant bits. -/
def Mag.div (a b : Mag) : Mag :=
  let k := Nat.log2 b.m + 66
  let n := a.m * 2 ^ k
  { m := n / b.m, e := a.e - b.e - (k : Int), more := n % b.m != 0 }

/-- a ÷ b, rounded once (R151). -/
def FFmt.div (t : FFmt) (v : FpEnv) (a b : FVal) : Nat × Flags :=
  let s := xor a.neg b.neg
  if a.isNan || b.isNan then t.nanOf [a, b]
  else if (a.isInf && b.isInf) || (a.isZero && b.isZero) then (t.nan, .invalid)
  else if a.isInf then (t.sign s + t.infCode, {})
  else if b.isZero then (t.sign s + t.infCode, { dz := true })
  else if b.isInf || a.isZero then (t.sign s, {})
  else t.finish v s (a.dy.mag.div b.dy.mag)

/-- Whether a is below b, with -0 below +0 (R151). -/
def FVal.lessTotal (a b : FVal) : Bool :=
  match a, b with
  | .nan _, _ => false
  | _, .nan _ => false
  | .inf s, .inf r => s && !r
  | .inf s, .fin _ _ _ => s
  | .fin _ _ _, .inf r => !r
  | .fin s _ _, .fin r _ _ => a.dy.lt b.dy || (a.isZero && b.isZero && s && !r)

/-- The code of a value that the format holds. -/
def FFmt.code (t : FFmt) (a : FVal) : Nat :=
  match a with
  | .nan _ => t.nan
  | .inf s => t.sign s + t.infCode
  | .fin s m e => t.sign s + t.pack m e

/-- FMIN and FMAX (R151): one NaN gives the other operand. -/
def FFmt.minmax (t : FFmt) (max : Bool) (a b : FVal) : Nat × Flags :=
  let f : Flags := { nv := a.isSnan || b.isSnan }
  if a.isNan && b.isNan then (t.nan, f)
  else if a.isNan then (t.code b, f)
  else if b.isNan then (t.code a, f)
  else (t.code (if max then (if a.lessTotal b then b else a) else (if b.lessTotal a then b else a)), f)

/-- FABS and FNEG (R151): a NaN becomes the canonical NaN. -/
def FFmt.setSign (t : FFmt) (f : Bool → Bool) (a : FVal) : Nat × Flags :=
  match a with
  | .nan _ => t.nanOf [a]
  | .inf s => (t.sign (f s) + t.infCode, {})
  | .fin s m e => (t.sign (f s) + t.pack m e, {})

/-- The relations of R149 and R150. -/
inductive FRel where
  | eq | ne | lt | le | gt | ge | un | or
  deriving DecidableEq, Repr

/-- The relation of a code. -/
def FRel.ofCode : Nat → FRel
  | 0 => .eq
  | 1 => .ne
  | 2 => .lt
  | 3 => .le
  | 4 => .gt
  | 5 => .ge
  | 6 => .un
  | _ => .or

/-- -0 and +0 compare equal (R150). -/
def FVal.lessNum (a b : FVal) : Bool := !(a.isZero && b.isZero) && a.lessTotal b

/-- A float compare (R150). -/
def fcompare (r : FRel) (a b : FVal) : Bool × Flags :=
  let anyNan := a.isNan || b.isNan
  let quiet : Flags := { nv := a.isSnan || b.isSnan }
  let ordered : Flags := { nv := anyNan }
  let lt := a.lessNum b
  let gt := b.lessNum a
  match r with
  | .eq => (!anyNan && !lt && !gt, quiet)
  | .ne => (anyNan || lt || gt, quiet)
  | .lt => (lt, ordered)
  | .le => (!anyNan && !gt, ordered)
  | .gt => (gt, ordered)
  | .ge => (!anyNan && !lt, ordered)
  | .un => (anyNan, quiet)
  | .or => (!anyNan, quiet)

/-- The class mask of FCLASS (R150). -/
def FFmt.classMask (t : FFmt) (x : Nat) : Nat :=
  match t.unpack x with
  | .nan true => 2 ^ 8
  | .nan false => 2 ^ 9
  | .inf s => if s then 1 else 2 ^ 7
  | .fin s m _ =>
    if m == 0 then (if s then 2 ^ 3 else 2 ^ 4)
    else if t.isSub x then (if s then 2 ^ 2 else 2 ^ 5)
    else (if s then 2 else 2 ^ 6)

/-- A float converted to a float format with one rounding (R154): a NaN becomes the canonical one. -/
def FFmt.convert (t : FFmt) (v : FpEnv) (a : FVal) : Nat × Flags :=
  match a with
  | .nan _ => t.nanOf [a]
  | .inf s => (t.sign s + t.infCode, {})
  | .fin s m e => t.finish v s { m := m, e := e }

/-- An integer converted to a float format (R66). -/
def FFmt.ofInt (t : FFmt) (v : FpEnv) (n : Int) : Nat × Flags :=
  t.finish v (decide (n < 0)) { m := n.natAbs, e := 0 }

/-- A magnitude rounded to an integer. -/
def Mag.toInt (x : Mag) (neg : Bool) (rm : RM) : Int :=
  let r := x.roundAt neg rm 0
  if neg then -(r.1 : Int) else (r.1 : Int)

/-- A float converted to an integer in lo to hi (R66): NaN gives 0; NV unless SAT when clamping changed the value or for NaN;
otherwise NX when the integer is not the input's value. -/
def FVal.toInt (a : FVal) (rm : RM) (sat : Bool) (lo hi : Int) : Int × Flags :=
  match a with
  | .nan _ => (0, if sat then { nx := true } else .invalid)
  | .inf s => (if s then lo else hi, if sat then { nx := true } else .invalid)
  | .fin s m e =>
    let x : Mag := { m := m, e := e }
    let i := x.toInt s rm
    let c := if i < lo then lo else if hi < i then hi else i
    let inexact := (x.roundAt s rm 0).2
    (c, if c != i then (if sat then { nx := true } else .invalid) else { nx := inexact })

/-- The integer square root of n below 2^(2k), bit by bit. -/
def isqrt : Nat → Nat → Nat
  | 0, _ => 0
  | k + 1, n =>
    let r := 2 * isqrt k (n / 4)
    if (r + 1) * (r + 1) ≤ n then r + 1 else r

/-- A magnitude with an even exponent. -/
def Mag.evenExp (x : Mag) : Mag := if x.e % 2 == 0 then x else { m := x.m * 2, e := x.e - 1, more := x.more }

/-- The square root of a magnitude, cut after at least 40 significant bits. -/
def Mag.sqrt (x0 : Mag) : Mag :=
  let x := x0.evenExp
  let n := x.m * 2 ^ 80
  let k := Nat.log2 n / 2 + 1
  let r := isqrt k n
  { m := r, e := (x.e - 80) / 2, more := r * r != n }

/-- The reciprocal square root of a non-zero magnitude. -/
def Mag.rsqrt (x0 : Mag) : Mag :=
  let x := x0.evenExp
  let b := 2 * (Nat.log2 x.m / 2 + 45)
  let n := 2 ^ b / x.m
  let r := isqrt (Nat.log2 n / 2 + 1) n
  { m := r, e := -(x.e / 2) - ((b / 2 : Nat) : Int), more := r * r * x.m != 2 ^ b }

/-- The working precision of the transcendental functions, in fraction bits. Each of their values differs from every rounding
boundary of fp32, fp16 and bf16 by far more than the error of the sums below (DEDUCED, log entry 3). -/
def spQ : Nat := 256

/-- The error bound of the sums below, in units of 2^-spQ. -/
def spErr : Nat := 2 ^ 24

/-- atan(1/d) · 2^spQ by its series; `k` terms from the term in (1/d)^i. -/
def atanInv (d : Nat) : Nat → Nat → Nat → Bool → Int
  | 0, _, _, _ => 0
  | k + 1, p, i, neg => (if neg then -((p / i : Nat) : Int) else ((p / i : Nat) : Int)) + atanInv d k (p / (d * d)) (i + 2) (!neg)

/-- π · 2^spQ (Machin). -/
def spPi : Nat :=
  (16 * atanInv 5 60 (2 ^ spQ / 5) 1 false - 4 * atanInv 239 20 (2 ^ spQ / 239) 1 false).toNat

/-- The sum of z^i / i over odd i, in units of 2^-spQ: atanh z, for |z| · 2^spQ = p and z² · 2^spQ = z2. -/
def atanhSum (z2 : Nat) : Nat → Nat → Nat → Nat
  | 0, _, _ => 0
  | k + 1, p, i => p / i + atanhSum z2 k (p * z2 / 2 ^ spQ) (i + 2)

/-- ln 2 · 2^spQ, twice atanh(1/3). -/
def spLn2 : Nat := 2 * atanhSum (2 ^ spQ / 9) 90 (2 ^ spQ / 3) 1

/-- The sum of t^k / k! from the term `p`, in units of 2^-spQ. -/
def expSum (t : Nat) : Nat → Nat → Nat → Nat
  | 0, _, _ => 0
  | k + 1, p, i => p + expSum t k (p * t / 2 ^ spQ / i) (i + 1)

/-- exp(t) · 2^spQ for t · 2^spQ below 2^spQ. -/
def spExp (t : Nat) : Nat := expSum t 70 (2 ^ spQ) 1

/-- The alternating sum of a sine or cosine: terms p, then p·x2/(i(i+1)), and so on, in units of 2^-spQ. -/
def trigSum (x2 : Nat) : Nat → Nat → Nat → Bool → Int
  | 0, _, _, _ => 0
  | k + 1, p, i, neg =>
    (if neg then -(p : Int) else (p : Int)) + trigSum x2 k (p * x2 / 2 ^ spQ / (i * (i + 1))) (i + 2) (!neg)

/-- sin θ / θ · 2^spQ for θ² · 2^spQ = x2. -/
def spSinc (x2 : Nat) : Nat := (trigSum x2 45 (2 ^ spQ) 2 false).toNat

/-- cos θ · 2^spQ for θ² · 2^spQ = x2. -/
def spCos (x2 : Nat) : Nat := (trigSum x2 45 (2 ^ spQ) 1 false).toNat

/-- 2^x for a dyadic x that is no integer. -/
def exp2Mag (x : Dy) : Mag :=
  let s := (-x.e).toNat
  let n := x.n / (2 ^ s : Nat)
  let f := (x.n % (2 ^ s : Nat)).toNat
  if n < -4000 then { m := 1, e := -4096, more := true }
  else if 4000 < n then { m := 1, e := 4096, more := true }
  else
    let fq := if s ≤ spQ then f * 2 ^ (spQ - s) else f / 2 ^ (s - spQ)
    let v := spExp (fq * spLn2 / 2 ^ spQ)
    let lo := if v < 2 ^ spQ + spErr then 2 ^ spQ else if 2 ^ (spQ + 1) < v + 2 * spErr then 2 ^ (spQ + 1) - 2 * spErr else v - spErr
    { m := lo, e := n - (spQ : Int), more := true }

/-- log₂ of a positive dyadic number that is no power of two: its sign and magnitude. -/
def log2Mag (x : Mag) : Bool × Mag :=
  let l := Nat.log2 x.m
  let y0 := x.m * 2 ^ spQ / 2 ^ l
  let big := Nat.ble (3 * 2 ^ (spQ - 1)) y0
  let n := (l : Int) + x.e + (if big then 1 else 0)
  let y := if big then y0 / 2 else y0
  let one := 2 ^ spQ
  let below := Nat.blt y one
  let z := (if below then one - y else y - one) * one / (y + one)
  let ln := 2 * atanhSum (z * z / one) 60 z 1
  let lg := ln * one / spLn2
  let total : Int := n * (one : Int) + (if below then -(lg : Int) else (lg : Int))
  (decide (total < 0), { m := total.natAbs - spErr, e := -(spQ : Int), more := true })

/-- sin or cos of 2πt for |t| ≤ 1/8, t not zero, with its magnitude: t = m · 2^e. -/
def sinMag (m : Nat) (e : Int) : Mag :=
  let tq := if 0 ≤ e + (spQ : Int) then m * 2 ^ (e + (spQ : Int)).toNat else m / 2 ^ (-(e + (spQ : Int))).toNat
  let th := 2 * spPi * tq / 2 ^ spQ
  let v := spSinc (th * th / 2 ^ spQ)
  { m := (v * spPi / 2 ^ spQ - spErr) * m, e := e + 1 - (spQ : Int), more := true }

/-- cos 2πt for |t| ≤ 1/8, t not zero. -/
def cosMag (m : Nat) (e : Int) : Mag :=
  let tq := if 0 ≤ e + (spQ : Int) then m * 2 ^ (e + (spQ : Int)).toNat else m / 2 ^ (-(e + (spQ : Int))).toNat
  let th := 2 * spPi * tq / 2 ^ spQ
  let v := spCos (th * th / 2 ^ spQ)
  { m := (if 2 ^ spQ < v + spErr then 2 ^ spQ - spErr else v) - spErr, e := -(spQ : Int), more := true }

/-- sin 2πx of a dyadic x as a sign and a magnitude; the exact values of R67 among them. `quarter` is 0 for the sine and 1 for the
cosine, which is the sine a quarter turn on. -/
def trigMag (quarter : Nat) (x : Dy) : Bool × Mag :=
  -- 8x as a dyadic number over s fraction bits; the turn modulo 8 eighths
  let s := (-x.e).toNat
  let eighths : Int := if 0 ≤ x.e then 0 else x.n * 8
  let whole := (if s == 0 then 0 else (eighths / (2 ^ s : Nat)) % 8).toNat
  let frac := (if s == 0 then 0 else (eighths % (2 ^ s : Nat)).toNat)
  -- distance to the nearest quarter turn, in eighths over 2^s
  let pos := (whole * 2 ^ s + frac + quarter * 2 * 2 ^ s) % (8 * 2 ^ s)
  let k := (pos + 2 ^ s) / (2 * 2 ^ s) % 4
  let base := (pos + 2 ^ s) % (2 * 2 ^ s)
  let neg := Nat.blt base (2 ^ s)
  let d := if neg then 2 ^ s - base else base - 2 ^ s
  let e : Int := -(s : Int) - 3
  let one : Mag := { m := 1, e := 0 }
  match k with
  | 0 => if d == 0 then (false, { m := 0, e := 0 }) else (neg, sinMag d e)
  | 1 => if d == 0 then (false, one) else (false, cosMag d e)
  | 2 => if d == 0 then (false, { m := 0, e := 0 }) else (!neg, sinMag d e)
  | _ => if d == 0 then (true, one) else (true, cosMag d e)

/-- tanh of a non-zero magnitude. -/
def tanhMag (x : Mag) : Mag :=
  if x.lead < -27 then { m := x.m * 2 ^ 30 - 1, e := x.e - 30, more := true }
  else if 6 ≤ x.lead then { m := 2 ^ 90 - 1, e := -90, more := true }
  else
    let q2 : Int := x.e + 1 + (spQ : Int)
    let t := if 0 ≤ q2 then x.m * 2 ^ q2.toNat else x.m / 2 ^ (-q2).toNat
    let n := t / spLn2
    let r := t % spLn2
    let ex := spExp r * 2 ^ n
    { m := (ex - 2 ^ spQ) * 2 ^ spQ / (ex + 2 ^ spQ) - spErr, e := -(spQ : Int), more := true }

/-- The special functions of R67, in the order of their function numbers (R153). -/
inductive SpFn where
  | rcp | rsq | sqrt | ex2 | lg2 | sin | cos | tanh
  deriving DecidableEq, Repr

/-- RCP (R67). -/
def FFmt.rcp (t : FFmt) (v : FpEnv) (a : FVal) : Nat × Flags :=
  match a with
  | .nan _ => t.nanOf [a]
  | .inf s => (t.sign s, {})
  | .fin s m e =>
    if m == 0 then (t.sign s + t.infCode, { dz := true })
    else t.finish v s (Mag.div { m := 1, e := 0 } { m := m, e := e })

/-- RSQ (R67). -/
def FFmt.rsq (t : FFmt) (v : FpEnv) (a : FVal) : Nat × Flags :=
  match a with
  | .nan _ => t.nanOf [a]
  | .inf s => if s then (t.nan, .invalid) else (0, {})
  | .fin s m e =>
    if m == 0 then (t.sign s + t.infCode, { dz := true })
    else if s then (t.nan, .invalid)
    else t.finish v false (Mag.rsqrt { m := m, e := e })

/-- SQRT (R67). -/
def FFmt.sqrt (t : FFmt) (v : FpEnv) (a : FVal) : Nat × Flags :=
  match a with
  | .nan _ => t.nanOf [a]
  | .inf s => if s then (t.nan, .invalid) else (t.infCode, {})
  | .fin s m e =>
    if m == 0 then (t.sign s, {})
    else if s then (t.nan, .invalid)
    else t.finish v false (Mag.sqrt { m := m, e := e })

/-- EX2 (R67). -/
def FFmt.ex2 (t : FFmt) (v : FpEnv) (a : FVal) : Nat × Flags :=
  match a with
  | .nan _ => t.nanOf [a]
  | .inf s => if s then (0, {}) else (t.infCode, {})
  | .fin s m e =>
    let d := a.dy
    if m == 0 then t.finish v false { m := 1, e := 0 }
    else if 14 < (Nat.log2 m : Int) + e then
      t.finish v false (if s then { m := 1, e := -20000 } else { m := 1, e := 20000 })
    else if 0 ≤ e then t.finish v false { m := 1, e := d.n * (2 ^ e.toNat : Nat) }
    else if m % 2 ^ (-e).toNat == 0 then t.finish v false { m := 1, e := d.n / (2 ^ (-e).toNat : Nat) }
    else t.finish v false (exp2Mag d)

/-- LG2 (R67). -/
def FFmt.lg2 (t : FFmt) (v : FpEnv) (a : FVal) : Nat × Flags :=
  match a with
  | .nan _ => t.nanOf [a]
  | .inf s => if s then (t.nan, .invalid) else (t.infCode, {})
  | .fin s m e =>
    if m == 0 then (t.sign true + t.infCode, { dz := true })
    else if s then (t.nan, .invalid)
    else if m == 2 ^ Nat.log2 m then t.ofInt v ((Nat.log2 m : Int) + e)
    else
      let r := log2Mag { m := m, e := e }
      t.finish v r.1 r.2

/-- SIN (R67): a zero result takes the sign of x. -/
def FFmt.sin (t : FFmt) (v : FpEnv) (a : FVal) : Nat × Flags :=
  match a with
  | .nan _ => t.nanOf [a]
  | .inf _ => (t.nan, .invalid)
  | .fin s _ _ =>
    let r := trigMag 0 a.dy
    if r.2.m == 0 then (t.sign s, {}) else t.finish v r.1 r.2

/-- COS (R67): a zero result is +0. -/
def FFmt.cos (t : FFmt) (v : FpEnv) (a : FVal) : Nat × Flags :=
  match a with
  | .nan _ => t.nanOf [a]
  | .inf _ => (t.nan, .invalid)
  | .fin _ _ _ =>
    let r := trigMag 1 a.dy
    if r.2.m == 0 then (0, {}) else t.finish v r.1 r.2

/-- TANH (R67). -/
def FFmt.tanh (t : FFmt) (v : FpEnv) (a : FVal) : Nat × Flags :=
  match a with
  | .nan _ => t.nanOf [a]
  | .inf s => t.finish v s { m := 1, e := 0 }
  | .fin s m e => if m == 0 then (t.sign s, {}) else t.finish v s (tanhMag { m := m, e := e })

/-- A special function of an operand (R67, R153). -/
def FFmt.special (t : FFmt) (v : FpEnv) (f : SpFn) (a : FVal) : Nat × Flags :=
  match f with
  | .rcp => t.rcp v a
  | .rsq => t.rsq v a
  | .sqrt => t.sqrt v a
  | .ex2 => t.ex2 v a
  | .lg2 => t.lg2 v a
  | .sin => t.sin v a
  | .cos => t.cos v a
  | .tanh => t.tanh v a

/-- The exact sum of a list of dyadic numbers. -/
def dySum : List Dy → Dy
  | [] => { n := 0, e := 0 }
  | d :: ds => d.add (dySum ds)

/-- The exact sum of fp32 terms rounded once (R118, R164): NaN for a NaN term or for both infinities; an infinity; an exact zero is
-0 only when every term is -0. -/
def sumFp32 (v : FpEnv) (terms : List FVal) : Nat × Flags :=
  let t := FFmt.fp32
  let pinf := terms.any (fun x => x == .inf false)
  let ninf := terms.any (fun x => x == .inf true)
  if terms.any FVal.isNan then (t.nan, { nv := terms.any FVal.isSnan || (pinf && ninf) })
  else if pinf && ninf then (t.nan, .invalid)
  else if pinf then (t.infCode, {})
  else if ninf then (t.sign true + t.infCode, {})
  else
    let d := dySum (terms.map FVal.dy)
    if d.n == 0 then (t.sign (terms.all (fun x => x.isZero && x.neg)), {}) else t.finish v d.isNeg d.mag

/-- The element types of MR.ET (R36, R59). -/
inductive ET where
  | int32 | uint32 | int16x2 | uint16x2 | int8x4 | uint8x4 | fp32 | fp16x2 | bf16x2
  deriving DecidableEq, Repr

/-- The type of an ET code; 1001 to 1111 are reserved and never reach it (R36). -/
def ET.ofCode : Nat → ET
  | 0 => .int32
  | 1 => .uint32
  | 2 => .int16x2
  | 3 => .uint16x2
  | 4 => .int8x4
  | 5 => .uint8x4
  | 6 => .fp32
  | 7 => .fp16x2
  | _ => .bf16x2

/-- Bits of one element (R59). -/
def ET.bits : ET → Nat
  | .int32 | .uint32 | .fp32 => 32
  | .int16x2 | .uint16x2 | .fp16x2 | .bf16x2 => 16
  | .int8x4 | .uint8x4 => 8

/-- Whether the elements are two's complement. -/
def ET.signed : ET → Bool
  | .int32 | .int16x2 | .int8x4 => true
  | _ => false

/-- Whether the elements are integers. -/
def ET.isInt : ET → Bool
  | .fp32 | .fp16x2 | .bf16x2 => false
  | _ => true

/-- The float format of an element type. -/
def ET.fmt : ET → FFmt
  | .fp16x2 => .fp16
  | .bf16x2 => .bf16
  | _ => .fp32

/-- The elements of a lane, element 0 first (R59). -/
def ET.split (t : ET) (w : Word) : List Nat :=
  match t.bits with
  | 32 => [w.toNat]
  | 16 => [w.toNat % 2 ^ 16, w.toNat / 2 ^ 16]
  | _ => [w.toNat % 2 ^ 8, w.toNat / 2 ^ 8 % 2 ^ 8, w.toNat / 2 ^ 16 % 2 ^ 8, w.toNat / 2 ^ 24]

/-- A lane from its elements. -/
def ET.join (t : ET) (xs : List Nat) : Word :=
  BitVec.ofNat 32 (xs.foldr (fun x acc => x % 2 ^ t.bits + acc * 2 ^ t.bits) 0)

/-- An element read as its type says. -/
def ET.toInt (t : ET) (x : Nat) : Int :=
  if t.signed && Nat.ble (2 ^ (t.bits - 1)) x then (x : Int) - (2 ^ t.bits : Nat) else (x : Int)

/-- The least value of an integer element type. -/
def ET.lo (t : ET) : Int := if t.signed then -((2 ^ (t.bits - 1) : Nat) : Int) else 0

/-- The greatest value of an integer element type. -/
def ET.hi (t : ET) : Int := ((if t.signed then 2 ^ (t.bits - 1) else 2 ^ t.bits : Nat) : Int) - 1

end Sys2Proof.Machine
end

