-- ==== Sys2Proof/Config.lean ====
section
/-! DEFINITION. What the spec leaves to the implementation, as opaque constants without a body: nothing in Lean can evaluate them or
prove a value of them, so a statement that mentions one holds for every value. -/

namespace Sys2Proof.Config

/-- Free bits: what a weight-window byte, a scratchpad byte or a tile element holds where no rule gives it a value (log entry 4). -/
opaque freeByte : Nat → Byte

/-- Free words: what a result holds that no rule states (log entry 4). -/
opaque freeWord : Nat → Word

/-- The AES-256-XTS encryption of one 32-byte granule under a key slot's key, and its inverse, as the DRAM controller performs it
(R422): the key bytes, the granule number, the bytes. -/
opaque xtsEncrypt : List Byte → Nat → List Byte → List Byte
/-- R422. -/
opaque xtsDecrypt : List Byte → Nat → List Byte → List Byte

/-- SHA-256 (R424, R425). -/
opaque sha256 : List Byte → List Byte

/-- The boot ROM (R425); and what measurement 2 gives of the command-core firmware and its version number while none runs. -/
opaque bootRom : List Byte
/-- R425, R429. -/
opaque firmware : List Byte
/-- R425. -/
opaque firmwareVersion : Word

/-- The minimum version FWSVN as it was fused at package test (R424, R427). -/
opaque fusedSvn : Word

/-- The hash of the firmware signer's public key that is fused at package test (R424). -/
opaque fusedKeyHash : List Byte

/-- Whether a signature verifies under a public key over a digest: RFC 8554, LMS_SHA256_M32_H20 with LMOTS_SHA256_N32_W4 (R424). -/
opaque lmsVerify : List Byte → List Byte → List Byte → Bool

/-- Whether debug is unlocked (R425). -/
opaque debugUnlocked : Bool

/-- The certificate chain that ends in the boot key of a position of the identity counter (R425). -/
opaque certificates : Nat → List Byte

/-- The signature of a text by a boot key: the position of the identity counter, the number of the signature, the text (R425). -/
opaque sign : Nat → Nat → List Byte → List Byte

/-- The device's half of a key exchange for the requester's half (R425). -/
opaque exchange : Nat → List Byte → List Byte

/-- The fixed hash of a fabric endpoint, a fabric id and a die, that chooses the port its packets leave by (R405). -/
opaque portHash : Nat × Nat → Nat

end Sys2Proof.Config
end

