-- ==== Sys2Proof/Syntax.lean ====
section
/-! DEFINITION. The syntax of the three instruction streams and of the machine's own steps: one constructor per row of the
operation table. Fields of an encoded word are bit vectors of the width the table gives them; a flag is a Bool. -/

namespace Sys2Proof


/-- Operands: a word with only the S bit. -/
structure S0 where
  s : Bool
  deriving DecidableEq, Repr

/-- Operands: a hint: payload `p`, hint number `k` (R41). -/
structure Hint where
  s : Bool
  p : BitVec 20
  k : BitVec 4
  deriving DecidableEq, Repr

/-- Operands: MODE (R37): the four update bits, then the fields. -/
structure ModeF where
  s : Bool
  g : Bool
  t : Bool
  m : Bool
  x : Bool
  p : BitVec 3
  n : Bool
  e : BitVec 4
  r : BitVec 3
  a : Bool
  f : Bool
  l : Bool
  c : BitVec 6
  deriving DecidableEq, Repr

/-- Operands: the BR format (R86): predicate, negate, uniform hint, signed word offset. -/
structure Br where
  s : Bool
  p : BitVec 3
  n : Bool
  u : Bool
  o : BitVec 20
  deriving DecidableEq, Repr

/-- Operands: one scalar source. -/
structure SA where
  s : Bool
  a : BitVec 5
  deriving DecidableEq, Repr

/-- Operands: one scalar destination. -/
structure SD where
  s : Bool
  d : BitVec 5
  deriving DecidableEq, Repr

/-- Operands: a scalar destination and a scalar source. -/
structure SDA where
  s : Bool
  d : BitVec 5
  a : BitVec 5
  deriving DecidableEq, Repr

/-- Operands: a scalar destination and two scalar sources: `b` is six bits, since 63 stands for the LIMM literal (R34). -/
structure SDAB where
  s : Bool
  d : BitVec 5
  a : BitVec 5
  b : BitVec 6
  deriving DecidableEq, Repr

/-- Operands: REGANG (R97): id, trap bit, timeout code. -/
structure RegangF where
  s : Bool
  i : BitVec 5
  t : Bool
  c : BitVec 3
  deriving DecidableEq, Repr

/-- Operands: SPLIT (R101): width code. -/
structure SplitF where
  s : Bool
  w : BitVec 3
  deriving DecidableEq, Repr

/-- Operands: FUSE (R101): scalar destination, width code. -/
structure FuseF where
  s : Bool
  d : BitVec 5
  w : BitVec 3
  deriving DecidableEq, Repr

/-- Operands: one vector destination. -/
structure VD where
  s : Bool
  d : BitVec 6
  deriving DecidableEq, Repr

/-- Operands: predicate logic (R107): `x` negates pA, `y` negates pB. -/
structure P3 where
  s : Bool
  d : BitVec 3
  a : BitVec 3
  b : BitVec 3
  x : Bool
  y : Bool
  deriving DecidableEq, Repr

/-- Operands: DEACT (R107). -/
structure DeactF where
  s : Bool
  n : Bool
  a : BitVec 3
  deriving DecidableEq, Repr

/-- Operands: a barrier number (R113). -/
structure BarB where
  s : Bool
  b : BitVec 6
  deriving DecidableEq, Repr

/-- Operands: a scalar destination and a barrier number (R113). -/
structure BarDB where
  s : Bool
  d : BitVec 5
  b : BitVec 6
  deriving DecidableEq, Repr

/-- Operands: a barrier number and a scalar source (R113). -/
structure BarBA where
  s : Bool
  b : BitVec 6
  a : BitVec 5
  deriving DecidableEq, Repr

/-- Operands: BAR.FOLD (R113). -/
structure BarFoldF where
  s : Bool
  d : BitVec 5
  b : BitVec 6
  a : BitVec 5
  o : BitVec 3
  deriving DecidableEq, Repr

/-- Operands: SRD (R137). -/
structure SrdF where
  s : Bool
  d : BitVec 5
  n : BitVec 13
  deriving DecidableEq, Repr

/-- Operands: SWR (R137). -/
structure SwrF where
  s : Bool
  a : BitVec 5
  n : BitVec 13
  deriving DecidableEq, Repr

/-- Operands: SXCH (R137). -/
structure SxchF where
  s : Bool
  d : BitVec 5
  a : BitVec 5
  n : BitVec 13
  deriving DecidableEq, Repr

/-- Operands: the V3 format with three vector registers (R25): `x` is La, `y` is Lb. -/
structure V3 where
  s : Bool
  d : BitVec 6
  a : BitVec 6
  b : BitVec 6
  x : Bool
  y : Bool
  deriving DecidableEq, Repr

/-- Operands: a unary V3 word: `x` is La. -/
structure V2 where
  s : Bool
  d : BitVec 6
  a : BitVec 6
  x : Bool
  deriving DecidableEq, Repr

/-- Operands: a compare (R149, R150): `n` is ANY, `r` the relation. -/
structure CmpF where
  s : Bool
  d : BitVec 3
  a : BitVec 6
  b : BitVec 6
  x : Bool
  y : Bool
  n : Bool
  r : BitVec 3
  deriving DecidableEq, Repr

/-- Operands: CVT (R154): source type `c`, destination type `e`, HS `h`, HD `k`. -/
structure CvtF where
  s : Bool
  d : BitVec 6
  a : BitVec 6
  c : BitVec 3
  e : BitVec 3
  x : Bool
  h : Bool
  k : Bool
  deriving DecidableEq, Repr

/-- Operands: NENC and NDEC (R155): narrow type `t`. -/
structure NencF where
  s : Bool
  d : BitVec 6
  a : BitVec 6
  b : BitVec 6
  x : Bool
  y : Bool
  t : BitVec 3
  deriving DecidableEq, Repr

/-- Operands: PACK and UNPACK (R156): `m` is M, `w` the element width code. -/
structure PackF where
  s : Bool
  d : BitVec 6
  a : BitVec 6
  m : Bool
  x : Bool
  w : BitVec 3
  deriving DecidableEq, Repr

/-- Operands: SEL (R157). -/
structure SelF where
  s : Bool
  d : BitVec 6
  a : BitVec 6
  b : BitVec 6
  x : Bool
  y : Bool
  p : BitVec 3
  deriving DecidableEq, Repr

/-- Operands: MOVS (R157). -/
structure MovsF where
  s : Bool
  d : BitVec 6
  a : BitVec 5
  deriving DecidableEq, Repr

/-- Operands: RDLANE (R157). -/
structure RdlaneF where
  s : Bool
  d : BitVec 5
  a : BitVec 6
  x : Bool
  deriving DecidableEq, Repr

/-- Operands: a cross-lane word with one vector source (R162). -/
structure V2M where
  s : Bool
  d : BitVec 6
  a : BitVec 6
  x : Bool
  m : Bool
  deriving DecidableEq, Repr

/-- Operands: a cross-lane word with two vector sources (R162). -/
structure V3M where
  s : Bool
  d : BitVec 6
  a : BitVec 6
  b : BitVec 6
  x : Bool
  y : Bool
  m : Bool
  deriving DecidableEq, Repr

/-- Operands: a vote (R163). -/
structure VoteF where
  s : Bool
  d : BitVec 3
  a : BitVec 3
  m : Bool
  deriving DecidableEq, Repr

/-- Operands: BALLOT (R163). -/
structure BallotF where
  s : Bool
  d : BitVec 5
  a : BitVec 3
  m : Bool
  deriving DecidableEq, Repr

/-- Operands: MATCH (R163): `e` names pE. -/
structure MatchF where
  s : Bool
  d : BitVec 5
  a : BitVec 6
  e : BitVec 3
  x : Bool
  m : Bool
  deriving DecidableEq, Repr

/-- Operands: REDUX and SCAN (R164): operation `o`. -/
structure ReduxF where
  s : Bool
  d : BitVec 6
  a : BitVec 6
  x : Bool
  m : Bool
  o : BitVec 3
  deriving DecidableEq, Repr

/-- Operands: a scalar word (R159): `b` is six bits, since 63 stands for the LIMM literal. -/
structure Sc3 where
  s : Bool
  d : BitVec 5
  a : BitVec 5
  b : BitVec 6
  deriving DecidableEq, Repr

/-- Operands: the VI format (R158). -/
structure VI where
  s : Bool
  d : BitVec 6
  a : BitVec 6
  i : BitVec 13
  deriving DecidableEq, Repr

/-- Operands: MOVI (R158). -/
structure MoviF where
  s : Bool
  d : BitVec 6
  i : BitVec 13
  deriving DecidableEq, Repr

/-- Operands: SADDI (R160). -/
structure SaddiF where
  s : Bool
  d : BitVec 5
  a : BitVec 5
  i : BitVec 13
  deriving DecidableEq, Repr

/-- Operands: the MEM format (R169): data, address vector, scalar base, width, policy. -/
structure MemF where
  s : Bool
  d : BitVec 6
  a : BitVec 6
  b : BitVec 5
  w : BitVec 3
  p : BitVec 2
  deriving DecidableEq, Repr

/-- Operands: LD.S (R169): the width field is 00w. -/
structure MemW1 where
  s : Bool
  d : BitVec 6
  a : BitVec 6
  b : BitVec 5
  w : BitVec 1
  p : BitVec 2
  deriving DecidableEq, Repr

/-- Operands: a MEM word of fixed width with a policy (R169). -/
structure MemP where
  s : Bool
  d : BitVec 6
  a : BitVec 6
  b : BitVec 5
  p : BitVec 2
  deriving DecidableEq, Repr

/-- Operands: LDS and LDC (R169): `k` is the sign-extending function. -/
structure LdsF where
  s : Bool
  d : BitVec 6
  a : BitVec 6
  b : BitVec 5
  w : BitVec 3
  k : Bool
  deriving DecidableEq, Repr

/-- Operands: a scratchpad MEM word of fixed width (R169). -/
structure MemN where
  s : Bool
  d : BitVec 6
  a : BitVec 6
  b : BitVec 5
  deriving DecidableEq, Repr

/-- Operands: STS (R169). -/
structure StsF where
  s : Bool
  d : BitVec 6
  a : BitVec 6
  b : BitVec 5
  w : BitVec 3
  deriving DecidableEq, Repr

/-- Operands: ATOM and RED (R182): class `w`, ordering `o`, operation `f`. -/
structure AtomF where
  s : Bool
  d : BitVec 6
  a : BitVec 6
  b : BitVec 5
  w : BitVec 3
  o : BitVec 2
  f : BitVec 3
  deriving DecidableEq, Repr

/-- Operands: ATOMS (R185): class `w`, no-return bit `n`, operation `f`. -/
structure AtomsF where
  s : Bool
  d : BitVec 6
  a : BitVec 6
  b : BitVec 5
  w : BitVec 3
  n : Bool
  f : BitVec 3
  deriving DecidableEq, Repr

/-- Operands: a fence (R186): scope `c`. -/
structure FenceF where
  s : Bool
  c : BitVec 2
  deriving DecidableEq, Repr

/-- Operands: LD.ACQ (R186): the width field is 01w, scope `c`. -/
structure LdAcqF where
  s : Bool
  d : BitVec 6
  a : BitVec 6
  b : BitVec 5
  w : BitVec 1
  c : BitVec 2
  deriving DecidableEq, Repr

/-- Operands: cache control and prefetch (R186). -/
structure CcF where
  s : Bool
  a : BitVec 6
  b : BitVec 5
  deriving DecidableEq, Repr

/-- Operands: MTEPS (R226): scope `c`. -/
structure MtepsF where
  s : Bool
  d : BitVec 5
  c : BitVec 2
  deriving DecidableEq, Repr

/-- Operands: a vector destination and a vector source. -/
structure VDA where
  s : Bool
  d : BitVec 6
  a : BitVec 6
  deriving DecidableEq, Repr

/-- Operands: QPOP (R264): `e` is sD, `t` is T. -/
structure QpopF where
  s : Bool
  d : BitVec 6
  e : BitVec 5
  t : Bool
  deriving DecidableEq, Repr

/-- Operands: MTRD and MTWR (R269): tile `t`. -/
structure MtrF where
  s : Bool
  d : BitVec 6
  a : BitVec 6
  x : Bool
  t : BitVec 4
  deriving DecidableEq, Repr

/-- Operands: TILESTAT (R270). -/
structure TilestatF where
  s : Bool
  d : BitVec 5
  t : BitVec 4
  deriving DecidableEq, Repr

/-- Operands: MSIG (R270). -/
structure MsigF where
  s : Bool
  k : BitVec 2
  a : BitVec 5
  deriving DecidableEq, Repr

/-- Operands: a copy word (R282): handle register `h`, coordinates `c`, layout scalar `l`. -/
structure CpF where
  s : Bool
  h : BitVec 6
  c : BitVec 6
  l : BitVec 5
  deriving DecidableEq, Repr

/-- Operands: CP.MCAST (R282): mask `m`. -/
structure CpMF where
  s : Bool
  h : BitVec 6
  c : BitVec 6
  l : BitVec 5
  m : BitVec 4
  deriving DecidableEq, Repr

/-- Operands: RG.NEXT (R291). -/
structure RgF where
  s : Bool
  d : BitVec 5
  a : BitVec 5
  c : Bool
  deriving DecidableEq, Repr

/-- Operands: CP.FREC (R295). -/
structure FrecF where
  s : Bool
  d : BitVec 5
  a : BitVec 5
  k : BitVec 4
  deriving DecidableEq, Repr

/-- Operands: TREE.RD (R331). -/
structure TreeRdF where
  s : Bool
  d : BitVec 5
  a : BitVec 5
  k : BitVec 3
  deriving DecidableEq, Repr

/-- Operands: a V3 word with three vector registers and no last-use bits (R331, R351). -/
structure V3N where
  s : Bool
  d : BitVec 6
  a : BitVec 6
  b : BitVec 6
  deriving DecidableEq, Repr

/-- Operands: NODE.RD (R331). -/
structure NodeRdF where
  s : Bool
  d : BitVec 6
  a : BitVec 6
  k : BitVec 4
  deriving DecidableEq, Repr

/-- Operands: two vector sources and no destination. -/
structure VAB where
  s : Bool
  a : BitVec 6
  b : BitVec 6
  deriving DecidableEq, Repr

/-- Operands: a scalar destination and the scalar source `b`, six bits as in `SDAB`. -/
structure SDB where
  s : Bool
  d : BitVec 5
  b : BitVec 6
  deriving DecidableEq, Repr

/-- Operands: BND.MIN and BND.SET (R377). -/
structure BndAF where
  s : Bool
  a : BitVec 5
  k : BitVec 3
  deriving DecidableEq, Repr

/-- Operands: BND.RD (R377). -/
structure BndDF where
  s : Bool
  d : BitVec 5
  k : BitVec 3
  deriving DecidableEq, Repr

/-- Operands: the MB format (R44): register `c`, condition `n`, signed word offset. -/
structure MbrF where
  s : Bool
  c : BitVec 4
  n : BitVec 3
  o : BitVec 18
  deriving DecidableEq, Repr

/-- Operands: the MG format with three sequencer registers (R44). -/
structure Mg3 where
  s : Bool
  d : BitVec 4
  a : BitVec 4
  b : BitVec 4
  deriving DecidableEq, Repr

/-- Operands: the MG format with a destination and one source. -/
structure Mg2 where
  s : Bool
  d : BitVec 4
  a : BitVec 4
  deriving DecidableEq, Repr

/-- Operands: the MI format (R44). -/
structure MiF where
  s : Bool
  d : BitVec 4
  a : BitVec 4
  i : BitVec 17
  deriving DecidableEq, Repr

/-- Operands: MARV (R267): `b` is the barrier number minus 1. -/
structure MDB where
  s : Bool
  d : BitVec 4
  b : BitVec 4
  deriving DecidableEq, Repr

/-- Operands: MWAIT (R267). -/
structure MAB where
  s : Bool
  a : BitVec 4
  b : BitVec 4
  deriving DecidableEq, Repr

/-- Operands: MSYNC (R267). -/
structure MB1 where
  s : Bool
  b : BitVec 4
  deriving DecidableEq, Repr

/-- Operands: a handle word of the sequencer (R268). -/
structure MA1 where
  s : Bool
  a : BitVec 4
  deriving DecidableEq, Repr

/-- Operands: MLD.A (R256): `x` is D, `k` the slot, `f` the format. -/
structure MldaF where
  s : Bool
  x : Bool
  k : BitVec 2
  a : BitVec 4
  b : BitVec 4
  f : BitVec 5
  deriving DecidableEq, Repr

/-- Operands: MLD.B (R256). -/
structure Mab where
  s : Bool
  a : BitVec 4
  b : BitVec 4
  deriving DecidableEq, Repr

/-- Operands: MMA (R256): tile `t`, slot `k`, window register `b`, formats `g` (B) and `f` (A), fresh bit `z`. -/
structure MmaF where
  s : Bool
  t : BitVec 4
  k : BitVec 2
  b : BitVec 4
  g : BitVec 5
  f : BitVec 5
  z : Bool
  deriving DecidableEq, Repr

/-- Operands: a tile (R255). -/
structure MT1 where
  s : Bool
  t : BitVec 4
  deriving DecidableEq, Repr

/-- Operands: MSTAT (R255). -/
structure MstatF where
  s : Bool
  t : BitVec 4
  d : BitVec 4
  deriving DecidableEq, Repr

/-- Operands: MPUSH (R256). -/
structure MpushF where
  s : Bool
  t : BitVec 4
  a : BitVec 4
  b : BitVec 4
  c : Bool
  deriving DecidableEq, Repr

/-- Operands: MST (R256): rounding `r`, saturation `x`, format `f`, clear bit `c`. -/
structure MstF where
  s : Bool
  t : BitVec 4
  a : BitVec 4
  b : BitVec 4
  r : BitVec 3
  x : Bool
  f : BitVec 5
  c : Bool
  deriving DecidableEq, Repr

/-- Operands: MSPEC (R256): shadow `u`, target `t`. -/
structure MspecF where
  s : Bool
  u : BitVec 4
  t : BitVec 4
  z : Bool
  deriving DecidableEq, Repr

/-- Operands: MRESOLVE.SIG (R272). -/
structure MresSigF where
  s : Bool
  d : BitVec 4
  a : BitVec 4
  k : BitVec 2
  deriving DecidableEq, Repr

/-- Operands: MCOMMIT (R256). -/
structure McommitF where
  s : Bool
  t : BitVec 4
  a : BitVec 4
  deriving DecidableEq, Repr

/-- Operands: spoke word with two sources (R308). -/
structure RvAB where
  b : BitVec 5
  a : BitVec 5
  deriving DecidableEq, Repr

/-- Operands: spoke word with a destination and a source (R308). -/
structure RvDA where
  a : BitVec 5
  d : BitVec 5
  deriving DecidableEq, Repr

/-- Operands: spoke word with one source (R308). -/
structure RvA where
  a : BitVec 5
  deriving DecidableEq, Repr

/-- Operands: spoke word with a destination and two sources (R308). -/
structure RvDAB where
  b : BitVec 5
  a : BitVec 5
  d : BitVec 5
  deriving DecidableEq, Repr

/-- Operands: spoke ring word (R311): cursor `c`. -/
structure RvRing where
  c : Bool
  a : BitVec 5
  d : BitVec 5
  deriving DecidableEq, Repr

/-- Operands: spoke word with one destination (R312). -/
structure RvD where
  d : BitVec 5
  deriving DecidableEq, Repr

/-- A RISC-V load of a spoke (R305): `w` is the log2 of the size, `u` zero-extends, `c` marks a 16-bit encoding. -/
structure RvLoad where
  c : Bool
  rd : BitVec 5
  rs1 : BitVec 5
  imm : BitVec 12
  w : BitVec 2
  u : Bool
  deriving DecidableEq, Repr

/-- A RISC-V store of a spoke (R305). -/
structure RvStore where
  c : Bool
  rs1 : BitVec 5
  rs2 : BitVec 5
  imm : BitVec 12
  w : BitVec 2
  deriving DecidableEq, Repr

/-- The AMO operations of RV64A (R307). -/
inductive AmoOp where
  | swap | add | xor | and | or | min | max | minu | maxu
  deriving DecidableEq, Repr

/-- An AMO of a spoke (R307): `dbl` for the 8-byte form. -/
structure RvAmo where
  op : AmoOp
  rd : BitVec 5
  rs1 : BitVec 5
  rs2 : BitVec 5
  aq : Bool
  rl : Bool
  dbl : Bool
  deriving DecidableEq, Repr

/-- LR of a spoke (R307). -/
structure RvLr where
  rd : BitVec 5
  rs1 : BitVec 5
  aq : Bool
  rl : Bool
  dbl : Bool
  deriving DecidableEq, Repr

/-- SC of a spoke (R307). -/
structure RvSc where
  rd : BitVec 5
  rs1 : BitVec 5
  rs2 : BitVec 5
  aq : Bool
  rl : Bool
  dbl : Bool
  deriving DecidableEq, Repr

/-- FENCE of a spoke (R306): mode, predecessor set, successor set, and the two ignored register fields. -/
structure RvFence where
  fm : BitVec 4
  pred : BitVec 4
  succ : BitVec 4
  rs1 : BitVec 5
  rd : BitVec 5
  deriving DecidableEq, Repr

/-- CSRRS or CSRRC with rs1 = x0 (R303): `clear` for CSRRC. -/
structure RvCsr where
  clear : Bool
  rd : BitVec 5
  csr : BitVec 12
  deriving DecidableEq, Repr

/-- RISC-V branch conditions. -/
inductive RvCond where
  | eq | ne | lt | ge | ltu | geu
  deriving DecidableEq, Repr

/-- RISC-V register-immediate operations of RV64I and Zbb/Zba with a 6-bit or 12-bit immediate. -/
inductive RvImmOp where
  | addi | slti | sltiu | xori | ori | andi | slli | srli | srai | rori
  | addiw | slliw | srliw | sraiw | roriw | slliUw
  deriving DecidableEq, Repr

/-- RISC-V register-register operations of RV64I, M, Zba and Zbb. -/
inductive RvRegOp where
  | add | sub | sll | slt | sltu | xor | srl | sra | or | and
  | addw | subw | sllw | srlw | sraw
  | mul | mulh | mulhsu | mulhu | div | divu | rem | remu | mulw | divw | divuw | remw | remuw
  | sh1add | sh2add | sh3add | addUw | sh1addUw | sh2addUw | sh3addUw
  | andn | orn | xnor | min | minu | max | maxu | rol | ror | rolw | rorw
  deriving DecidableEq, Repr

/-- RISC-V unary operations of Zbb. -/
inductive RvUnOp where
  | clz | ctz | cpop | clzw | ctzw | cpopw | sextB | sextH | zextH | orcB | rev8
  deriving DecidableEq, Repr

/-- Every RV64IMAC, Zba or Zbb instruction that has no row of its own in the table (R47). -/
inductive RvOp where
  | lui (rd : BitVec 5) (imm : BitVec 20)
  | auipc (rd : BitVec 5) (imm : BitVec 20)
  | jal (rd : BitVec 5) (off : BitVec 21)
  | jalr (rd rs1 : BitVec 5) (imm : BitVec 12)
  | branch (cond : RvCond) (rs1 rs2 : BitVec 5) (off : BitVec 13)
  | imm (op : RvImmOp) (rd rs1 : BitVec 5) (imm : BitVec 12)
  | reg (op : RvRegOp) (rd rs1 rs2 : BitVec 5)
  | un (op : RvUnOp) (rd rs1 : BitVec 5)
  deriving DecidableEq, Repr

/-- What a peer rank sends in one collective packet (R411, R413): its parameters and its block of SRC as bytes. -/
structure CollPacket where
  kind : Nat
  count : Nat
  type : Nat
  nrank : Nat
  data : List Byte
  deriving DecidableEq, Repr

/-- A remote load or store arriving at this package as target (R416). -/
structure RemoteAccess where
  die : Nat
  src : Nat × Nat
  window : Nat
  va : Nat
  n : Nat
  store : Option (List Byte)
  deriving DecidableEq, Repr

/-- The answer to a remote load or store this package issued (R416, R417): cause 0 for success. -/
structure RemoteReply where
  id : Nat
  cause : Nat
  data : List Byte
  time : Nat
  deriving DecidableEq, Repr

/-- A write to a register (R138, R427): a BAR0 register by byte offset, or a per-die system register by number. -/
inductive RegWrite where
  | bar0 (off : Nat) (v : Word)
  | die (d n : Nat) (v : Word)
  deriving DecidableEq, Repr

/-- IDE key-management messages of a secure session (R420, R425). -/
inductive IdeKm where
  | query | keyProg | goSecure | goInsecure
  deriving DecidableEq, Repr

/-- An ABORT that a slot of a collective engine receives, with the sender's failure code (R405, R413). -/
structure AbortMsg where
  slot : Nat
  code : Nat
  deriving DecidableEq, Repr

/-- A command-core firmware image as the boot flash holds it (R424, R429): header and body, the 32-bit security version number that the header carries, the
signer's public key and its LMS signature. -/
structure Firmware where
  header : List Byte
  body : List Byte
  version : BitVec 32
  key : List Byte
  signature : List Byte
  deriving DecidableEq, Repr

/-- What one start sequence finds (R429, R431): failing physical sites for steps 2, 4 and 5, failing mesh links for step 6, the image in the boot
flash, the value to which that image, once verified, raises FWSVN (R424), and the time steps take. -/
structure StartOutcome where
  step2 : List Nat
  step4 : List Nat
  step5 : List Nat
  links : List Nat
  firmware : Firmware
  svn : Option (BitVec 32)
  duration : Nat
  deriving DecidableEq, Repr

/-- A flit that fails its CRC (R219, R404): on a mesh link, or on a fabric port; `resend` says that it had failed before and was resent. -/
inductive FlitFailure where
  | mesh (link : Nat) (resend : Bool)
  | fabric (die port : Nat) (resend : Bool)
  deriving DecidableEq, Repr

/-- A CXL.io configuration request (R429, R432): a read, a write, or a write of the PTM enable. -/
inductive ConfigRequest where
  | read (off : Nat)
  | write (off : Nat) (v : Word)
  | ptmEnable (on : Bool)
  deriving DecidableEq, Repr


/-- Every row of the operation table: the words of the three instruction streams (R39, R45, R47, R308), and the steps the
engines, the command core, the links and the host take on their own. -/
inductive Instr where
  /-- R41. Does nothing; its S bit is honoured. -/
  | nop (w : S0)
  /-- R41. A scheduling hint that executes as NOP and ignores the guard. -/
  | hint (w : Hint)
  /-- R37. Writes the MR field groups selected by the update bits, effective from the next word. -/
  | mode (w : ModeF)
  /-- R34. Prefix whose following literal word replaces vb or the address vector of the consumer word. -/
  | limm (lit : Word)
  /-- R87. Predicated branch that may divide the split and push deferred and rejoin entries. -/
  | bra (w : Br)
  /-- R88. Branches as BRA and writes the return address into s26 and s27 of the taking split. -/
  | call (w : Br)
  /-- R89. Executing lanes jump to the address held in an even scalar pair. -/
  | jmp (w : SA)
  /-- R89. Indirect jump that also writes s26 and s27 of the taking split. -/
  | callr (w : SA)
  /-- R89. Jumps to the address in s26 and s27. -/
  | ret (w : S0)
  /-- R91. Marks executing lanes exited and pops stack entries until lanes remain or the split ends. -/
  | exit (w : S0)
  /-- R98. Reconverges divergent paths, popping stack entries or parking for a gang merge. -/
  | regang (w : RegangF)
  /-- R100. The rendezvous timeout expires and the splits parked there merge among themselves with TO set. -/
  | regangTimeout (split : Nat)
  /-- R102. Divides the warp into narrower warps. -/
  | split (w : SplitF)
  /-- R103. Joins a rendezvous of warps covering an aligned block and fuses them into one wider warp. -/
  | fuse (w : FuseF)
  /-- R103. 65,536 core cycles pass from the first FUSE arrival and the parked parties receive code 7. -/
  | fuseTimeout (warp : Nat)
  /-- R101. Writes the warp width into a scalar. -/
  | widthq (w : SD)
  /-- R101. Writes the warp id into a scalar. -/
  | warpq (w : SD)
  /-- R106. Writes the split status word into a scalar. -/
  | splitq (w : SD)
  /-- R101. Writes each executing lane's warp lane index. -/
  | laneq (w : VD)
  /-- R107. Predicate AND with optional negation of each source. -/
  | pand (w : P3)
  /-- R107. Predicate OR with optional negation of each source. -/
  | por (w : P3)
  /-- R107. Predicate XOR with optional negation of each source. -/
  | pxor (w : P3)
  /-- R107. Clears the activity bit of lanes where the predicate is false. -/
  | deact (w : DeactF)
  /-- R85. A split ready for 256 cycles without issuing becomes boosted. -/
  | splitBoost (split : Nat)
  /-- R114. Arrives at a barrier and waits on the returned token. -/
  | barSync (w : BarB)
  /-- R114. Arrives at a barrier and writes the token. -/
  | barArv (w : BarDB)
  /-- R114. Waits on a barrier token. -/
  | barWait (w : BarBA)
  /-- R116. Sets a numbered barrier's expected count or tracking mode. -/
  | barCnt (w : BarBA)
  /-- R111. Reads a barrier's state word. -/
  | barPhq (w : BarDB)
  /-- R118. Arrives with a payload, waits, and receives the phase's combined result. -/
  | barFold (w : BarFoldF)
  /-- R122. Safe point where a split stops under a pending pre-emption or cancellation. -/
  | safe (s : Bool) (lo hi : Word)
  /-- R137. Reads a system register. -/
  | srd (w : SrdF)
  /-- R137. Writes a system register. -/
  | swr (w : SwrF)
  /-- R137. Reads the old value of a system register and writes a new one. -/
  | sxch (w : SxchF)
  /-- R136. Enters the trap handler with cause 0x028. -/
  | trap (w : SA)
  /-- R136. Returns from the trap handler. -/
  | tret (w : S0)
  /-- R147. Integer addition per element. -/
  | add (w : V3)
  /-- R147. Integer subtraction per element. -/
  | sub (w : V3)
  /-- R147. Integer multiplication per element. -/
  | mul (w : V3)
  /-- R147. High half of the integer product per element. -/
  | mulhi (w : V3)
  /-- R147. Integer minimum per element. -/
  | min (w : V3)
  /-- R147. Integer maximum per element. -/
  | max (w : V3)
  /-- R147. Absolute difference per element. -/
  | absdiff (w : V3)
  /-- R147. Integer multiply-add with vd as the addend. -/
  | mad (w : V3)
  /-- R147. Integer absolute value per element. -/
  | abs (w : V2)
  /-- R147. Integer negation per element. -/
  | neg (w : V2)
  /-- R148. Bitwise AND of lanes. -/
  | and (w : V3)
  /-- R148. Bitwise OR of lanes. -/
  | or (w : V3)
  /-- R148. Bitwise XOR of lanes. -/
  | xor (w : V3)
  /-- R148. Bitwise AND with the complement of vb. -/
  | andn (w : V3)
  /-- R148. Bitwise complement of a lane. -/
  | not (w : V2)
  /-- R148. Left shift per element. -/
  | shl (w : V3)
  /-- R148. Right shift per element, arithmetic for int types. -/
  | shr (w : V3)
  /-- R148. Population count per element. -/
  | popc (w : V2)
  /-- R148. Leading zero count per element. -/
  | clz (w : V2)
  /-- R148. Reverses the 32 bits of a lane. -/
  | bitrev (w : V2)
  /-- R148. Extracts a bit field. -/
  | fext (w : V3)
  /-- R148. Inserts a bit field into vd. -/
  | fins (w : V3)
  /-- R149. Integer compare writing a predicate, all or any element. -/
  | icmp (w : CmpF)
  /-- R150. Float compare writing a predicate. -/
  | fcmp (w : CmpF)
  /-- R150. Writes a class mask for each float element. -/
  | fclass (w : V2)
  /-- R151. Float addition, correctly rounded. -/
  | fadd (w : V3)
  /-- R151. Float subtraction, correctly rounded. -/
  | fsub (w : V3)
  /-- R151. Float multiplication, correctly rounded. -/
  | fmul (w : V3)
  /-- R151. Float division, correctly rounded. -/
  | fdiv (w : V3)
  /-- R151. Float minimum. -/
  | fmin (w : V3)
  /-- R151. Float maximum. -/
  | fmax (w : V3)
  /-- R151. Float absolute value. -/
  | fabs (w : V2)
  /-- R151. Float negation. -/
  | fneg (w : V2)
  /-- R152. Fused a × b + c, rounded once. -/
  | ffma (w : V3)
  /-- R152. Fused a × b − c, rounded once. -/
  | ffms (w : V3)
  /-- R152. Fused −(a × b) + c, rounded once. -/
  | ffnma (w : V3)
  /-- R152. Fused −(a × b) − c, rounded once. -/
  | ffnms (w : V3)
  /-- R153. Correctly rounded reciprocal. -/
  | rcp (w : V2)
  /-- R153. Correctly rounded reciprocal square root. -/
  | rsq (w : V2)
  /-- R153. Correctly rounded square root. -/
  | sqrt (w : V2)
  /-- R153. Correctly rounded power of two. -/
  | ex2 (w : V2)
  /-- R153. Correctly rounded base-2 logarithm. -/
  | lg2 (w : V2)
  /-- R153. Correctly rounded sin(2πx). -/
  | sin (w : V2)
  /-- R153. Correctly rounded cos(2πx). -/
  | cos (w : V2)
  /-- R153. Correctly rounded hyperbolic tangent. -/
  | tanh (w : V2)
  /-- R154. Converts one value per lane between vector types. -/
  | cvt (w : CvtF)
  /-- R155. Scales an fp32 value and encodes it into a narrow format code. -/
  | nenc (w : NencF)
  /-- R155. Decodes a narrow code and scales it into fp32. -/
  | ndec (w : NencF)
  /-- R156. Packs per-lane narrow elements into a bit string across lanes. -/
  | pack (w : PackF)
  /-- R156. Unpacks a bit string across lanes into per-lane elements. -/
  | unpack (w : PackF)
  /-- R157. Selects va or vb by a predicate. -/
  | sel (w : SelF)
  /-- R157. Copies a vector register. -/
  | mov (w : V2)
  /-- R157. Broadcasts a scalar into a vector register. -/
  | movs (w : MovsF)
  /-- R157. Writes a scalar with va of the lowest executing lane. -/
  | rdlane (w : RdlaneF)
  /-- R162. Exchanges va with lane l xor 1 in the quad. -/
  | qxchX1 (w : V2M)
  /-- R162. Exchanges va with lane l xor 2 in the quad. -/
  | qxchX2 (w : V2M)
  /-- R162. Exchanges va with lane l xor 3 in the quad. -/
  | qxchX3 (w : V2M)
  /-- R162. Reads va from a quad lane chosen by vb. -/
  | qxch (w : V3M)
  /-- R162. Reads va from the lane vb names. -/
  | shflFrom (w : V3M)
  /-- R162. Reads va from lane l − vb. -/
  | shflBack (w : V3M)
  /-- R162. Reads va from lane l + vb. -/
  | shflAhead (w : V3M)
  /-- R162. Reads va from lane l xor vb. -/
  | shflFlip (w : V3M)
  /-- R163. AND of a predicate over contributing lanes. -/
  | voteAnd (w : VoteF)
  /-- R163. OR of a predicate over contributing lanes. -/
  | voteOr (w : VoteF)
  /-- R163. True if every contributing lane holds the same predicate. -/
  | voteSame (w : VoteF)
  /-- R163. Writes the mask of contributing lanes where a predicate holds. -/
  | ballot (w : BallotF)
  /-- R163. Writes the mask of lanes matching the leader's value and a per-lane match predicate. -/
  | matchAny (w : MatchF)
  /-- R164. Reduces va over the warp's lanes into every executing lane. -/
  | redux (w : ReduxF)
  /-- R164. Inclusive prefix combination of va over lanes. -/
  | scan (w : ReduxF)
  /-- R159. Scalar addition. -/
  | sadd (w : Sc3)
  /-- R159. Scalar subtraction. -/
  | ssub (w : Sc3)
  /-- R159. Scalar multiplication. -/
  | smul (w : Sc3)
  /-- R159. Unsigned high half of the scalar product. -/
  | smulhu (w : Sc3)
  /-- R159. Signed high half of the scalar product. -/
  | smulhs (w : Sc3)
  /-- R159. Scalar bitwise AND. -/
  | sand (w : Sc3)
  /-- R159. Scalar bitwise OR. -/
  | sor (w : Sc3)
  /-- R159. Scalar bitwise XOR. -/
  | sxor (w : Sc3)
  /-- R159. Scalar left shift. -/
  | sshl (w : Sc3)
  /-- R159. Scalar logical right shift. -/
  | sshr (w : Sc3)
  /-- R159. Scalar arithmetic right shift. -/
  | ssra (w : Sc3)
  /-- R159. Scalar unsigned minimum. -/
  | sminu (w : Sc3)
  /-- R159. Scalar unsigned maximum. -/
  | smaxu (w : Sc3)
  /-- R159. Scalar signed minimum. -/
  | smins (w : Sc3)
  /-- R159. Scalar signed maximum. -/
  | smaxs (w : Sc3)
  /-- R159. Scalar equality test. -/
  | sseq (w : Sc3)
  /-- R159. Scalar unsigned less-than. -/
  | ssltu (w : Sc3)
  /-- R159. Scalar signed less-than. -/
  | sslts (w : Sc3)
  /-- R158. Adds a sign-extended immediate to each lane. -/
  | addi (w : VI)
  /-- R158. ANDs each lane with an immediate. -/
  | andi (w : VI)
  /-- R158. ORs each lane with an immediate. -/
  | ori (w : VI)
  /-- R158. XORs each lane with an immediate. -/
  | xori (w : VI)
  /-- R158. Writes an immediate into each lane. -/
  | movi (w : MoviF)
  /-- R160. Adds an immediate to a scalar. -/
  | saddi (w : SaddiF)
  /-- R170. Global load, zero-extended or raw. -/
  | ld (w : MemF)
  /-- R170. Global load, sign-extended. -/
  | ldS (w : MemW1)
  /-- R170. Global load of fp16 widened to fp32. -/
  | ldF16 (w : MemP)
  /-- R170. Global load of bf16 widened to fp32. -/
  | ldBf16 (w : MemP)
  /-- R170. Global load of E4M3 widened to fp32. -/
  | ldE4m3 (w : MemP)
  /-- R170. Global load of E5M2 widened to fp32. -/
  | ldE5m2 (w : MemP)
  /-- R176. Global store written through to the home. -/
  | st (w : MemF)
  /-- R170. Global store narrowing fp32 to fp16. -/
  | stF16 (w : MemP)
  /-- R170. Global store narrowing fp32 to bf16. -/
  | stBf16 (w : MemP)
  /-- R170. Global store narrowing fp32 to E4M3. -/
  | stE4m3 (w : MemP)
  /-- R170. Global store narrowing fp32 to E5M2. -/
  | stE5m2 (w : MemP)
  /-- R180. Scratchpad load, zero- or sign-extended. -/
  | lds (w : LdsF)
  /-- R180. Scratchpad load of fp16 widened to fp32. -/
  | ldsF16 (w : MemN)
  /-- R180. Scratchpad load of bf16 widened to fp32. -/
  | ldsBf16 (w : MemN)
  /-- R180. Scratchpad store. -/
  | sts (w : StsF)
  /-- R180. Scratchpad store narrowing to fp16. -/
  | stsF16 (w : MemN)
  /-- R180. Scratchpad store narrowing to bf16. -/
  | stsBf16 (w : MemN)
  /-- R181. Constant-window load through the constant cache. -/
  | ldc (w : LdsF)
  /-- R183. Global atomic performed at the home, returning the old value. -/
  | atom (w : AtomF)
  /-- R183. Global reduction performed at the home, returning only W. -/
  | red (w : AtomF)
  /-- R185. Scratchpad atomic. -/
  | atoms (w : AtomsF)
  /-- R187. Release fence waiting for earlier accesses and the scoped completion time. -/
  | fenceRel (w : FenceF)
  /-- R188. Acquire ordering point waiting for earlier loads and atomics. -/
  | fenceAcq (w : FenceF)
  /-- R188. Global load that is an acquire ordering point. -/
  | ldAcq (w : LdAcqF)
  /-- R189. Writes back untracked dirty bytes of a block. -/
  | ccWb (w : CcF)
  /-- R189. Drops a block's L1 copy. -/
  | ccInv (w : CcF)
  /-- R189. Writes back then drops a block's L1 copy. -/
  | ccWbinv (w : CcF)
  /-- R189. Prefetches a block into L1 with a lease. -/
  | pf (w : CcF)
  /-- R227. Writes the issuing die's Meridian time. -/
  | time (w : SD)
  /-- R228. Parks until Meridian time reaches a target. -/
  | twait (w : SA)
  /-- R227. Writes the published bound of the selected scope. -/
  | mteps (w : MtepsF)
  /-- R229. Translates an address per lane and reports where it is homed. -/
  | locq (w : VDA)
  /-- R230. Describes the issuing warp's place. -/
  | locqSelf (w : SD)
  /-- R207. Reads CT.L once earlier accesses have returned their times. -/
  | ctrdL (w : SD)
  /-- R207. Reads CT.G once earlier accesses have returned their times. -/
  | ctrdG (w : SD)
  /-- R207. Joins a time into CT.L and CT.G. -/
  | ctjoin (w : SA)
  /-- R208. Changes the coherence mode of a run of frames device-wide. -/
  | regmode (w : SDAB)
  /-- R243. Bumps the generation of a run of frames and returns the safe time. -/
  | geninc (w : SDAB)
  /-- R243. Bumps generations and parks until the safe time. -/
  | genwait (w : SDAB)
  /-- R244. Reads a frame's page-generation entry. -/
  | genrd (w : SDA)
  /-- R244. Walks a virtual address per lane and returns the translation. -/
  | xlat (w : VDA)
  /-- R264. Pops one accumulator-queue row into registers, parking while the queue is empty. -/
  | qpop (w : QpopF)
  /-- R269. Reads tile elements into lanes. -/
  | mtrd (w : MtrF)
  /-- R269. Writes lanes into tile elements. -/
  | mtwr (w : MtrF)
  /-- R270. Reads a tile's status word. -/
  | tilestat (w : TilestatF)
  /-- R270. Writes a signal slot for the sequencer with a wg-scope release. -/
  | msig (w : MsigF)
  /-- R270. Reads the number of rows in the accumulator queue. -/
  | mqcnt (w : SD)
  /-- R283. Issues a copy from global memory into a handle buffer. -/
  | cpTensor (w : CpF)
  /-- R289. Issues a copy from global memory into the weight window. -/
  | cpTensorW (w : CpF)
  /-- R283. Issues a copy from a handle buffer to global memory. -/
  | cpStore (w : CpF)
  /-- R287. Issues a copy of indexed rows into a handle buffer. -/
  | cpGather (w : CpF)
  /-- R288. Issues a copy delivered to the handles of several cluster-group members. -/
  | cpMcast (w : CpMF)
  /-- R290. Acquires a free buffer-table entry, parking until it is free. -/
  | hbAcq (w : SDA)
  /-- R290. Waits until a handle is full in the expected phase, or takes its fault. -/
  | hbWait (w : SA)
  /-- R290. Releases a handle once earlier scratchpad reads have returned. -/
  | hbRel (w : SA)
  /-- R290. Reads a handle's HSTAT. -/
  | hbState (w : SDA)
  /-- R291. Reads and advances a ring cursor. -/
  | rgNext (w : RgF)
  /-- R295. Resumes a faulted copy from its fault coordinate. -/
  | cpResume (w : SA)
  /-- R295. Aborts a handle's copy or frees it. -/
  | cpAbort (w : SA)
  /-- R295. Reads a word of a handle's fault record. -/
  | cpFrec (w : FrecF)
  /-- R332. Creates a new token tree on the issuing die. -/
  | treeNew (w : SDA)
  /-- R333. Creates a tree sharing a source tree's prefix pages. -/
  | treeClone (w : SDA)
  /-- R334. Releases a tree, pruning its nodes and cancelling its tags. -/
  | treeRel (w : SDA)
  /-- R335. Reads a word of the tree descriptor. -/
  | treeRd (w : TreeRdF)
  /-- R336. Creates a child node in each executing lane. -/
  | nodeFork (w : V3N)
  /-- R338. Removes a node and its descendants and cancels their tags. -/
  | nodePrune (w : SDA)
  /-- R339. Moves a node's path into the committed prefix, optionally pruning the rest. -/
  | nodeCommit (w : SDAB)
  /-- R337. Reads a word of a node record per lane. -/
  | nodeRd (w : NodeRdF)
  /-- R337. Writes a live node's payload per lane. -/
  | nodePay (w : VAB)
  /-- R340. Computes the address of a prefix or frontier KV slot per lane. -/
  | kvSlot (w : V3N)
  /-- R341. Adds prefix positions to every stream, copying shared partial pages. -/
  | kvAppend (w : SDAB)
  /-- R352. Computes a 32-key visibility mask per lane from a query node. -/
  | maskgen (w : V3N)
  /-- R352. Computes a visibility mask and a status word with PLEN per lane. -/
  | maskgenS (w : V3N)
  /-- R368. Pushes a record at a deque's bottom. -/
  | tqPush (w : SDAB)
  /-- R368. Pops a record from a deque's bottom. -/
  | tqPop (w : SDA)
  /-- R368. Steals a record from a deque's top. -/
  | tqSteal (w : SDA)
  /-- R371. Inserts a record into a die's priority queue. -/
  | pqIns (w : SDAB)
  /-- R372. Takes one of the smallest entries of a die's priority queue. -/
  | pqMin (w : SDB)
  /-- R363. Decrements a dependence counter by n. -/
  | depDec (w : SDAB)
  /-- R373. Waits until a dependence counter reads zero. -/
  | depWait (w : SA)
  /-- R374. Retires a task record, decrementing its successor counter. -/
  | taskEnd (w : SDA)
  /-- R378. Lowers a cluster bound register to the minimum with a value. -/
  | bndMin (w : BndAF)
  /-- R378. Reads the core's copy of a cluster bound register. -/
  | bndRd (w : BndDF)
  /-- R378. Privileged write of a cluster bound register. -/
  | bndSet (w : BndAF)
  /-- R410. Posts an all-reduce collective. -/
  | collAr (w : SDA)
  /-- R410. Posts an all-gather collective. -/
  | collAg (w : SDA)
  /-- R410. Posts a reduce-scatter collective. -/
  | collRs (w : SDA)
  /-- R415. Remote 32-bit load from a fabric peer's export window. -/
  | rldB32 (w : VDA)
  /-- R415. Remote 64-bit load from a fabric peer's export window. -/
  | rldB64 (w : VDA)
  /-- R415. Remote 32-bit store to a fabric peer's export window. -/
  | rstB32 (w : VAB)
  /-- R415. Remote 64-bit store to a fabric peer's export window. -/
  | rstB64 (w : VAB)
  /-- R139. Writes back and empties the L1. -/
  | l1wbinv (w : SD)
  /-- R139. Drops every cached translation on the device. -/
  | xlflush (w : SD)
  /-- R252. Matrix-stream no-operation. -/
  | mnop (w : S0)
  /-- R252. Matrix-stream hint executed as MNOP. -/
  | mhint (w : Hint)
  /-- R253. Ends the matrix stream and reports its completion time. -/
  | mend (w : S0)
  /-- R252. Conditional matrix-stream branch on a g register. -/
  | mbr (w : MbrF)
  /-- R252. 64-bit sequencer addition. -/
  | madd (w : Mg3)
  /-- R252. 64-bit sequencer subtraction. -/
  | msub (w : Mg3)
  /-- R252. 64-bit sequencer multiplication. -/
  | mmul (w : Mg3)
  /-- R252. 64-bit bitwise AND. -/
  | mand (w : Mg3)
  /-- R252. 64-bit bitwise OR. -/
  | mor (w : Mg3)
  /-- R252. 64-bit bitwise XOR. -/
  | mxor (w : Mg3)
  /-- R252. 64-bit left shift. -/
  | mshl (w : Mg3)
  /-- R252. 64-bit logical right shift. -/
  | mshr (w : Mg3)
  /-- R252. 64-bit arithmetic right shift. -/
  | msra (w : Mg3)
  /-- R252. 64-bit unsigned minimum. -/
  | mminu (w : Mg3)
  /-- R252. 64-bit unsigned maximum. -/
  | mmaxu (w : Mg3)
  /-- R252. 64-bit equality test. -/
  | mseq (w : Mg3)
  /-- R252. 64-bit unsigned less-than. -/
  | msltu (w : Mg3)
  /-- R252. 64-bit signed less-than. -/
  | mslts (w : Mg3)
  /-- R252. Copies a g register. -/
  | mmov (w : Mg2)
  /-- R252. Adds a 17-bit immediate to a g register. -/
  | maddi (w : MiF)
  /-- R252. Loads 8 bytes of the constant window into a g register. -/
  | mldg (w : MiF)
  /-- R267. Sequencer arrival at a numbered barrier. -/
  | marv (w : MDB)
  /-- R267. Sequencer wait on a numbered-barrier token. -/
  | mwait (w : MAB)
  /-- R267. Sequencer arrive-and-wait at a numbered barrier. -/
  | msync (w : MB1)
  /-- R268. Sequencer wait for a full handle. -/
  | mhwait (w : MA1)
  /-- R268. Sequencer release of a handle after its reads finish. -/
  | mhrel (w : MA1)
  /-- R257. Copies an A panel from scratchpad into a slot. -/
  | mldA (w : MldaF)
  /-- R258. Copies bytes from scratchpad into the weight window. -/
  | mldB (w : Mab)
  /-- R261. Multiplies a slot panel by a window image and accumulates into a tile. -/
  | mma (w : MmaF)
  /-- R255. Clears a tile to float zeros. -/
  | mclr (w : MT1)
  /-- R255. Clears a tile to integer zeros. -/
  | mclrI (w : MT1)
  /-- R255. Reads a tile's status after earlier words naming it are performed. -/
  | mstat (w : MstatF)
  /-- R263. Pushes tile rows into the accumulator queue. -/
  | mpush (w : MpushF)
  /-- R265. Stores converted tile rows to global memory as an owning agent. -/
  | mst (w : MstF)
  /-- R271. Opens a shadow tile copying its target. -/
  | mspec (w : MspecF)
  /-- R272. Commits or discards shadows by a g-register condition. -/
  | mresolve (w : Mg3)
  /-- R272. Waits for a signal slot and commits or discards shadows by its value. -/
  | mresolveSig (w : MresSigF)
  /-- R266. Arranges a dependence-counter decrement when a tile retires. -/
  | mcommit (w : McommitF)
  /-- R252. Prefix whose literal replaces gb of the consumer word. -/
  | mlimm (lit : Word)
  /-- R250. The matrix engine performs the next queued word of a context and clears INFL when done. -/
  | matrixCommandPerform (wg : Nat)
  /-- R266. A tile's stores complete and its pending MCOMMIT decrements the counter. -/
  | tileRetire (wg i : Nat)
  /-- R309. Spoke copy from global memory into a handle buffer. -/
  | spokeCpTensor (w : RvAB)
  /-- R309. Spoke copy into the weight window. -/
  | spokeCpTensorW (w : RvAB)
  /-- R309. Spoke copy from a handle buffer to global memory. -/
  | spokeCpStore (w : RvAB)
  /-- R309. Spoke gather copy into a handle buffer. -/
  | spokeCpGather (w : RvAB)
  /-- R309. Spoke multicast copy. -/
  | spokeCpMcast (w : RvAB)
  /-- R310. Spoke handle acquire. -/
  | spokeHbAcq (w : RvDA)
  /-- R310. Spoke handle release. -/
  | spokeHbRel (w : RvA)
  /-- R310. Spoke read of a handle's HSTAT. -/
  | spokeHbState (w : RvDA)
  /-- R310. Spoke resume of a faulted copy. -/
  | spokeCpResume (w : RvA)
  /-- R310. Spoke abort of a handle's copy. -/
  | spokeCpAbort (w : RvA)
  /-- R310. Spoke read of a fault-record word. -/
  | spokeCpFrec (w : RvDAB)
  /-- R311. Spoke read and advance of a ring cursor. -/
  | spokeRgNext (w : RvRing)
  /-- R311. Spoke read of a ring cursor without advancing it. -/
  | spokeRgPeek (w : RvRing)
  /-- R312. Reads the die's Meridian time. -/
  | spokeRdmt (w : RvD)
  /-- R312. Reads the package bound. -/
  | spokeRdeps (w : RvD)
  /-- R312. Reads the context identity word. -/
  | spokeRdctx (w : RvD)
  /-- R310. Spoke wait for a full handle. -/
  | spokeHbWait (w : RvA)
  /-- R314. Spoke arrival at a numbered barrier. -/
  | spokeSbarArv (w : RvDA)
  /-- R314. Spoke wait on a barrier token. -/
  | spokeSbarWait (w : RvAB)
  /-- R314. Spoke arrive-and-wait at a numbered barrier. -/
  | spokeSbarSync (w : RvA)
  /-- R305. RISC-V load to global, constant or scratchpad space. -/
  | spokeLoad (r : RvLoad)
  /-- R305. RISC-V store to global or scratchpad space. -/
  | spokeStore (r : RvStore)
  /-- R307. RISC-V AMO performed at the home or scratchpad. -/
  | spokeAmo (r : RvAmo)
  /-- R307. Load-reserved setting the context's reservation. -/
  | spokeLr (r : RvLr)
  /-- R307. Store-conditional that writes only if the reservation holds. -/
  | spokeSc (r : RvSc)
  /-- R306. RISC-V fence performing dev-scope release and acquire. -/
  | spokeFence (r : RvFence)
  /-- R302. FENCE.I, which has no effect. -/
  | spokeFenceI
  /-- R303. Reads the cycle, time or instret counter. -/
  | spokeCsrRead (r : RvCsr)
  /-- R303. Ends the context once accesses return and reports its CT.G. -/
  | spokeWfi
  /-- R303. Raises 0x125 and halts the context. -/
  | spokeEcall
  /-- R303. Raises 0x125 and halts the context. -/
  | spokeEbreak (c : Bool)
  /-- R47. Any other RV64IMAC, Zba or Zbb instruction, executed as RISC-V defines. -/
  | spokeOtherInstruction (c : Bool) (op : RvOp)
  /-- R28. A result awaited by a closed group returns; when all are back the held results are written and the split resumes. -/
  | resultReturn (split : Nat)
  /-- R194. A home serves a span read, returning data, a lease expiry and V. -/
  | homeRead (id : Nat)
  /-- R196. A home applies a write and returns its completion time W. -/
  | homeWrite (id : Nat)
  /-- R183. A home performs an atomic and returns the old value and W. -/
  | homeAtomic (id : Nat)
  /-- R203. An owning agent takes exclusive ownership of a destination span at its home. -/
  | ownershipRequest (wg h : Nat)
  /-- R203. An owning agent releases a span and the home records its completion time C. -/
  | spanRelease (i : Nat)
  /-- R204. A home recalls an owned span and the owner releases it once its issued writes apply. -/
  | recallSpan (i : Nat)
  /-- R195. A lease record is freed once Now reaches max(E, WL). -/
  | leaseRecordFree (i : Nat)
  /-- R237. A translation walk completes and returns a leaf or a fault. -/
  | pageWalk (core wg va : Nat)
  /-- R238. A cached translation reaching 1 ms of age is dropped. -/
  | translationExpiry (core i : Nat)
  /-- R210. The host snoops a line held by the proxy home. -/
  | hostSnoop (line : Nat)
  /-- R210. The proxy answers a snoop once the latest granted lease has lapsed. -/
  | hostSnoopAnswer (line : Nat)
  /-- R210. The host answers a proxy CXL.cache request. -/
  | cxlCacheResponse (line : Nat) (err : Bool) (data : List Byte)
  /-- R213. A CXL.cache request not completed within 1 ms fails with 0x085. -/
  | cxlCacheTimeout (line : Nat)
  /-- R211. The host reads device memory over CXL.mem. -/
  | hostMemRead (pa n : Nat)
  /-- R211. The host writes device memory and the home applies it. -/
  | hostMemWrite (pa : Nat) (data : List Byte)
  /-- R211. The home returns a host write's completion once Now reaches W. -/
  | hostWriteCompletion (i : Nat)
  /-- R211. The host answers a back-invalidate and the held device write is applied. -/
  | backInvalidateResponse (block : Nat)
  /-- R219. A mesh link failing 16 consecutive resends of a flit is declared down. -/
  | linkDown (link : Nat)
  /-- R220. A die sends a HEARTBEAT on every live link every 1 µs. -/
  | heartbeatSend (die : Nat)
  /-- R231. A HEARTBEAT arrives and updates the live graph and bounds. -/
  | heartbeatReceive (die src : Nat)
  /-- R231. No HEARTBEAT for 8 µs declares the link down. -/
  | heartbeatTimeout (link : Nat)
  /-- R222. A die sends a SYNC token on its servo link every 1 µs. -/
  | syncSend (die : Nat)
  /-- R222. A SYNC token or reply arrives and the servo updates its offset. -/
  | syncReceive (die t1 t2 t3 t4 : Nat)
  /-- R222. Upstream SYNC replies missing for 4 µs put the die into holdover. -/
  | servoHoldover (die : Nat)
  /-- R224. A die whose package bound exceeds 10 µs or whose oscillator fails is declared unsynchronised. -/
  | dieUnsync (die : Nat) (oscillator : Bool)
  /-- R224. UNSYNC clears after the bound stays below 1 µs for 100 µs. -/
  | dieResync (die : Nat)
  /-- R223. A PTM exchange completes and die 0 updates its time and host bound. -/
  | ptmExchange (master rtt turnaround gran : Nat)
  /-- R224. PTM responses missing for 1 ms make the host bound unavailable. -/
  | ptmLost
  /-- R231. Die 0 declares lost every die without a live path for 16 µs. -/
  | partitionDeclare (die : Nat)
  /-- R232. A die with no path to die 0 for 16 µs quiesces. -/
  | diePartitioned (die : Nat)
  /-- R17. Meridian time reaches a target and wakes the waits parked on it. -/
  | timeTargetReached (die : Nat)
  /-- R435. A die's controller moves to another operating point under power and thermal limits. -/
  | opChange (die : Nat) (powers temps : List Nat) (temp : Nat)
  /-- R435. A die sensor reaching 110 °C forces OP4. -/
  | thermalThrottle (die temp : Nat)
  /-- R435. A die reaching 120 °C stops and stops heartbeating. -/
  | thermalStop (die temp : Nat)
  /-- R284. A copy unit is written and released, advancing ARRIVED and CDONE. -/
  | copyUnitRelease (wg h k : Nat)
  /-- R293. A copy unit fails and the copy stops with FAULT set and its fault record written. -/
  | copyUnitFault (wg h : Nat)
  /-- R279. A filling handle becomes full once all bytes arrived and Now reaches CDONE. -/
  | handleFull (wg h : Nat)
  /-- R288. A multicast delivery is accepted by a member's handle once it is filling with KIND 000. -/
  | mcastDeliveryAccept (wg h rank : Nat)
  /-- R328. A tree's home engine performs one lineage operation and replies. -/
  | treeOpPerform (id : Nat)
  /-- R349. A tree's home mask generator performs a MASKGEN request and replies. -/
  | maskgenRequest (id : Nat)
  /-- R327. A committed, pruned or cancelled slot becomes free at its end time. -/
  | nodeSlotFree (tree slot : Nat)
  /-- R334. A released tree id becomes free at its release time. -/
  | treeIdFree (tree : Nat)
  /-- R323. A pool page with count 0 rejoins its die's free list once its times pass. -/
  | poolPageLapse (page : Nat)
  /-- R344. A set of removed nodes reaches a core or engine, which discards matching work. -/
  | cancelArrival (die i : Nat)
  /-- R133. At Tc + 2 µs any split still running of a cancelled workgroup is killed. -/
  | cancelKill (wg : Nat)
  /-- R368. The task engine performs a push, pop or steal on a deque. -/
  | dequeOperation (id : Nat)
  /-- R363. A dependence counter is decremented at its home and may fire. -/
  | depDecrement (id : Nat)
  /-- R364. A firing armed counter reads its successor record and inserts it into a priority queue. -/
  | autoEnqueue (i : Nat)
  /-- R372. A priority queue serves one round of insertions and minimum requests. -/
  | pqRound (die : Nat)
  /-- R370. A record returned to a discarded split is pushed back or reinserted. -/
  | taskGiveBack (i : Nat)
  /-- R378. A cluster bound unit applies BND.SET and BND.MIN updates and propagates copies. -/
  | boundUpdate (cluster k : Nat)
  /-- R123. A pre-emption request reaches every role of a workgroup at Tq. -/
  | preemptRequest (wg tq : Nat)
  /-- R124. A split not stopped by Tq + 20 µs is forced to stop. -/
  | forcedStop (split : Nat)
  /-- R125. The synchronisation unit finishes writing a workgroup's save area and reports TDONE. -/
  | unitSaveDone (wg : Nat)
  /-- R132. A lazy fill of an absent register granule completes. -/
  | lazyFillDone (warp g : Nat)
  /-- R384. A doorbell write makes packets of a queue ready. -/
  | qdbWrite (q : Nat) (v : Word)
  /-- R383. Setting QCTL.EN activates a queue. -/
  | queueEnable (q : Nat)
  /-- R383. Clearing QCTL.EN disables a saved or errored queue. -/
  | queueDisable (q : Nat)
  /-- R396. Setting QCTL.PREQ stops fetch and saves the queue's in-flight launches. -/
  | queuePreempt (q : Nat)
  /-- R400. Clearing QCTL.PREQ restores the saved launches and resumes fetch. -/
  | queueResume (q : Nat)
  /-- R390. A DISPATCH packet is checked and handed to the dispatcher. -/
  | dispatchPacket (q : Nat)
  /-- R387. A WAIT packet registers at its word's home. -/
  | waitPacket (q : Nat)
  /-- R387. A SIGNAL packet starts its wait for earlier completions. -/
  | signalPacket (q : Nat)
  /-- R387. After the wait, a SIGNAL packet writes its value with release. -/
  | signalValueWrite (q : Nat)
  /-- R385. A NOP packet is consumed. -/
  | nopPacket (q : Nat)
  /-- R385. A packet of reserved type raises 0x1A1 and the queue goes to error. -/
  | reservedPacket (q : Nat)
  /-- R22. The dispatcher places the next workgroup of a launch on a core with room. -/
  | workgroupPlace (launch : Nat)
  /-- R14. A placed workgroup's entries are bound and its roles start together. -/
  | workgroupStart (wg : Nat)
  /-- R19. After the last workgroup retires and the time passes, the launch signal is written. -/
  | launchCompletionSignal (launch : Nat)
  /-- R395. After an ended launch's workgroups retire, its signal carries the cause. -/
  | launchEndSignal (launch : Nat)
  /-- R393. A die idle for 2 µs posts a queue steal request. -/
  | stealIdleRequest (die : Nat)
  /-- R393. A die receiving a steal request grants a queue or forwards it. -/
  | stealRequestReceive (die : Nat)
  /-- R393. A granted queue passes to the thief between packets. -/
  | queueStealHandoff (q : Nat)
  /-- R393. A stolen queue empty for 10 µs returns to its home die. -/
  | queueReturnHome (q : Nat)
  /-- R396. The command core stores a stopped workgroup's context area. -/
  | workgroupSave (wg : Nat)
  /-- R400. A saved workgroup is placed and its state restored. -/
  | workgroupRestore (q area : Nat)
  /-- R411. A collective engine receives a peer rank's data or join packet. -/
  | collPeerPacket (die slot rank : Nat) (pkt : CollPacket)
  /-- R412. A rank's DST spans are released and it writes STATUS and decrements DONE. -/
  | collRankComplete (die slot : Nat)
  /-- R413. A rank receives ABORT and its collective fails. -/
  | collAbort (die : Nat) (msg : AbortMsg)
  /-- R413. A rank not joined within TMO fails the collective. -/
  | collTimeout (die slot : Nat)
  /-- R416. A target die applies a remote load or store through its export window. -/
  | remoteAccessTarget (r : RemoteAccess)
  /-- R417. A remote access response returns and joins its time into CT.G. -/
  | remoteAccessResponse (r : RemoteReply)
  /-- R404. A fabric lane loses training and the port runs on fewer lanes or goes down. -/
  | fabricLaneLoss (die port : Nat)
  /-- R404. A fabric port failing 16 consecutive resends is declared down. -/
  | fabricPortDown (die port : Nat)
  /-- R418. A die sends SYNC to each fabric peer every 10 µs. -/
  | fabricSyncSend (die : Nat)
  /-- R418. A fabric SYNC reply updates the fabric bound. -/
  | fabricSyncReceive (die peer : Nat) (offset : Int) (rtt bound : Nat)
  /-- R423. KEYCTL load writes KEYDATA into a key slot and enables it. -/
  | keyLoad
  /-- R423. KEYCTL disable clears a slot's enable and starts writing back its lines. -/
  | keyDisable
  /-- R423. Every line of the disabled slot is written back and BUSY clears. -/
  | keyDisableComplete
  /-- R322. A write of LCTL enables or disables the lineage engine and frees the pool. -/
  | lctlWrite (die : Nat) (v : Word)
  /-- R437. A PMCTL write freezes or starts all counters and clears overflow bits. -/
  | pmctlWrite (die : Nat) (v : Word)
  /-- R437. Reading a counter's low word latches its high word. -/
  | pmcntLoRead (die n : Nat)
  /-- R138. A write to a register with no behaviour of its own, W1C fields included. -/
  | registerWrite (r : RegWrite)
  /-- R425. The device answers SPDM GET_VERSION over DOE. -/
  | spdmVersion
  /-- R425. The device answers SPDM GET_CAPABILITIES. -/
  | spdmCapabilities
  /-- R425. The device answers SPDM NEGOTIATE_ALGORITHMS. -/
  | spdmAlgorithms
  /-- R425. The device answers SPDM GET_DIGESTS. -/
  | spdmDigests
  /-- R425. The device answers SPDM GET_CERTIFICATE. -/
  | spdmCertificate (offset len : Nat)
  /-- R425. The device signs a CHALLENGE response with its boot key. -/
  | spdmChallengeAuth (nonce : List Byte)
  /-- R425. The device returns its measurements. -/
  | spdmMeasurements (index : Nat) (signed : Bool) (nonce : List Byte)
  /-- R425. The device performs an SPDM key exchange. -/
  | spdmKeyExchange (exchange : List Byte)
  /-- R420. The device handles an IDE key-management message in a session. -/
  | ideKm (msg : IdeKm)
  /-- R426. The IDE stream reports an integrity failure and leaves its secure state. -/
  | ideIntegrityFailure
  /-- R426. The CXL link goes down and 0x1E5 is recorded. -/
  | cxlLinkDown
  /-- R429. Rails becoming valid run every step of the start sequence. -/
  | coldStart (o : StartOutcome)
  /-- R429. A write of RSTCTL.WARM runs the warm start, discarding resident work. -/
  | warmStart (o : StartOutcome)
  /-- R429. A CXL hot reset triggers a warm start. -/
  | cxlHotReset (o : StartOutcome)
  /-- R433. All queues idle for 100 µs put the device into PS1. -/
  | ps1Entry
  /-- R433. All queues disabled for 1 ms with enough latency tolerance put the device into PS2. -/
  | ps2Entry
  /-- R434. The CXL link leaving low power wakes the device from PS2 through a warm start. -/
  | ps2Wake (o : StartOutcome)
  /-- R42. A warp word with a reserved major, a reserved fn or a bad must-be-zero field is issued and raises 0x001. -/
  | reservedEncoding (w : Word)
  /-- R46. A matrix-stream word with a reserved major or field is issued, raises 0x0E1 and halts the context. -/
  | matrixReservedEncoding (w : Word)
  /-- R47. A spoke fetches an illegal encoding, or fetches beyond its image or at an odd offset, and halts with 0x121 or 0x122. -/
  | spokeIllegalInstruction (w : Word)
  /-- R213. A 32-byte ECC granule in L2 or DRAM becomes uncorrectable, or takes a correctable soft error. -/
  | eccGranuleError (pa : Nat) (uncorrectable : Bool)
  /-- R219. A mesh or fabric flit fails its CRC at the receiver and is resent from the sender's retry buffer. -/
  | flitCrcFailure (r : FlitFailure)
  /-- R404. A fabric port completes training with its switch, learns its LINK id and becomes up. -/
  | fabricPortTrained (die port : Nat) (link : BitVec 16)
  /-- R429. The start sequence reaches step 10: the initial state is set and DEVSTAT.STATE becomes running. -/
  | startComplete
  /-- R434. The package rails or the module input are removed, for example when the module cuts its own input above a coolant temperature of 60 °C. -/
  | powerLoss
  /-- R429. The host sends a CXL.io configuration request, which is answered with Retry Status during start or handled, including enabling PTM. -/
  | configurationRequest (r : ConfigRequest)
  /-- R178. An L1 drops a leased span of its own accord. -/
  | l1SpanDrop (core i : Nat)
  deriving DecidableEq, Repr

end Sys2Proof
end

