-- ==== Sys2Proof/Machine/State.lean ====
section
/-! DEFINITION. The state of the device as plain data, and the state after reset. Entities (dies, cores, workgroups, warps, splits,
and so on) stand in flat lists; an entity's index is its identity, and `live` says whether it exists at present. -/

namespace Sys2Proof.Machine

/-- A leaf of the page tables as an access carries it (R236, R239). -/
structure Leaf where
  pa : Nat := 0
  lg : Nat := 16
  gen : Nat := 0
  key : Nat := 0
  m : Bool := false
  lease : Nat := 0
  u : Bool := false
  x : Bool := false
  w : Bool := false
  deriving DecidableEq, Repr

/-- A leaf translation a core caches (R238): the root that produced it, the page it maps, and the time it was cached. -/
structure Xlat where
  root : Nat
  rgen : Nat
  va : Nat
  leaf : Leaf
  time : Nat
  deriving DecidableEq, Repr

/-- How the lanes of a vector register are held (R141). -/
inductive VReg where
  | uniform (u : PWord)
  | affine (b d : Word)
  | general (ws : List PWord)
  deriving DecidableEq, Repr

/-- Who issues: the issuing party of every ordering rule (R10). -/
inductive Party where
  | split (i : Nat)
  | seq (wg : Nat)
  | spoke (wg : Nat) (store : Bool)
  | copy (k : Nat)
  | device
  deriving DecidableEq, Repr

/-- A result a group holds until it closes (R28). -/
inductive Held where
  /-- Lanes of a vector register; a write by every lane of the warp takes the shape of `v` (R142, R143). -/
  | vset (r : Nat) (mask : Mask) (v : VReg)
  /-- Last-use poison of the executing lanes (R32). -/
  | lastUse (r : Nat) (mask : Mask)
  /-- A scalar register; s28 to s31 are written under R82. -/
  | sset (r : Nat) (v : PWord)
  /-- Lanes of a predicate. -/
  | pset (p : Nat) (mask bits : Mask)
  /-- The activity lanes that DEACT clears (R107). -/
  | deact (mask : Mask)
  /-- The results of a request that has not been answered. -/
  | await (id : Nat)
  /-- A register of R245, written from the next group on. -/
  | sys (n : Nat) (v : Word)
  /-- Where the results of the word at a pc begin, for a cause that its answer brings (R31). -/
  | mark (pc : Nat)
  deriving DecidableEq, Repr

/-- A divergence-stack entry (R94). -/
structure DivEntry where
  rejoin : Bool
  mask : Mask
  idv : Bool := false
  id : Nat := 0
  pc : Nat := 0
  gdepth : Nat := 0
  deriving DecidableEq, Repr

/-- How a barrier word arrives: what it does once its arrival counts (R113, R114). -/
inductive BarKind where
  | sync
  | arv (d : Nat)
  | fold (d : Nat) (op : Nat) (pay : PWord)
  deriving DecidableEq, Repr

/-- The kinds of access a leaf is checked for (R239). -/
inductive Acc where
  | load | store | fetch
  deriving DecidableEq, Repr

/-- What a parked party that executes its word again waits for (R121, KIND 0). -/
inductive Cond where
  /-- Earlier accesses have returned their data or their time. -/
  | returned
  /-- Every result that the group awaits has returned (R28, R188). -/
  | loadsReturned
  /-- No earlier word of the group can still bring a cause (R31, R214). -/
  | settled
  /-- Meridian time has reached a target (R17). -/
  | time (t : Nat)
  /-- A buffer-table entry of the workgroup is free (R279). -/
  | entryFree (h : Nat)
  /-- A buffer-table entry is full in a phase, or has faulted (R290). -/
  | entryFull (h : Nat) (phase : Bool)
  /-- The accumulator queue holds a row (R264), or has room for one (R263). -/
  | rowReady
  | rowRoom
  /-- A signal slot is free (R270), or valid (R272). -/
  | signalFree (k : Nat)
  | signalValid (k : Nat)
  /-- The sequencer's command queue has room (R249), or has performed every word (R255). -/
  | commandRoom
  | commandsDone
  /-- No earlier MLD.A or MLD.B (R267), or no earlier word that reads scratchpad or the window (R268), is left in the queue. -/
  | mldDone
  | readsDone
  /-- No issued word that writes this tile is left (R269). -/
  | inflClear (t : Nat)
  /-- No earlier command names this tile (R255). -/
  | tileDone (t : Nat)
  /-- A write to a dependence counter's word has brought it to zero (R373): the key slot and the physical address of the word. -/
  | counterZero (key pa : Nat)
  /-- A register granule has been filled (R132). -/
  | granule (g : Nat)
  /-- The reply of a request has come (R17). -/
  | answered (id : Nat)
  /-- A request refused as stale, or a walk that has to start again, is walked again (R237, R240): from a core, under a root, for an address. -/
  | retry (core root rgen va : Nat) (acc : Acc)
  /-- Nothing holds back the sweep of a run of n frames from an address on (R208, R243). -/
  | run (base n : Nat)
  /-- A home can take an access of n bytes at a physical address (R192): nothing holds it back any more. -/
  | home (write : Bool) (pa n : Nat)
  /-- A release at a scope: earlier accesses have returned, or a time is reached; or the scope has become unsynchronised (R187, R224). -/
  | fence (scope : Nat) (t : Option Nat)
  deriving DecidableEq, Repr

/-- Why a party is parked (R121). -/
inductive Wait where
  | group
  | barrier (b : Nat) (tok : Bool) (fold : Option Nat)
  | barAgain (b : Nat) (kind : BarKind)
  | gather (b : Nat) (kind : BarKind)
  | regang (id : Nat) (trap : Bool) (cycles : Nat)
  | fuse (code d : Nat)
  | retest (c : Cond)
  /-- GENWAIT (R243): the time it waits for is also its result, in the scalars d and d + 1. -/
  | genwait (t d : Nat)
  deriving DecidableEq, Repr

/-- Whether a party may issue (R16), or has stopped for a pre-emption (R123): the stop mask is kept. -/
inductive Phase where
  | ready
  | parked (w : Wait)
  | stopped (w : Option Wait) (live : BitVec 64)
  deriving DecidableEq, Repr

/-- A cause on its way to a split: the cause, its value, and the address it names (R135). -/
structure Trap where
  cause : Nat
  val : Nat
  pc : Nat
  deriving DecidableEq, Repr

/-- A split (R10, R82, R83, R93, R94, R135). `spill` lists the slots of the spilled entries, newest first, with the lanes each defers;
`since` is the core cycle at which it became ready or parked (R85, R100, R103); `woken` says that the event which a parked word that executes
again waits for has come (R17); `cons` is the consumer word fetched with a LIMM prefix (R35). -/
structure Split where
  live : Bool := false
  warp : Nat := 0
  primary : Bool := true
  tix : Nat := 0
  quads : BitVec 32 := 0
  pc : Nat := 0
  s : List Word := List.replicate 32 0
  sp : BitVec 32 := 0
  mr : Word := 7
  ctl : Nat := 0
  ctg : Nat := 0
  n : Nat := 0
  held : List Held := []
  lit : Option Word := none
  cons : Option Word := none
  phase : Phase := .ready
  woken : Bool := false
  gang : List (BitVec 32) := []
  div : List DivEntry := []
  spill : List (Nat × Mask) := []
  timedOut : Bool := false
  prv : Bool := false
  inTrap : Bool := false
  pprv : Bool := false
  tcause : Nat := 0
  tval : Nat := 0
  tpc : Nat := 0
  tmr : Word := 7
  pend : Option Trap := none
  since : Nat := 0
  boosted : Bool := false
  deriving DecidableEq, Repr

/-- A warp (R81, R83, R141): identity, width, first workgroup lane, exited lanes, registers, predicates p0 to p5, barrier arrivals
(R128), granules still to be restored with the shape tags and the address of their record (R131), and the stop flag of R124;
`gone` marks a warp that has retired in a workgroup that has not (R103). -/
structure Warp where
  live : Bool := false
  wg : Nat := 0
  width : Nat := 32
  part : Nat := 0
  slots : List Nat := [0]
  q0 : Nat := 0
  base : Nat := 0
  exited : Mask := 0
  v : List VReg := List.replicate 64 (.uniform .poison)
  p : List Mask := List.replicate 6 0
  barArr : BitVec 17 := 0
  absent : BitVec 8 := 0
  tags : Nat := 0
  record : Nat := 0
  forced : Bool := false
  gone : Bool := false
  deriving DecidableEq, Repr

/-- A barrier (R111, R118, R127): the accumulator of an integer operation is its running value, that of fadd the exact sum times
2^149; the flags are those of R127; `pend` is the count that BAR.CNT wrote during a phase, 0 for tracking mode (R116). -/
structure Barrier where
  par : Bool := false
  trk : Bool := true
  pl : Bool := false
  op : Nat := 0
  arr : Nat := 0
  exp : Nat := 0
  acc : Int := 0
  nan : Bool := false
  pinf : Bool := false
  ninf : Bool := false
  allNegZero : Bool := true
  any : Bool := false
  poison : Bool := false
  result : PWord := .val 0
  pend : Option Nat := none
  deriving DecidableEq, Repr

/-- A span of 4-byte words within a 256-byte block (R173): the block number, the first word, the word count. -/
structure Span where
  block : Nat
  first : Nat
  count : Nat
  deriving DecidableEq, Repr

/-- The state of an L1 entry (R173): leased to an expiry, or untracked with a dirty byte mask. -/
inductive L1Mode where
  | leased (expiry : Nat)
  | untracked (dirty : BitVec 256)
  deriving DecidableEq, Repr

/-- An L1 entry (R173, R196): its span, its bytes, the home die and whether the page is host memory, the V it arrived with, the key
slot of its bytes, the `.ef` mark (R178), and the page it belongs to as its last access translated it, with the block's virtual address and
the root: a write-back is a request that carries these (R239, R240). -/
structure L1Entry where
  span : Span
  mode : L1Mode
  data : List Byte
  home : Nat
  v : Nat
  key : Nat
  first : Bool
  leaf : Leaf := {}
  va : Nat := 0
  root : Nat := 0
  rgen : Nat := 0
  deriving DecidableEq, Repr

/-- How a load's bytes become register values (R169, R170). -/
inductive LoadConv where
  | zero | sign | f16 | bf16 | e4m3 | e5m2
  deriving DecidableEq, Repr

/-- How a store's register value becomes bytes (R169, R170). -/
inductive StoreConv where
  | plain | f16 | bf16 | e4m3 | e5m2
  deriving DecidableEq, Repr

/-- The operations of an atomic (R182, R183). -/
inductive AtomFn where
  | add | and | or | xor | umin | umax | smin | smax | exch | cas | fadd
  deriving DecidableEq, Repr

/-- One lane's part of a memory request: the lane, its virtual and physical address, the operand or the bytes stored, the compare
operand, and whether an operand was poisoned (R183). -/
structure LaneReq where
  lane : Nat
  va : Nat
  pa : Nat
  data : Nat := 0
  cmp : Nat := 0
  poison : Bool := false
  deriving DecidableEq, Repr

/-- What a request asks of a home. -/
inductive MemOp where
  /-- A load of n bytes a lane into the register group at `reg` (R170). -/
  | load (n : Nat) (conv : LoadConv) (reg : Nat)
  /-- A prefetch (R189). -/
  | prefetch
  /-- A store of n bytes a lane (R176). -/
  | store (n : Nat)
  /-- An atomic of n bytes a lane; `ret` names the registers of ATOM (R183). -/
  | atomic (fn : AtomFn) (n : Nat) (ret : Option Nat)
  /-- Dirty bytes written back (R178, R189); the bytes and their mask. -/
  | writeBack (dirty : BitVec 256) (data : List Byte)
  /-- A spoke's load of n bytes into x register rd (R305). -/
  | xload (n : Nat) (unsigned : Bool) (rd : Nat)
  /-- LR of a spoke (R307). -/
  | xlr (n : Nat) (rd : Nat)
  /-- SC of a spoke (R307). -/
  | xsc (n : Nat) (rd : Nat)
  /-- AMO of a spoke (R307). -/
  | xamo (fn : AtomFn) (n : Nat) (rd : Nat)
  deriving DecidableEq, Repr

/-- A memory request on its way to its home (R173): at most one block a word. `pc` and `mr` are the word and the MR it issued
under, for a trap its answer raises (R31, R214); `l1` is the core whose L1 holds the block (R179); `root` and `rgen` are what a
refusal is walked again under (R240); `fail` is a cause the host link has answered with (R213); `strict` marks an access that a
software-managed page refuses (R181); `agent` is the class of a sender that has been discarded (R24) and `gone` the time of its discard (R344); `refused` says that the home has refused
it as stale (R193, R240). -/
structure MemReq where
  id : Nat
  party : Party
  core : Nat
  op : MemOp
  lanes : List LaneReq
  leaf : Leaf
  policy : Nat
  prv : Bool
  pc : Nat
  mr : Word
  l1 : Nat := core
  root : Nat := 0
  rgen : Nat := 0
  fail : Option Nat := none
  strict : Bool := false
  agent : Option Nat := none
  gone : Option Nat := none
  refused : Bool := false
  deriving DecidableEq, Repr

/-- A lease record (R195): its span, the expiry E and the completion time WL. -/
structure Lease where
  span : Span
  e : Nat
  wl : Nat
  deriving DecidableEq, Repr

/-- A span an engine owns at its home (R203): the agent, and whether a recall has reached it (R204). -/
structure Owner where
  span : Span
  agent : Party
  wrote : Bool := false
  recalled : Bool := false
  deriving DecidableEq, Repr

/-- A page-generation entry that is not at its reset value (R193). -/
structure PGen where
  frame : Nat
  gen : Nat
  m : Bool
  deriving DecidableEq, Repr

/-- An accumulator tile (R254): its status bits and its rows of words; a row or element that is not listed is 0. -/
structure Tile where
  valid : Bool := false
  kind : Bool := false
  ovf : Bool := false
  dirty : Bool := false
  shadow : Bool := false
  target : Nat := 0
  rows : List (List Word) := []
  ctime : Nat := 0
  deriving DecidableEq, Repr

/-- The status of a tile as the words issued so far leave it, against which the sequencer checks at issue (R254). -/
structure TileIssue where
  valid : Bool := false
  kind : Bool := false
  shadow : Bool := false
  target : Nat := 0
  deriving DecidableEq, Repr

/-- A panel in an A slot (R257): its format, D, and its 64 row records. -/
structure Panel where
  fa : Nat
  d : Bool
  rows : List (List Byte)
  deriving DecidableEq, Repr

/-- A row of the accumulator queue with its tag word (R263), and the time that a QPOP which takes it waits for: the largest completion time of the
stores performed before it was pushed (R202). -/
structure QRow where
  tag : Word
  words : List Word
  time : Nat := 0
  deriving DecidableEq, Repr

/-- What the engine does for a matrix word (R249 to R272): the fields of the word that it needs. -/
inductive CmdOp where
  | mldA (slot : Nat) (d : Bool) (fa : Nat)
  | mldB
  | mma (t slot fa fb : Nat) (z : Bool)
  | mclr (t : Nat) (int : Bool)
  | mpush (t : Nat) (c : Bool)
  | mst (t fd rm : Nat) (sat c : Bool)
  | mspec (u t : Nat) (z : Bool)
  | mresolve
  | mcommit (t : Nat)
  deriving DecidableEq, Repr

/-- A matrix word in the command queue with the g values it read at issue (R249, R273): for MRESOLVE the set and the condition. `row` is
how far the engine has got; `leaf` is the translation of a counter's address. -/
structure Cmd where
  word : Word
  op : CmdOp
  a : DWord := 0
  b : DWord := 0
  pc : Nat
  row : Nat := 0
  leaf : Leaf := {}
  deriving DecidableEq, Repr

/-- A pending MCOMMIT (R266): the tile, the counter's virtual and physical address and its leaf, and the largest completion time of the
earlier MSTs of the tile. -/
structure Commit where
  tile : Nat
  va : Nat
  pa : Nat
  leaf : Leaf
  time : Nat
  deriving DecidableEq, Repr

/-- A halt of a context: the cause, the pc and the value of its fault record (R275, R318). -/
structure Halt where
  cause : Nat
  pc : Nat
  val : Nat
  deriving DecidableEq, Repr

/-- What a context without lanes is doing (R16, R121): a barrier wait keeps its token; a stopped context keeps what it waited for,
a second arrival among it. -/
inductive CtxPhase where
  | idle
  | ready
  | barrier (b : Nat) (tok : Bool)
  | barAgain (b : Nat) (d : Option Nat)
  | retest (c : Cond)
  | ended
  | halted
  | stopped (b : Option (Nat × Bool)) (c : Option Cond) (again : Option (Nat × Option Nat))
  deriving DecidableEq, Repr

/-- A sequencer context (R248): `issue` and `islots` are the tiles' status and the panels as the words issued so far leave them; `fault` is a
cause met at issue whose earlier words are still to be performed (R251). -/
structure Seq where
  phase : CtxPhase := .idle
  pc : Nat := 0
  g : List DWord := List.replicate 16 0
  lit : Option DWord := none
  cons : Option Word := none
  n : Nat := 0
  held : List (Nat × DWord) := []
  issue : List TileIssue := List.replicate 16 {}
  tiles : List Tile := List.replicate 16 {}
  slots : List (Option Panel) := List.replicate 4 none
  islots : List (Option (Nat × Bool)) := List.replicate 4 none
  window : List Host.Cell := []
  wseed : Nat := 0
  sig : List (Option Word) := List.replicate 4 none
  queue : List QRow := []
  cmds : List Cmd := []
  commits : List Commit := []
  fault : Option Halt := none
  report : Nat := 0
  ctl : Nat := 0
  mf : Option Halt := none
  deriving DecidableEq, Repr

/-- A reservation of a spoke context (R307): scratchpad or global, the first byte, the byte count, the time it was set. -/
structure Resv where
  scratch : Bool
  addr : Nat
  n : Nat
  time : Nat
  deriving DecidableEq, Repr

/-- A spoke context (R301). `ret` is the value a request has answered with, until the instruction that sent it completes. -/
structure Spoke where
  phase : CtxPhase := .idle
  x : List DWord := List.replicate 32 0
  pc : Nat := 0
  ctl : Nat := 0
  ctg : Nat := 0
  cycle : Nat := 0
  instret : Nat := 0
  resv : Option Resv := none
  image : List Byte := []
  mf : Option Halt := none
  deriving DecidableEq, Repr

/-- A unit of a copy in flight (R284): the layout-order byte offset and the byte count of its first run, the same of the runs in which a store comes
back to the block (R204), the virtual address of its first byte, the leaf, the words of one block that its bytes touch, and its source bytes. -/
structure Unit where
  off : Nat
  n : Nat
  more : List (Nat × Nat) := []
  va : Nat
  leaf : Leaf
  span : Span
  data : List Byte
  deriving DecidableEq, Repr

/-- A copy's fault record (R294). -/
structure CopyFault where
  detail : Nat
  dst : Bool
  cause : Nat
  off : Nat
  va : Nat
  coord : List Nat
  arrived : Nat
  valid : Bool := true
  deriving DecidableEq, Repr

/-- A destination of a copy other than its issuer's handle (R288): a member's workgroup, its rank, whether it has accepted, and, once its
delivery has been aborted, below which layout byte the units still come to it. -/
structure Delivery where
  wg : Nat
  rank : Nat
  accepted : Bool
  drain : Option Nat := none
  deriving DecidableEq, Repr

/-- A copy in progress (R280 to R289): what it was issued with, the requests of its issuer that were then outstanding (R285), how many
layout bytes have been sent, the units in flight, the source bytes that a delivery not yet accepted still needs, a failing unit with
its first layout byte, and below which byte a resumed copy writes again. `issuer` says whether the issuer's handle is still attached. -/
structure Copy where
  live : Bool := true
  kind : Nat
  win : Bool
  wg : Nat
  h : Nat
  core : Nat
  root : Nat
  rgen : Nat
  prv : Bool
  party : Party
  ltag : Nat
  base : Nat
  esz : Nat
  swz : Nat
  dim : List Nat
  stride : List Nat
  coord : List Int
  index : List Int := []
  winOff : Nat := 0
  bytes : Nat
  own : Bool := true
  issuer : Bool := true
  dests : List Delivery := []
  after : List Nat := []
  sent : Nat := 0
  flight : List Unit := []
  read : List (Nat × List Byte) := []
  fail : Option (CopyFault × Nat) := none
  raised : Bool := false
  again : Nat := 0
  stop : Bool := false
  deriving DecidableEq, Repr

/-- The states of a buffer-table entry (R278). -/
inductive EntryState where
  | free | filling | full | draining
  deriving DecidableEq, Repr

/-- A buffer-table entry (R278), with the number of the copy that fills it and its fault record. -/
structure Entry where
  st : EntryState := .free
  phase : Bool := false
  fault : Bool := false
  win : Bool := false
  kind : Nat := 0
  arrived : Nat := 0
  addr : Nat := 0
  size : Nat := 0
  expected : Nat := 0
  ltag : Nat := 0xFFFFFFFF
  dpend : BitVec 4 := 0
  ring : Nat := 0
  stage : Nat := 0
  cdone : Nat := 0
  copy : Option Nat := none
  frec : Option CopyFault := none
  deriving DecidableEq, Repr

/-- A ring's cursors (R291): the number of stages, the first handle, and the stage and lap parity of producer and consumer. -/
structure Ring where
  stages : Nat
  first : Nat
  pStage : Nat := 0
  pPar : Bool := true
  cStage : Nat := 0
  cPar : Bool := true
  deriving DecidableEq, Repr

/-- A workgroup's life (R14, R133, R400): placed and not yet started, running, saved and not resident; free stands for one that is retired. -/
inductive WgPhase where
  | free | placed | running | saved
  deriving DecidableEq, Repr

/-- A pre-emption request on a workgroup (R123, R125): its time Tq; the completion time of the save area's stores once they are
written, the report of the unit with TDONE, whether the save has failed and the cause that the unit then raises into the context record (0x024), and the completion time of the context header's store (R396). -/
structure Preempt where
  tq : Nat
  written : Option Nat := none
  header : Option Nat := none
  unitDone : Bool := false
  tdone : Nat := 0
  failed : Bool := false
  cause : Nat := 0
  deriving DecidableEq, Repr

/-- A workgroup (R11, R13, R21, R53, R392). `order` is its place in the order of placement; `stored` are the widths and first lanes of the
warps of a saved workgroup, in the order of its warp records, and `waits` what each of their splits waited for; `revoke` lists the headers in
which a cancellation still has to clear VALID (R133): the unit's is false, that of the context area true. -/
structure Wg where
  phase : WgPhase := .free
  launch : Nat := 0
  core : Nat := 0
  area : Nat := 0
  lid : Nat := 0
  ix : Nat := 0
  iy : Nat := 0
  iz : Nat := 0
  rank : Nat := 0
  cluster : Nat := 0
  group : Nat := 0
  lanes : Nat := 32
  width : Nat := 32
  regs : Nat := 64
  scratchSize : Nat := 0
  scratch : List Host.Cell := []
  nbar : Nat := 0
  bars : List Barrier := []
  slot : Option Nat := none
  matrix : Bool := false
  load : Bool := false
  store : Bool := false
  tiles : Nat := 0
  prv : Bool := false
  pri : Nat := 0
  tvec : Nat := 0
  troot : Nat := 0
  trgen : Nat := 0
  ldom : Nat := 0
  ltag : Nat := 0xFFFFFFFF
  save : Nat := 0
  dspill : Nat := 0
  sqfaddr : Nat := 0
  preq : Option Preempt := none
  creq : Option Nat := none
  cwin : Nat := 0
  cwsize : Nat := 0
  argoff : Nat := 0
  fuse : Bool := false
  report : Nat := 0
  seqArr : BitVec 17 := 0
  loadArr : BitVec 17 := 0
  storeArr : BitVec 17 := 0
  seq : Seq := {}
  lspoke : Spoke := {}
  sspoke : Spoke := {}
  bound : Bool := false
  entries : List Entry := []
  rings : List Ring := []
  order : Nat := 0
  stored : List (Nat × Nat) := []
  waits : List (List (Option Wait)) := []
  revoke : List Bool := []
  deriving DecidableEq, Repr

/-- The parts of a DISPATCH packet and of its kernel descriptor that outlive the checks (R388, R389), and a launch's progress
(R19, R394, R399); `cut` says that a partition has stopped workgroups of it (R232, R402). -/
structure Launch where
  live : Bool := false
  queue : Nat := 0
  packet : List Byte := []
  gx : Nat := 1
  gy : Nat := 1
  gz : Nat := 1
  lanes : Nat := 32
  width : Nat := 32
  regs : Nat := 64
  nbar : Nat := 0
  roles : Nat := 0
  scratch : Nat := 0
  tiles : Nat := 0
  rings : List (Nat × Nat × Nat) := []
  ventry : Nat := 0
  mentry : Nat := 0
  ldImage : Nat × Nat × Nat := (0, 0, 0)
  stImage : Nat × Nat × Nat := (0, 0, 0)
  tvec : Nat := 0
  dies : BitVec 8 := 0
  cgrp : Nat := 1
  fuse : Bool := false
  binit : Bool := false
  binitDone : Bool := false
  pri : Nat := 0
  prv : Bool := false
  cwin : Nat := 0
  cwsize : Nat := 1
  argoff : Nat := 0
  sig : Nat := 0
  sigval : Nat := 0
  ltag : Nat := 0xFFFFFFFF
  rel : Nat := 0
  next : Nat := 0
  retired : Nat := 0
  largest : Nat := 0
  ended : Option Nat := none
  endTime : Nat := 0
  cut : Bool := false
  deriving DecidableEq, Repr

/-- The states of a queue (R383). -/
inductive QState where
  | disabled | active | preempting | saved | error | lost
  deriving DecidableEq, Repr

/-- A WAIT registered at the home of its word (R387): the word, COND and VALUE, and whether a test has found COND true. -/
structure QWait where
  key : Nat
  pa : Nat
  cond : Nat
  value : Nat
  woken : Bool := false
  deriving DecidableEq, Repr

/-- The registers of a host queue and what its lane is doing (R382, R386): parked at a WAIT; a SIGNAL's address, value and scope; the latest
completion time of its earlier packets; the time of its last placement (R391); its Tq and the largest TDONE of its saves (R396, R399);
since when QRD has equalled QDB, and the die that its owner has granted it to (R393); whether its head packet has been handed on or completed in a round
that goes on (R386); and whether QSAVE is still to be read at a resume (R400). -/
structure Queue where
  qbase : Nat := 0
  qcfg : Word := 0
  qdom : Nat := 0
  qroot : Nat := 0
  qrgen : Nat := 0
  qctx : Nat := 0
  qsave : Nat := 0
  qdb : Nat := 0
  qrd : Nat := 0
  en : Bool := false
  preq : Bool := false
  state : QState := .disabled
  owner : Nat := 0
  err : Nat := 0
  launches : List Nat := []
  waiting : Option QWait := none
  signal : Option (Nat × Nat × Nat) := none
  latest : Nat := 0
  granted : Nat := 0
  tq : Nat := 0
  savedDone : Nat := 0
  drained : Nat := 0
  thief : Option Nat := none
  passed : Bool := false
  resume : Bool := false
  deriving DecidableEq, Repr

/-- A value of a bound register on its way to a core's copy (R378): the register, the value, and when it was applied. -/
structure BndSent where
  k : Nat
  val : Nat
  time : Nat
  deriving DecidableEq, Repr

/-- What a core holds beside its workgroups: its L1 (R173), EVW (R178), its cached translations (R238) and the round-robin places
of its issue (R85, R249, R301), its copies of the bound registers and the values on their way to them, oldest first (R378), whether its L1 may hold what a fused launch left (R179), and the lane faults to come (R134): for each checked word in turn, the lanes whose
recomputation will differ. `port` is the core cycle in which one of its issue ports has last started a word, and the first port that has not had its
turn in that cycle (R85, R249). -/
structure Core where
  l1 : List L1Entry := []
  evw : Nat := 0
  xlat : List Xlat := []
  rr : List Nat := [0, 0, 0, 0]
  rrSeq : Nat := 0
  rrLoad : Nat := 0
  rrStore : Nat := 0
  bnd : List Nat := List.replicate 8 0xFFFFFFFFFFFFFFFF
  bndWay : List BndSent := []
  fused : Bool := false
  upset : List Mask := []
  port : Nat × Nat := (0, 0)
  deriving DecidableEq, Repr

/-- A fault record of the form VALID, OVF and its fields (R214, R233, R246): the cause, the failing address, and the packed fields of
its first word and its request word. -/
structure FaultRec where
  valid : Bool := false
  ovf : Bool := false
  cause : Nat := 0
  info : Nat := 0
  addr : Nat := 0
  req : Nat := 0
  deriving DecidableEq, Repr

/-- The state of a frontier slot (R326, R327). -/
inductive NodeState where
  | free | live | committed | pruned | cancelled
  deriving DecidableEq, Repr

/-- A node record (R326). -/
structure Node where
  st : NodeState := .free
  token : Nat := 0
  pos : Nat := 0
  ngen : Nat := 1
  pfx : Bool := false
  parent : Nat := 0
  nchild : Nat := 0
  depth : Nat := 0
  payload : Nat := 0
  tend : Nat := 0
  anc : BitVec 256 := 0
  deriving DecidableEq, Repr

/-- A token tree that is live or releasing (R320, R321, R324): its prefix page list per stream, its frontier pages by index, one page per
stream, its 256 slots, TLAST, and the time at which a releasing id becomes free. -/
structure Tree where
  id : Nat
  live : Bool := true
  nstrm : Nat := 1
  slog : Nat := 0
  flog : Nat := 0
  plen : Nat := 0
  dom : Nat := 0
  pages : List (List Nat) := [[]]
  front : List (Nat × List Nat) := []
  nodes : List Node := List.replicate 256 {}
  tlast : Nat := 0
  freeAt : Nat := 0
  deriving DecidableEq, Repr

/-- A pool page that is not free (R323): its count, and for a lapsing one the latest time of the operation that freed it. -/
structure PoolPage where
  page : Nat
  count : Nat := 1
  lapse : Nat := 0
  deriving DecidableEq, Repr

/-- A set of removed nodes (R344): the tree, whether every tag of it is cancelled (R334), the slots with their NGEN, the end of marking,
T_done, and the dies the set has reached. -/
structure CancelSet where
  tree : Nat
  whole : Bool
  nodes : List (Nat × Nat)
  sent : Nat
  done : Nat
  arrived : BitVec 8 := 0
  deriving DecidableEq, Repr

/-- An entry of a priority queue or of its pending list (R364, R371). -/
structure PqEntry where
  key : Nat
  addr : Nat
  tag : Nat
  seq : Nat := 0
  deriving DecidableEq, Repr

/-- A collective that a slot of a collective engine holds (R407, R408, R410 to R413): its descriptor's address and fields, its team's
endpoints as fabric id and die in rank order, the party it acts for (its workgroup while that has not ended), the time of the post,
this rank's SRC once it has been read, the blocks of the ranks that have joined, how many bytes of DST are written, the largest C, the failure found
first, and W of the write of STATUS once that is made. -/
structure Coll where
  kind : Nat
  desc : Nat
  team : Nat
  seq : Nat
  ranks : List (Nat × Nat)
  rank : Nat
  count : Nat
  type : Nat
  src : Nat
  dst : Nat
  done : Nat
  tmo : Nat
  ltag : Nat
  wg : Option Nat
  core : Nat
  root : Nat
  rgen : Nat
  prv : Bool
  posted : Nat
  own : Option (List Byte) := none
  joined : List (Nat × List Byte) := []
  sent : Nat := 0
  latest : Nat := 0
  fail : Option Nat := none
  said : Option Nat := none
  deriving DecidableEq, Repr

/-- A fabric port (R404, R406); `dead` is the declaration that only a warm start ends. -/
structure Port where
  up : Bool := false
  lanes : Nat := 0
  link : Nat := 0
  dead : Bool := false
  resends : Nat := 0
  deriving DecidableEq, Repr

/-- What SYNC has measured of a fabric peer (R418): the entry's index, |o|, d, the peer's package bound, and when. -/
structure FabPeer where
  peer : Nat
  off : Nat
  rtt : Nat
  bound : Nat
  time : Nat
  deriving DecidableEq, Repr

/-- A packet that a die has sent over the fabric (R405, R411, R413, R415, R416, R418): `from_` is the sending die, `to_` the
endpoint; an ABORT carries the code of the failure. -/
inductive FabPacket where
  | coll (from_ : Nat) (to_ : Nat × Nat) (team seq rank : Nat) (pkt : CollPacket)
  | abort (from_ : Nat) (to_ : Nat × Nat) (team seq rank code : Nat)
  | access (from_ : Nat) (to_ : Nat × Nat) (id window va n : Nat) (store : Option (List Byte))
  | reply (from_ : Nat) (to_ : Nat × Nat) (cause : Nat) (data : List Byte) (time : Nat)
  | sync (from_ : Nat) (to_ : Nat × Nat) (time : Nat)
  deriving DecidableEq, Repr

/-- A die: its Meridian count in 1/16 ns and its core cycles (R222), its operating point (R218), what it draws at each point and what its hottest sensor reads there (R435), its servo and its bounds (R222,
R223), its links (R219, R231), with the failed resends in a row, what of a core cycle and of the room for a correction is left over (R218, R222),
the link-state words it has of the other dies, since when it sees no path to die 0 and since when die 0 sees none to it (R231), its fault records, its dispatcher's pointer counted from the die's first core (R22), the mailbox of its
command core, the lanes that still hold a packet of its round (R386), and the last time at which that had work (R393), the registers, ports and slots of its collective engine (R404 to R418), and its
performance counters with the latched high words (R437). -/
structure Die where
  now : Nat := 0
  cycle : Nat := 0
  cfrac : Nat := 0
  point : Nat := 0
  lost : Option Nat := none
  quiesced : Bool := false
  delta : Nat := 0
  lastSync : Nat := 0
  hold : Bool := false
  beats : List (Nat × Nat × Nat) := []
  linkUp : BitVec 4 := 0
  linkBeat : List Nat := [0, 0, 0, 0]
  resends : List Nat := [0, 0, 0, 0]
  view : List (BitVec 4) := List.replicate 8 0
  noPath : Option Nat := none
  unseen : Option Nat := none
  unsync : Bool := true
  hunsync : Bool := true
  belowSince : Option Nat := none
  slew : Int := 0
  sfrac : Nat := 0
  temp : Nat := 0
  draws : List (Nat × Nat) := []
  hung : Bool := false
  sync : Option (Nat × Nat) := none
  sent : Nat × Nat × BitVec 4 := (0, 0, 0)
  lEn : Bool := false
  lCopy : BitVec 8 := 0
  lva : Nat := 0
  lbase : Nat := 0
  lcnt : Nat := 0
  hf : FaultRec := {}
  xf : FaultRec := {}
  tf : FaultRec := {}
  lf : FaultRec := {}
  mg : FaultRec := {}
  tk : FaultRec := {}
  pq : List PqEntry := []
  pqPend : List PqEntry := []
  pqSeq : Nat := 0
  tfcnt : Nat := 0
  turn : Nat := 0
  mail : List Nat := []
  round : List Nat := []
  busyAt : Nat := 0
  fabEn : Bool := false
  fabid : Nat := 0
  cepeer : Nat := 0
  cexport : Nat := 0
  ce : FaultRec := {}
  ports : List Port := List.replicate 4 {}
  colls : List (Option Coll) := List.replicate 16 none
  peers : List FabPeer := []
  fabSync : Nat := 0
  pmfrz : Bool := true
  pmuv : Bool := false
  pmovf : BitVec 8 := 0
  pmsel : List Nat := List.replicate 8 0
  pmcnt : List Nat := List.replicate 8 0
  pmlat : List Nat := List.replicate 8 0
  deriving DecidableEq, Repr

/-- What an engine is asked to do by a word of the warp stream. -/
inductive EngOp where
  | treeNew | treeClone | treeRel | treeRd (k : Nat)
  | nodeFork | nodePrune | nodeCommit | nodeRd (k : Nat) | nodePay | kvSlot | kvAppend
  | maskgen (status : Bool)
  | tqPush | tqPop | tqSteal | pqIns | pqMin
  | depDec | taskEnd
  | bndMin (k : Nat) | bndSet (k : Nat)
  | collective (kind : Nat)
  | rld (n : Nat) | rst (n : Nat)
  | regmode | l1wbinv
  | tileRead | tileWrite
  deriving DecidableEq, Repr

/-- The answer of an engine: the results or a cause with its value, the time that joins CT.L and CT.G, the home's time before which it is not
sent (R329, R366), the tag its workgroup takes (R361), and the record it carries with key and tag (R370). -/
structure EngReply where
  held : List Held := []
  trap : Option (Nat × Nat) := none
  ct : Nat := 0
  ready : Nat := 0
  ltag : Option Nat := none
  record : Option PqEntry := none
  deriving DecidableEq, Repr

/-- A request to an engine: the operands of the issuing split, those of each lane (R328, R349, R367), the destination register, and
what a cause of the answer needs. `die` is the die of the engine that performs it; `dom` is the issuer's domain (R320), `rank` its place in
the order of core, warp id and split-table index; `claim` holds the streams whose last pages were found shared (R342), and `reply` is set once
it has been performed. -/
structure EngReq where
  id : Nat
  party : Party
  core : Nat
  die : Nat
  op : EngOp
  d : Nat := 0
  vals : List Nat := []
  lanes : List (Nat × List Nat) := []
  prv : Bool := false
  pc : Nat
  mr : Word
  root : Nat := 0
  rgen : Nat := 0
  leaf : Leaf := {}
  time : Nat := 0
  dom : Nat := 0
  rank : Nat := 0
  width : Nat := 32
  claim : Option (List Nat) := none
  reply : Option EngReply := none
  deriving DecidableEq, Repr

/-- An automatic enqueue that a firing decrement has started (R364): the counter's physical address, the CTL and RECORD read then, and the
root of the party that decremented. -/
structure AutoEnq where
  pa : Nat
  key : Nat
  ctl : Nat
  addr : Nat
  core : Nat
  root : Nat
  rgen : Nat
  prv : Bool
  deriving DecidableEq, Repr

/-- A record that a discarded split was to receive (R370), with the request that took it. -/
structure GiveBack where
  req : EngReq
  entry : PqEntry
  deriving DecidableEq, Repr

/-- A request in flight: to a home, or to an engine. -/
inductive Req where
  | mem (r : MemReq)
  | eng (r : EngReq)
  deriving DecidableEq, Repr

/-- Who acts in the next step of a run: an issue slot of a core, or an engine step (DESIGN CHOICE, log entry 5). -/
inductive Turn where
  | issue (core part : Nat)
  | issueSeq (core : Nat)
  | issueSpoke (core : Nat) (store : Bool)
  | boundCopy (core k : Nat)
  | event (i : Instr)
  deriving DecidableEq, Repr

/-- The party that `exec` issues a word for: a split, or a workgroup's sequencer or spoke context. -/
structure Who where
  split : Nat := 0
  wg : Nat := 0
  store : Bool := false
  deriving DecidableEq, Repr

/-- A line of host memory that the proxy home holds (R210): whether with ownership, whether written, whether a host snoop waits for
it, and the latest expiry granted on it. -/
structure HostLine where
  line : Nat
  owned : Bool
  dirty : Bool := false
  snooped : Bool := false
  e : Nat := 0
  deriving DecidableEq, Repr

/-- A CXL.cache request on its way to the host (R210, R213). -/
structure HostReq where
  line : Nat
  own : Bool
  since : Nat
  deriving DecidableEq, Repr

/-- The PTM requester (R222, R223, R224): whether the host has enabled it, the uncertainty measured at the last exchange, the time of
that exchange, and whether responses have been missing for 1 ms. -/
structure Ptm where
  enabled : Bool := false
  unc : Nat := 0
  last : Nat := 0
  lost : Bool := true
  deriving DecidableEq, Repr

/-- The SPDM requests that the device answers as a responder (R425). -/
inductive SpdmRequest where
  | version | capabilities | algorithms | digests | certificate | challengeAuth | measurements | keyExchange
  deriving DecidableEq, Repr

/-- The signing algorithm that the device advertises (R425): a vendor-defined extended asymmetric algorithm, its LMS. -/
inductive SpdmAsym where
  | vendorExtended
  deriving DecidableEq, Repr

/-- The key exchange (R425): ECDHE on secp384r1. -/
inductive SpdmDhe where
  | secp384r1
  deriving DecidableEq, Repr

/-- The cipher of a session (R425). -/
inductive SpdmAead where
  | aes256Gcm
  deriving DecidableEq, Repr

/-- What the device has last answered over DOE (R420, R425): one constructor per SPDM response, a failed request, and the answers of the IDE
key-management protocol. A signature is kept with the text it covers. -/
inductive DoeReply where
  | none
  | version (major minor : Nat)
  | capabilities (answers : List SpdmRequest)
  | algorithms (asym : SpdmAsym) (dhe : SpdmDhe) (aead : SpdmAead)
  | digests (d : List Byte)
  | certificate (c : List Byte)
  | challengeAuth (text sig : List Byte)
  | measurements (text : List Byte) (sig : Option (List Byte))
  | keyExchange (half sig : List Byte)
  | ide (secure keyed : Bool)
  | failed
  deriving DecidableEq, Repr

/-- What the device has last answered to a configuration request (R429, R432): Configuration Request Retry Status, a value read, or done. -/
inductive CfgReply where
  | none
  | retry
  | value (v : Word)
  | done
  deriving DecidableEq, Repr

/-- What has triggered the start sequence that is to run or runs (R429): a cold start, a warm start by RSTCTL.WARM or a hot reset, a warm start
from the safe state (R432), or the wake from PS2 (R434). -/
inductive StartKind where
  | cold | warm | fromSafe | wake
  deriving DecidableEq, Repr

/-- The device as a whole (R421 to R436): STATE, PS, FSITE and STEP of DEVSTAT; the start sequence that is to run, and once it has run the
time of step 10 and the sites that are then declared lost; LATTOL, PWRCAP; the key-slot registers with the slot that is being disabled; the IDE
stream, and whether the CXL link has gone down (R426); SYSFSTAT; the identity counter, whether a boot key exists and how many signatures it has made;
the value to which a verified image has raised FWSVN, and the image that runs, as its bytes and version (R424); the last answers; and since when the queues
have been idle and disabled (R433). -/
structure Dev where
  st : Nat := 0
  ps : Nat := 0
  fsite : Nat := 0
  step : Nat := 0
  start : Option StartKind := some .cold
  ready : Option Nat := none
  lostSites : List Nat := []
  lattol : Word := 0
  pwrcap : Nat := 4400
  keysel : Nat := 0
  keyerr : Bool := false
  keydata : List Word := List.replicate 16 0
  closing : Option Nat := none
  ideOk : Bool := false
  ideKeyed : Bool := false
  session : Bool := false
  down : Bool := false
  sf : FaultRec := {}
  positions : Nat := 0
  identity : Bool := false
  signed : Nat := 0
  svn : Option Word := none
  fw : Option (List Byte × Word) := none
  doe : DoeReply := .none
  cfg : CfgReply := .none
  idleAt : Option Nat := none
  offAt : Option Nat := none
  deriving DecidableEq, Repr

/-- The whole device. `stall` is the model's own: what the access that has last been held back waits for; so is `away`, the requests to homes on other
dies that have been counted (R437), with the die of each home. -/
structure State where
  dies : List Die
  cores : List Core
  wgs : List Wg
  warps : List Warp
  splits : List Split
  launches : List Launch
  queues : List Queue
  mem : List Host.Cell
  leases : List Lease
  owners : List Owner
  pgen : List PGen
  tags : List (Nat × Nat)
  keys : List (Nat × List Byte)
  ecc : List Nat
  hlines : List HostLine
  hreqs : List HostReq
  hheld : List Nat
  hbinv : List Nat
  hwrites : List (Nat × Nat)
  hout : List Byte
  hdown : Bool
  hfail : List (Nat × Nat)
  ptm : Ptm
  dev : Dev
  msix : List Nat
  copies : List Copy
  trees : List Tree
  pool : List PoolPage
  cancels : List CancelSet
  autos : List AutoEnq
  gives : List GiveBack
  bounds : List (List Nat)
  fabric : List FabPacket
  reqs : List Req
  away : List (Nat × Nat)
  nextId : Nat
  spare : Nat
  who : Who
  stall : Cond
  free : Nat
  agenda : List Turn
  pace : List Nat
  steps : Nat
  deriving DecidableEq, Repr

/-- Why a step stops the machine. No rule of the spec gives an instruction no effect, so no meaning raises one; the constructor
stands for the form that the interface asks for. Raised by nobody: safe. -/
inductive Fault where
  | stuck
  deriving DecidableEq, Repr

/-- Why a step has no meaning. Raised only by the arms of `exec` that are not modelled yet: safe, since nothing is proved of them. -/
inductive Refusal where
  | notModelled (mnemonic : String)
  deriving DecidableEq, Repr

/-- A core right after reset. -/
def Core.reset : Core := {}

/-- The machine right after reset: the Reset column of every register map, memory with nothing listed. -/
def State.reset : State where
  dies := List.replicate 8 {}
  cores := List.replicate 128 Core.reset
  wgs := []
  warps := []
  splits := []
  launches := []
  queues := List.replicate 256 {}
  mem := []
  leases := []
  owners := []
  pgen := []
  tags := []
  keys := []
  ecc := []
  hlines := []
  hreqs := []
  hheld := []
  hbinv := []
  hwrites := []
  hout := []
  hdown := false
  hfail := []
  ptm := {}
  dev := {}
  msix := []
  copies := []
  trees := []
  pool := []
  cancels := []
  autos := []
  gives := []
  bounds := List.replicate 32 (List.replicate 8 0xFFFFFFFFFFFFFFFF)
  fabric := []
  reqs := []
  away := []
  nextId := 0
  spare := 2
  who := {}
  stall := .returned
  free := 0
  agenda := []
  pace := []
  steps := 0

end Sys2Proof.Machine
end

