-- ==== Sys2Proof/Machine/Basics.lean ====
section
/-! DEFINITION. What everything else is written with: memory cells, the entities of the state, free values, the fields of MR, lanes, registers
and performance counters. -/

namespace Sys2Proof.Machine

/-! ## Memory cells -/

/-- What an address that is not listed reads as: zero, which the start sequence writes (R429). -/
def cellDefault : Byte := 0

/-- The byte at an address. -/
def cellGet : List Host.Cell → Nat → Byte
  | [], _ => cellDefault
  | (k, b) :: rest, a => if k == a then b else if Nat.blt a k then cellDefault else cellGet rest a

/-- Write one byte, in the canonical form: addresses rise, and no entry holds what an unlisted address reads as. -/
def cellSet : List Host.Cell → Nat → Byte → List Host.Cell
  | [], a, b => if b == cellDefault then [] else [(a, b)]
  | (k, c) :: rest, a, b =>
    if k == a then (if b == cellDefault then rest else (k, b) :: rest)
    else if Nat.blt a k then (if b == cellDefault then (k, c) :: rest else (a, b) :: (k, c) :: rest)
    else (k, c) :: cellSet rest a b

/-- Bytes from an address up. -/
def cellsRead (l : List Host.Cell) (a : Nat) : Nat → List Byte
  | 0 => []
  | n + 1 => cellGet l a :: cellsRead l (a + 1) n

/-- Write bytes from an address up. -/
def cellsWrite (l : List Host.Cell) (a : Nat) : List Byte → List Host.Cell
  | [] => l
  | b :: bs => cellsWrite (cellSet l a b) (a + 1) bs

/-- The canonical form of a list of cells above a bound: addresses rise strictly, no entry holds the default. -/
def cellsWfFrom : Option Nat → List Host.Cell → Bool
  | _, [] => true
  | lo, (k, b) :: rest =>
    (match lo with
      | none => true
      | some p => Nat.blt p k) && b != cellDefault && cellsWfFrom (some k) rest

/-- The canonical form of memory. -/
def Memory.wf (l : List Host.Cell) : Bool := cellsWfFrom none l

/-! ## Entities -/

/-- A die. -/
def State.die (s : State) (d : Nat) : Die := s.dies.getD d {}

/-- A core by its global number. -/
def State.core (s : State) (c : Nat) : Core := s.cores.getD c {}

/-- A workgroup. -/
def State.wg (s : State) (w : Nat) : Wg := s.wgs.getD w {}

/-- A warp. -/
def State.warp (s : State) (w : Nat) : Warp := s.warps.getD w {}

/-- A split. -/
def State.split (s : State) (i : Nat) : Split := s.splits.getD i {}

/-- A launch. -/
def State.launch (s : State) (l : Nat) : Launch := s.launches.getD l {}

/-- A queue. -/
def State.queue (s : State) (q : Nat) : Queue := s.queues.getD q {}

/-- Change a die. -/
def State.modDie (s : State) (d : Nat) (f : Die → Die) : State := { s with dies := s.dies.modify d f }

/-- Change a core. -/
def State.modCore (s : State) (c : Nat) (f : Core → Core) : State := { s with cores := s.cores.modify c f }

/-- Change a workgroup. -/
def State.modWg (s : State) (w : Nat) (f : Wg → Wg) : State := { s with wgs := s.wgs.modify w f }

/-- Change a warp. -/
def State.modWarp (s : State) (w : Nat) (f : Warp → Warp) : State := { s with warps := s.warps.modify w f }

/-- Change a split. -/
def State.modSplit (s : State) (i : Nat) (f : Split → Split) : State := { s with splits := s.splits.modify i f }

/-- Change a launch. -/
def State.modLaunch (s : State) (l : Nat) (f : Launch → Launch) : State := { s with launches := s.launches.modify l f }

/-- Change a queue. -/
def State.modQueue (s : State) (q : Nat) (f : Queue → Queue) : State := { s with queues := s.queues.modify q f }

/-- The index of the first element that satisfies `p`, or the length of the list. -/
def firstIdx {α : Type} (p : α → Bool) : List α → Nat
  | [] => 0
  | x :: xs => if p x then 0 else 1 + firstIdx p xs

/-- The list with `x` at index i, which is an element of it or one past the last. -/
def putAt {α : Type} (l : List α) (i : Nat) (x : α) : List α := if Nat.blt i l.length then l.set i x else l ++ [x]

/-- The indices of the elements that satisfy `p`. -/
def idxsOf {α : Type} (l : List α) (p : α → Bool) : List Nat :=
  (List.range l.length).filter (fun i => match l[i]? with
    | some x => p x
    | none => false)

/-- Apply a change for each element of a list, in order. -/
def foldState {α : Type} (l : List α) (f : α → State → State) (s : State) : State := l.foldl (fun t x => f x t) s

/-- The die of a global core number (R6). -/
def dieOfCore (c : Nat) : Nat := c / 16

/-- The hardware cluster of a global core number. -/
def clusterOfCore (c : Nat) : Nat := c / 4

/-- The issuing split's warp. -/
def State.warpOf (s : State) (i : Nat) : Warp := s.warp (s.split i).warp

/-- The number of the split's workgroup. -/
def State.wgIdxOf (s : State) (i : Nat) : Nat := (s.warpOf i).wg

/-- The split's workgroup. -/
def State.wgOf (s : State) (i : Nat) : Wg := s.wg (s.wgIdxOf i)

/-- The split's core. -/
def State.coreOf (s : State) (i : Nat) : Nat := (s.wgOf i).core

/-- Meridian time on a die (R222). -/
def State.nowDie (s : State) (d : Nat) : Nat := (s.die d).now

/-- Meridian time on a core's die. -/
def State.nowCore (s : State) (c : Nat) : Nat := s.nowDie (dieOfCore c)

/-- Meridian time where the split runs. -/
def State.nowOf (s : State) (i : Nat) : Nat := s.nowCore (s.coreOf i)

/-! ## Free values -/

/-- A number no earlier free value was taken at, and the state that has moved past it. -/
def State.fresh (s : State) : Nat × State := (s.free, { s with free := s.free + 1 })

/-- A request number that no earlier request had. -/
def State.newId (s : State) : Nat × State := (s.nextId, { s with nextId := s.nextId + 1 })

/-! ## The fields of MR (R36) -/

/-- The guard predicate. -/
def mrGP (mr : Word) : Nat := mr.toNat % 8
/-- Guard negate. -/
def mrGN (mr : Word) : Bool := mr.getLsbD 3
/-- The element type. -/
def mrET (mr : Word) : ET := ET.ofCode (mr.toNat / 2 ^ 4 % 16)
/-- The rounding mode. -/
def mrRM (mr : Word) : RM := RM.ofCode (mr.toNat / 2 ^ 8 % 8)
/-- Saturation. -/
def mrSAT (mr : Word) : Bool := mr.getLsbD 11
/-- Flush to zero. -/
def mrFTZ (mr : Word) : Bool := mr.getLsbD 12
/-- The enables NX UF OF DZ NV as the coding of `Flags.toNat`. -/
def mrEnables (mr : Word) : Nat :=
  mr.toNat / 2 ^ 18 % 2 + mr.toNat / 2 ^ 17 % 2 * 2 + mr.toNat / 2 ^ 16 % 2 * 4 + mr.toNat / 2 ^ 15 % 2 * 8 + mr.toNat / 2 ^ 14 % 2 * 16
/-- Trap on consuming poison. -/
def mrPX (mr : Word) : Bool := mr.getLsbD 19
/-- MR.LR: lane redundancy (R134). -/
def mrLR (mr : Word) : Bool := mr.getLsbD 13
/-- What MR gives a float operation. -/
def mrEnv (mr : Word) : FpEnv := { rm := mrRM mr, sat := mrSAT mr, ftz := mrFTZ mr }
/-- Whether an ET and an RM value of a register image are assigned (R36, R138). -/
def mrOk (mr : Word) : Bool := Nat.ble (mr.toNat / 2 ^ 4 % 16) 8 && Nat.ble (mr.toNat / 2 ^ 8 % 8) 4

/-! ## Lanes (R81, R11) -/

/-- The lanes 0 to n - 1. -/
def onesMask (n : Nat) : Mask := BitVec.ofNat 128 (2 ^ n - 1)

/-- A mask from a test of each lane below n. -/
def maskOf (n : Nat) (p : Nat → Bool) : Mask :=
  BitVec.ofNat 128 ((List.range n).foldr (fun l acc => if p l then acc + 2 ^ l else acc) 0)

/-- The lanes of a mask in ascending order, below n. -/
def lanesIn (n : Nat) (m : Mask) : List Nat := (List.range n).filter (fun l => m.getLsbD l)

/-- The lowest lane of a mask. -/
def lowestLane (m : Mask) : Option Nat := (List.range 128).find? (fun l => m.getLsbD l)

/-- The lanes of a set of quads. -/
def quadLanes (q : BitVec 32) : Mask := maskOf 128 (fun l => q.getLsbD (l / 4))

/-- The lanes of a warp that hold a workgroup lane below WGLANES (R11). -/
def ordinaryMask (g : Wg) (w : Warp) : Mask := maskOf w.width (fun l => Nat.blt (w.base + l) g.lanes)

/-- The absent lanes: every lane of the quad is at or above WGLANES (R11). -/
def absentMask (g : Wg) (w : Warp) : Mask := maskOf w.width (fun l => Nat.ble g.lanes (w.base + l / 4 * 4))

/-- The helper lanes (R11). -/
def helperMask (g : Wg) (w : Warp) : Mask := onesMask w.width &&& ~~~(ordinaryMask g w) &&& ~~~(absentMask g w)

/-- How many of s28 to s31 hold the activity mask (R82). -/
def maskWords (width : Nat) : Nat := (width + 31) / 32

/-- The activity mask of a split (R82). -/
def Split.act (x : Split) (width : Nat) : Mask :=
  let f (k : Nat) : Nat := if Nat.blt k (maskWords width) then (x.s.getD (28 + k) 0).toNat * 2 ^ (32 * k) else 0
  BitVec.ofNat 128 (f 0 + f 1 + f 2 + f 3) &&& onesMask width

/-- Write the activity mask into the scalars that hold it. -/
def Split.setAct (x : Split) (width : Nat) (m : Mask) : Split :=
  let put (s : List Word) (k : Nat) : List Word :=
    if Nat.blt k (maskWords width) then s.set (28 + k) (BitVec.ofNat 32 (m.toNat / 2 ^ (32 * k))) else s
  { x with s := put (put (put (put x.s 0) 1) 2) 3 }

/-- A warp's id (R81). -/
def Warp.id (w : Warp) : Nat := w.part * 128 + w.slots.headD 0 * 8 + w.q0

/-- The place of a split in the order of core, warp id and split-table index, which events of one cycle follow (R290, R328, R369). -/
def State.rankOf (s : State) (i : Nat) : Nat :=
  s.coreOf i * 2 ^ 17 + (s.warpOf i).id * 2 ^ 8 + (if (s.split i).primary then 0 else 1 + (s.split i).tix)

/-- The live splits of a warp. -/
def State.splitsOf (s : State) (w : Nat) : List Nat := idxsOf s.splits (fun x => x.live && x.warp == w)

/-- The live warps of a workgroup. -/
def State.warpsOf (s : State) (g : Nat) : List Nat := idxsOf s.warps (fun w => w.live && w.wg == g)

/-- The live splits of a workgroup. -/
def State.wgSplits (s : State) (g : Nat) : List Nat :=
  idxsOf s.splits (fun x => x.live && (s.warp x.warp).live && (s.warp x.warp).wg == g)

/-- Whether a workgroup is resident on its core. -/
def Wg.resident (g : Wg) : Bool := g.phase != .free && g.phase != .saved

/-- Whether the engines of a die have stopped: a partition has quiesced it (R232), or its temperature has stopped it (R435), or the device is
in PS2 (R433). -/
def State.stopped (s : State) (d : Nat) : Bool := (s.die d).quiesced || (s.die d).hung || s.dev.ps == 2

/-- The workgroups that are resident. -/
def State.residentWgs (s : State) : List Nat := idxsOf s.wgs Wg.resident

/-! ## Registers -/

/-- What a lane reads of a vector register (R141). -/
def VReg.lane (r : VReg) (l : Nat) : PWord :=
  match r with
  | .uniform u => u
  | .affine b d => .val (b + BitVec.ofNat 32 l * d)
  | .general ws => ws.getD l .poison

/-- The lanes of a register, one word each. -/
def VReg.list (r : VReg) (width : Nat) : List PWord :=
  match r with
  | .general ws => ws
  | _ => (List.range width).map r.lane

/-- A vector register of a warp. -/
def Warp.reg (w : Warp) (r : Nat) : VReg := w.v.getD r (.uniform .poison)

/-- A scalar register with its poison (R33, R82). -/
def Split.sreg (x : Split) (r : Nat) : PWord :=
  if x.sp.getLsbD r && Nat.blt r 28 then .poison else .val (x.s.getD r 0)

/-- A predicate of a warp (R11): p6 is the ordinary lanes, p7 is every lane. -/
def predMask (g : Wg) (w : Warp) (p : Nat) : Mask :=
  match p with
  | 7 => onesMask w.width
  | 6 => ordinaryMask g w
  | _ => w.p.getD p 0

/-- Write a scalar register (R82): s28 to s31 carry no poison, and where they hold the mask a write only clears. -/
def Split.setS (x : Split) (width r : Nat) (v : PWord) : Split :=
  if Nat.ble 28 r then
    if Nat.blt (r - 28) (maskWords width) then { x with s := x.s.set r (x.s.getD r 0 &&& v.bits) }
    else { x with s := x.s.set r v.bits }
  else
    { x with
      s := x.s.set r v.bits
      sp := if v.isPoison then x.sp ||| BitVec.ofNat 32 (2 ^ r) else x.sp &&& ~~~(BitVec.ofNat 32 (2 ^ r)) }

/-- The lanes of `a` inside the mask, those of `b` outside. -/
def mergeLanes (width : Nat) (m : Mask) (a b : VReg) : VReg :=
  .general ((List.range width).map (fun l => if m.getLsbD l then a.lane l else b.lane l))

/-- Whether a mask holds every lane of a warp. -/
def fullMask (width : Nat) (m : Mask) : Bool := m &&& onesMask width == onesMask width

/-- Write lanes of a vector register: every lane of the warp, and the register takes the shape of the value; fewer, and it becomes
general (R142, R143). -/
def Warp.setReg (w : Warp) (r : Nat) (m : Mask) (v : VReg) : Warp :=
  { w with v := w.v.set r (if fullMask w.width m then v else mergeLanes w.width m v (w.reg r)) }

/-- Last use (R32). -/
def Warp.kill (w : Warp) (r : Nat) (m : Mask) : Warp :=
  let old := w.reg r
  let gone : VReg :=
    match old with
    | .general _ => mergeLanes w.width m (.uniform .poison) old
    | _ => if fullMask w.width m then .uniform .poison else mergeLanes w.width m (.uniform .poison) old
  { w with v := w.v.set r gone }

/-- Write lanes of a predicate; p6 and p7 discard writes (R11). -/
def Warp.setPred (w : Warp) (p : Nat) (m bits : Mask) : Warp :=
  if Nat.blt p 6 then { w with p := w.p.set p ((w.p.getD p 0 &&& ~~~m) ||| (bits &&& m)) } else w

/-! ## Performance counters (R437) -/

/-- Count an event on a die in one counter: modulo 2^64, with OVF at a wrap. -/
def Die.pmAdd (x : Die) (k n : Nat) : Die :=
  let c := x.pmcnt.getD k 0 + n
  { x with pmcnt := x.pmcnt.set k (c % 2 ^ 64), pmovf := if Nat.ble (2 ^ 64) c then x.pmovf ||| BitVec.ofNat 8 (2 ^ k) else x.pmovf }

/-- The counters of a die that count an event, on a link or port where the event has one. -/
def Die.pmWhich (x : Die) (event sub : Nat) : List Nat :=
  if x.pmfrz then []
  else (List.range 8).filter (fun k =>
    let v := x.pmsel.getD k 0
    v % 256 == event && (Nat.blt event 0x10 || (Nat.ble 0x13 event && Nat.ble event 0x15) || v / 256 % 16 == sub))

/-- Count an event n times on a die. -/
def Die.pmCount (event sub n : Nat) (x : Die) : Die := (x.pmWhich event sub).foldl (fun y k => y.pmAdd k n) x

/-! ## Operating points (R218, R435) -/

/-- PWRCAP as it acts. -/
def State.powerCap (s : State) : Nat := min s.dev.pwrcap 4400

/-- Whether a die may run at a point (R435): its power there stays within PWRCAP ÷ 8, and its hottest sensor below 100 °C. A die that has not said what
it draws draws nothing, with its sensor as it last read. -/
def Die.fits (x : Die) (cap k : Nat) : Bool :=
  let p := x.draws.getD k (0, x.temp)
  Nat.ble (8 * p.1) cap && Nat.blt p.2 100

/-- The point at which a die runs (R433, R435): OP4 in PS1 or at 110 °C, else the highest that satisfies both limits. -/
def State.bestPoint (s : State) (x : Die) : Nat :=
  if s.dev.ps == 1 || Nat.ble 110 x.temp then 4 else ((List.range 5).find? (fun k => x.fits s.powerCap k)).getD 4

/-- Every die that runs takes its point (R435). -/
def State.settlePoints (s : State) : State := { s with dies := s.dies.map (fun x => if x.hung then x else { x with point := s.bestPoint x }) }

/-- Count an event n times on a die of the device. -/
def pmCount (d event sub n : Nat) (s : State) : State := if (s.die d).pmfrz then s else s.modDie d (Die.pmCount event sub n)

end Sys2Proof.Machine
end

