-- ==== Sys2Proof/Machine/Time.lean ====
section
/-! DEFINITION. Sites, the mesh and its live graph (R216, R219, R221), and the bounds every die publishes in MT_EPS (R222, R223,
R224, R439). Times and bounds are in units of 1/16 ns. -/

namespace Sys2Proof.Machine

/-- The physical site of a logical die, given the spare site (R216). -/
def siteOfDie (spare d : Nat) : Nat :=
  if d == 0 then 4 else ((List.range 9).filter (fun x => x != 4 && x != spare)).getD (d - 1) 4

/-- The logical die at a site; none at the spare (R216). -/
def dieAtSite (spare site : Nat) : Option Nat :=
  if site == spare then none
  else if site == 4 then some 0
  else some (1 + ((List.range site).filter (fun x => x != 4 && x != spare)).length)

/-- The site next to a site: direction 0 north, 1 east, 2 south, 3 west. -/
def nextSite (site dir : Nat) : Option Nat :=
  match dir with
  | 0 => if Nat.ble 3 site then some (site - 3) else none
  | 1 => if site % 3 == 2 then none else some (site + 1)
  | 2 => if Nat.ble 6 site then none else some (site + 3)
  | _ => if site % 3 == 0 then none else some (site - 1)

/-- The direction back. -/
def oppDir (dir : Nat) : Nat := (dir + 2) % 4

/-- The logical die a mesh link of die d leads to, if a link exists there (R216). -/
def State.neighbour (s : State) (d dir : Nat) : Option Nat :=
  (nextSite (siteOfDie s.spare d) dir).bind (dieAtSite s.spare)

/-- Whether a mesh link is up at both of its ends, by the link-state words of the dies (R231). -/
def State.linkIn (s : State) (up : Nat → BitVec 4) (d dir : Nat) : Bool :=
  match s.neighbour d dir with
  | none => false
  | some e => (up d).getLsbD dir && (up e).getLsbD (oppDir dir)

/-- Whether a mesh link is up at both of its ends (R219, R231). -/
def State.linkLive (s : State) (d dir : Nat) : Bool := s.linkIn (fun e => (s.die e).linkUp) d dir

/-- The dies a die reaches over one live link. -/
def State.liveNeighbours (s : State) (d : Nat) : List Nat :=
  (List.range 4).filterMap (fun dir => if s.linkLive d dir then s.neighbour d dir else none)

/-- Distances to a die in a graph; 99 stands for no path. -/
def distIn (adj : List (List Nat)) (a : Nat) : List Nat :=
  let start := (List.range 8).map (fun d => if d == a then 0 else 99)
  let relax (l : List Nat) : List Nat :=
    (List.range 8).map (fun d => (adj.getD d []).foldl (fun m e => min m (l.getD e 99 + 1)) (l.getD d 99))
  (List.range 8).foldl (fun l _ => relax l) start

/-- Distances to a die over live links. -/
def State.distTo (s : State) (a : Nat) : List Nat := distIn ((List.range 8).map s.liveNeighbours) a

/-- The live graph that a die keeps: its own link-state word, and of every other die the word that a heartbeat last brought (R231). -/
def State.graphOf (s : State) (d : Nat) : List (List Nat) :=
  let up (e : Nat) : BitVec 4 := if e == d then (s.die d).linkUp else (s.die d).view.getD e 0
  (List.range 8).map (fun e => (List.range 4).filterMap (fun dir => if s.linkIn up e dir then s.neighbour e dir else none))

/-- Whether a die sees a live path from a die to die 0 (R231). -/
def State.seesPath (s : State) (d e : Nat) : Bool := Nat.blt ((distIn (s.graphOf d) 0).getD e 99) 99

/-- Link hops between two dies over current routes (R221); none without a live route. -/
def State.hops (s : State) (a b : Nat) : Option Nat :=
  let h := (s.distTo b).getD a 99
  if Nat.blt h 99 then some h else none

/-- The upstream neighbour of a die: the next die on a shortest live path toward die 0 (R222); of two, the first in the order north, east, south, west
(DESIGN CHOICE, log entry 67). -/
def State.upstream (s : State) (d : Nat) : Option Nat :=
  let dist := s.distTo 0
  if d == 0 then none
  else (s.liveNeighbours d).find? (fun e => dist.getD e 99 + 1 == dist.getD d 99)

/-- 0xFFFF_FFFF: a bound that is not available (R224). -/
def noBound : Nat := 0xFFFFFFFF

/-- The growth of a bound at 0.1 ns per µs over a time, rounded up (R222, R223). -/
def drift (dt : Nat) : Nat := (dt + 9999) / 10000

/-- A die's own bound δ, with its growth in holdover (R222). -/
def State.deltaOf (s : State) (d : Nat) : Nat :=
  let x := s.die d
  x.delta + (if x.hold then drift (x.now - x.lastSync) else 0)

/-- The package bound a die has measured, before UNSYNC hides it (R223). -/
def State.pkgRaw (s : State) (d : Nat) : Nat :=
  let x := s.die d
  s.deltaOf d + x.beats.foldl (fun m b => max m (b.2.1 + drift (x.now - b.2.2))) 0

/-- The package bound a die publishes (R223, R224). -/
def State.epsPkg (s : State) (d : Nat) : Nat :=
  if (s.die d).unsync then noBound else min (s.pkgRaw d) noBound

/-- The host bound a die publishes (R223, R224). -/
def State.epsHost (s : State) (d : Nat) : Nat :=
  if (s.die d).hunsync then noBound
  else min (s.ptm.unc + drift ((s.die 0).now - s.ptm.last) + s.deltaOf 0 + s.deltaOf d) noBound

/-- The fabric bound a die publishes (R223, R224, R418): none when no peer has been measured within 100 µs, or above 10 µs. -/
def State.epsFab (s : State) (d : Nat) : Nat :=
  let x := s.die d
  let b := x.peers.foldl (fun m p => max m (p.off + (p.rtt + 1) / 2 + p.bound + drift (x.now - p.time))) 0 + s.epsPkg d
  if x.unsync || !x.peers.any (fun p => Nat.ble x.now (p.time + 1600000)) || Nat.blt 160000 b then noBound else b

/-- The bound of a scope code of MTEPS: die, package, host, fabric (R223, R226). -/
def State.eps (s : State) (d scope : Nat) : Nat :=
  match scope with
  | 0 => 0
  | 1 => s.epsPkg d
  | 2 => s.epsHost d
  | _ => s.epsFab d

/-- The ε of a release scope wg, cl, dev, sys at the writing die (R439). While the host bound is unavailable a sys signal takes the
package bound of die 0. -/
def State.epsRelease (s : State) (d scope : Nat) : Nat :=
  match scope with
  | 0 | 1 => 0
  | 2 => s.epsPkg d
  | _ => if (s.die d).hunsync then s.epsPkg 0 else s.epsHost d

/-- Whether a release or acquire at a scope traps on a die (R187, R188, R224). -/
def State.scopeUnsync (s : State) (d scope : Nat) : Bool :=
  match scope with
  | 0 | 1 => false
  | 2 => (s.die d).unsync
  | _ => (s.die d).unsync || (s.die d).hunsync

/-- Record a fault: while VALID is set a later one only sets OVF (R214, R233, R246). -/
def FaultRec.record (r : FaultRec) (n : FaultRec) : FaultRec :=
  if r.valid then { r with ovf := true } else { n with valid := true, ovf := r.ovf }

end Sys2Proof.Machine
end

