-- ==== Sys2Proof/Machine/Home.lean ====
section
/-! DEFINITION. Homes and the physical map (R191 to R197), owners (R203), keys (R422), failures (R212, R213), the host side
(R210, R211), and the page-table walk (R235 to R240). -/

namespace Sys2Proof.Machine

/-! ## The physical map -/

/-- Where a physical address is homed (R191). -/
inductive Home where
  | dram (die slice : Nat)
  | host (slice : Nat)
  | none
  deriving DecidableEq, Repr

/-- The slice of an address: S(pa) (R191). -/
def sliceOf (pa : Nat) : Nat := Nat.xor (Nat.xor (pa / 2 ^ 8 % 16) (pa / 2 ^ 12 % 16)) (pa / 2 ^ 16 % 16)

/-- The home of a physical address (R191): an address has 52 bits. -/
def homeOf (pa : Nat) : Home :=
  if Nat.ble (2 ^ 52) pa then .none
  else if Nat.ble (2 ^ 51) pa then .host (sliceOf pa)
  else if Nat.ble (2 ^ 39) pa then .none
  else if Nat.blt (pa % 2 ^ 36) (48 * 2 ^ 30) then .dram (pa / 2 ^ 36) (sliceOf pa)
  else .none

/-- The logical die of a home: host memory is homed on die 0. -/
def homeDie (pa : Nat) : Nat :=
  match homeOf pa with
  | .dram d _ => d
  | _ => 0

/-- Whether an address is homed in host memory. -/
def isHost (pa : Nat) : Bool := Nat.ble (2 ^ 51) pa && Nat.blt pa (2 ^ 52)

/-- Whether an address is device DRAM. -/
def isDram (pa : Nat) : Bool :=
  match homeOf pa with
  | .dram _ _ => true
  | _ => false

/-- The page-generation entry of an address (R193): the proxy keeps 65,536 entries for host memory. -/
def frameOf (pa : Nat) : Nat := if isHost pa then 2 ^ 35 + pa / 2 ^ 16 % 65536 else pa / 2 ^ 16

/-- The generation and mode of a frame (R193). -/
def State.genOf (s : State) (pa : Nat) : Nat × Bool :=
  match s.pgen.find? (fun p => p.frame == frameOf pa) with
  | some p => (p.gen, p.m)
  | none => (0, false)

/-- Set the generation and mode of a frame; an entry at its reset value is not listed. -/
def State.setGen (s : State) (pa gen : Nat) (m : Bool) : State :=
  let rest := s.pgen.filter (fun p => p.frame != frameOf pa)
  { s with pgen := if gen == 0 && !m then rest else { frame := frameOf pa, gen := gen, m := m } :: rest }

/-- Whether an address lies in a frame of the lineage engine's page pool (R322). -/
def State.isPool (s : State) (pa : Nat) : Bool :=
  match homeOf pa with
  | .dram d _ =>
    let x := s.die d
    let f := pa % 2 ^ 36 / 2 ^ 16
    Nat.ble x.lbase f && Nat.blt f (x.lbase + x.lcnt)
  | _ => false

/-! ## Spans -/

/-- The span of words that n bytes at an address touch; they lie within one block. -/
def spanOf (pa n : Nat) : Span :=
  let first := pa % 256 / 4
  { block := pa / 256, first := first, count := (pa % 256 + n - 1) / 4 - first + 1 }

/-- Whether two spans share a word. -/
def Span.overlaps (a b : Span) : Bool :=
  a.block == b.block && Nat.blt a.first (b.first + b.count) && Nat.blt b.first (a.first + a.count)

/-- Whether the first span holds every word of the second. -/
def Span.covers (a b : Span) : Bool :=
  a.block == b.block && Nat.ble a.first b.first && Nat.ble (b.first + b.count) (a.first + a.count)

/-- The smallest span that holds both. -/
def Span.union (a b : Span) : Span :=
  let first := min a.first b.first
  { block := a.block, first := first, count := max (a.first + a.count) (b.first + b.count) - first }

/-- The address of a span's first byte. -/
def Span.base (a : Span) : Nat := a.block * 256 + a.first * 4

/-! ## Keys (R422) -/

/-- The key slot the bytes of a granule are held under. -/
def State.tagOf (s : State) (g : Nat) : Nat :=
  match s.tags.find? (fun t => t.1 == g) with
  | some t => t.2
  | none => 0

/-- The key bytes of a slot. -/
def State.keyBytes (s : State) (k : Nat) : List Byte :=
  match s.keys.find? (fun t => t.1 == k) with
  | some t => t.2
  | none => []

/-- Whether a key slot is enabled: slot 0 always is, one that is being disabled is not (R422, R423). -/
def State.keyOn (s : State) (k : Nat) : Bool := k == 0 || (s.keys.any (fun t => t.1 == k) && s.dev.closing != some k)

/-- The 32 bytes of a granule. -/
def bytes32 (bs : List Byte) : List Byte := (List.range 32).map (fun i => bs.getD i 0)

/-- A granule as a request under a key slot sees it: the stored bytes decrypted under its own key; host memory is not encrypted (R422). -/
def State.granule (s : State) (key g : Nat) : List Byte :=
  let raw := cellsRead s.mem (32 * g) 32
  let tag := s.tagOf g
  if tag == key || isHost (32 * g) then raw
  else
    let stored := if tag == 0 then raw else bytes32 (Config.xtsEncrypt (s.keyBytes tag) g raw)
    if key == 0 then stored else bytes32 (Config.xtsDecrypt (s.keyBytes key) g stored)

/-- A byte of memory under a key slot. -/
def State.byteAt (s : State) (key pa : Nat) : Byte :=
  if s.tagOf (pa / 32) == key || isHost pa then cellGet s.mem pa else (s.granule key (pa / 32)).getD (pa % 32) 0

/-- Bytes of memory under a key slot. -/
def State.readMem (s : State) (key pa n : Nat) : List Byte := (List.range n).map (fun i => s.byteAt key (pa + i))

/-- A little-endian number in memory under a key slot. -/
def State.readNat (s : State) (key pa n : Nat) : Nat := natOfBytes (s.readMem key pa n)

/-- Refill a granule under a key slot (R422). -/
def State.rekey (s : State) (key g : Nat) : State :=
  if s.tagOf g == key || isHost (32 * g) then s
  else
    let rest := s.tags.filter (fun t => t.1 != g)
    { s with mem := cellsWrite s.mem (32 * g) (s.granule key g), tags := if key == 0 then rest else (g, key) :: rest }

/-- The granules that n bytes at an address touch. -/
def granulesOf (pa n : Nat) : List Nat := if n == 0 then [] else (List.range ((pa % 32 + n + 31) / 32)).map (fun i => pa / 32 + i)

/-- A write of n bytes ends every reservation that holds one of them (R307); `scratch` names the workgroup of a scratchpad write. -/
def State.breakResv (s : State) (scratch : Option Nat) (a n : Nat) : State :=
  let hit (g : Nat) (c : Spoke) : Spoke :=
    match c.resv with
    | some r =>
      if (match scratch with
          | some w => r.scratch && w == g
          | none => !r.scratch) && Nat.blt r.addr (a + n) && Nat.blt a (r.addr + r.n) then { c with resv := none } else c
    | none => c
  if s.wgs.any (fun w => w.lspoke.resv.isSome || w.sspoke.resv.isSome) then
    { s with wgs := s.wgs.mapIdx (fun g w => { w with lspoke := hit g w.lspoke, sspoke := hit g w.sspoke }) }
  else s

/-- Write bytes under a key slot; a granule wholly covered loses its error (R213). -/
def State.writeMem (s : State) (key pa : Nat) (bs : List Byte) : State :=
  let t := (foldState (granulesOf pa bs.length) (fun g t => t.rekey key g) s).breakResv none pa bs.length
  { t with mem := cellsWrite t.mem pa bs
           ecc := t.ecc.filter (fun g => !(Nat.ble pa (32 * g) && Nat.ble (32 * g + 32) (pa + bs.length))) }

/-! ## Failures (R212, R213) -/

/-- Whether a die that is not known to be lost cannot be reached at present, or has stopped (R221, R435). -/
def State.noRoute (s : State) (d h : Nat) : Bool := (s.die h).lost.isNone && ((s.hops d h).isNone || (s.die h).hung)

/-- The cause an access to n bytes meets at its home, if any: no backing, a lost home, an uncorrectable granule, a dead host link. -/
def State.homeCause (s : State) (pa n : Nat) : Option Nat :=
  match homeOf pa with
  | .none => some 0x084
  | .dram d _ =>
    if (s.die d).lost.isSome then some 0x081
    else if (granulesOf pa n).any (fun g => s.ecc.contains g) then some 0x082
    else none
  | .host _ => if s.hdown || s.dev.st == 2 || s.hfail.any (fun f => Nat.ble (pa / 64) f.1 && Nat.ble f.1 ((pa + n - 1) / 64) && Nat.blt (s.nowDie 0) f.2) then some 0x085 else none

/-- The cause that meets every access to a home, whatever its bytes. -/
def State.wholeCause (s : State) (pa : Nat) : Option Nat := s.homeCause pa 0

/-- Whether nothing answers at an address: it is not backed, or its home is lost; no generation is compared there (R191, R212). -/
def State.noHome (s : State) (pa : Nat) : Bool := homeOf pa == .none || (s.die (homeDie pa)).lost.isSome

/-- The completion time of an access that fails (R212). -/
def State.failTime (s : State) (pa : Nat) (d : Nat) : Nat :=
  match (s.die (homeDie pa)).lost with
  | some t => t
  | none => s.nowDie d

/-- Record a home cause on a die, with what CORE shows (R214). -/
def State.recordHomeOn (s : State) (d core agent cause pa : Nat) : State :=
  let sl := sliceOf pa
  s.modDie d (fun x =>
    { x with hf := x.hf.record { cause := cause, info := sl * 2 ^ 15 + homeDie pa * 2 ^ 12, addr := pa
                                 req := core * 256 + agent * 16 } })

/-- Record a home cause on the requester's die (R214). -/
def State.recordHome (s : State) (core agent cause pa : Nat) : State := s.recordHomeOn (dieOfCore core) core agent cause pa

/-! ## Leases and completion times (R194 to R196) -/

/-- The latest expiry of a record that overlaps a span. -/
def State.latestE (s : State) (sp : Span) : Nat :=
  s.leases.foldl (fun m l => if l.span.overlaps sp then max m l.e else m) 0

/-- The completion time of a write applied now (R196, R203): for host memory with the host bound, or die 0's package bound while that
is unavailable (R210, R439). -/
def State.homeTime (s : State) (pa n : Nat) : Nat :=
  let d := homeDie pa
  let eps := if isHost pa && !(s.die 0).hunsync then s.epsHost 0 else s.epsPkg d
  max (s.nowDie d) (s.latestE (spanOf pa n)) + eps

/-- Store a completion time into the overlapping records. -/
def State.stampWL (s : State) (sp : Span) (w : Nat) : State :=
  { s with leases := s.leases.map (fun l => if l.span.overlaps sp then { l with wl := max l.wl w } else l) }

/-- V: the largest WL over the words read, or 0 when it is not later than Now at the home (R196). -/
def State.readV (s : State) (sp : Span) : Nat :=
  let v := s.leases.foldl (fun m l => if l.span.overlaps sp then max m l.wl else m) 0
  if Nat.blt (s.nowDie (homeDie sp.base)) v then v else 0

/-- Apply a write at its home and return its completion time; a frame with M = 1 keeps no record (R192, R196, R206). -/
def State.homeStore (s : State) (key pa : Nat) (bs : List Byte) : State × Nat :=
  let w := s.homeTime pa bs.length
  let t := (s.writeMem key pa bs).stampWL (spanOf pa bs.length) w
  (if isHost pa then { t with hlines := t.hlines.map (fun l => if l.line == pa / 64 then { l with dirty := true } else l) } else t, w)

/-- Lease lengths of the classes (R194). -/
def leaseLength (c : Nat) : Nat :=
  match c with
  | 0 => 0
  | 1 => 4000
  | 2 => 16000
  | _ => 64000

/-- The class a home grants of the class asked for (R194, R439): 0 stands for no lease. -/
def State.grantClass (s : State) (d : Nat) (sp : Span) (c : Nat) : Nat :=
  let pa := sp.base
  let h := homeDie pa
  if (s.die h).unsync && h != d then 0
  else if (granulesOf pa (4 * sp.count)).any (fun g => s.ecc.contains g) then 0
  else if Nat.ble 32768 ((s.leases.filter (fun l => homeOf l.span.base == homeOf pa)).length) then 0
  else if isHost pa then (if (s.die 0).hunsync then 0 else min c 1)
  else if s.isPool pa then min c 2
  else c

/-- Grant a lease on a span; answers the expiry, or none (R194, R195). -/
def State.grant (s : State) (d : Nat) (sp : Span) (c : Nat) : State × Option Nat :=
  let k := s.grantClass d sp c
  if k == 0 then (s, none)
  else
    let e := s.nowDie (homeDie sp.base) + leaseLength k
    let s := pmCount (homeDie sp.base) 0x06 0 1 s
    let t := if isHost sp.base then
        { s with hlines := s.hlines.map (fun l =>
            if Nat.ble (sp.base / 64) l.line && Nat.ble l.line ((sp.base + 4 * sp.count - 1) / 64) then { l with e := max l.e e } else l) }
      else s
    ({ t with leases := if t.leases.any (fun l => l.span == sp)
        then t.leases.map (fun l => if l.span == sp then { l with e := max l.e e } else l)
        else t.leases ++ [{ span := sp, e := e, wl := 0 }] }, some e)

/-! ## Spans that are owned (R203, R205) -/

/-- The completion time that the release of a span returns (R203, R205): over a span that was written with the latest E. -/
def State.releaseTime (s : State) (o : Owner) : Nat :=
  if o.wrote then s.homeTime o.span.base (4 * o.span.count)
  else s.nowDie (homeDie o.span.base) + s.epsPkg (homeDie o.span.base)

/-- Owners that are gone: the homes release their spans at once, and keep the C of each (R205). -/
def dropOwners (p : Owner → Bool) (s : State) : State :=
  foldState (s.owners.filter p) (fun o t => t.stampWL o.span (t.releaseTime o)) { s with owners := s.owners.filter (fun o => !p o) }

/-! ## What holds a request back (R192) -/

/-- Whether an engine other than the agent owns a span that overlaps (R203, R204). -/
def State.ownedByOther (s : State) (sp : Span) (agent : Party) : Bool :=
  s.owners.any (fun o => o.span.overlaps sp && o.agent != agent)

/-- The host lines n bytes touch. -/
def linesOf (pa n : Nat) : List Nat := (List.range ((pa % 64 + n + 63) / 64)).map (fun i => pa / 64 + i)

/-- Whether the proxy holds the lines an access needs; one that a host snoop waits for serves nothing more (R210). -/
def State.hostReady (s : State) (write : Bool) (pa n : Nat) : Bool :=
  !isHost pa || (linesOf pa n).all (fun k => s.hlines.any (fun l => l.line == k && (l.owned || !write) && !l.snooped))

/-- Whether a request waits at its home: no route to it yet, an owner, a block to be back-invalidated, a host line to be fetched. -/
def State.homeBusy (s : State) (d : Nat) (write : Bool) (pa n : Nat) (agent : Party) : Bool :=
  if (s.homeCause pa n).isSome && s.homeCause pa n != some 0x082 then false
  else
    s.noRoute d (homeDie pa) || s.ownedByOther (spanOf pa n) agent ||
    (write && s.hheld.contains (pa / 256)) || !s.hostReady write pa n

/-- Note where a request is held back. -/
def State.stallAt (s : State) (write : Bool) (pa n : Nat) : State := { s with stall := .home write pa n }

/-- Note a refusal as stale, or a walk that starts again: it is walked again (R237, R240). -/
def State.stallRetry (s : State) (core root rgen va : Nat) (a : Acc) : State := { s with stall := .retry core root rgen va a }

/-- Note a request that has to be answered first. -/
def State.stallOn (s : State) (id : Nat) : State := { s with stall := .answered id }

/-- What a word waits for that has been held back at a home (R16). -/
def State.memWait (s : State) : Cond := s.stall

/-- Send what a waiting request needs: a back-invalidate snoop, or requests for host lines (R210, R211). -/
def State.prompt (s : State) (write : Bool) (pa n : Nat) : State :=
  let s := s.stallAt write pa n
  let s1 := if write && s.hheld.contains (pa / 256) && !s.hbinv.contains (pa / 256) then { s with hbinv := s.hbinv ++ [pa / 256] } else s
  if isHost pa && !s.hdown then
    foldState (linesOf pa n) (fun k t =>
      if t.hlines.any (fun l => l.line == k && (l.owned || !write)) || t.hreqs.any (fun r => r.line == k && (r.own || !write)) then t
      else { t with hreqs := t.hreqs ++ [{ line := k, own := write, since := t.nowDie 0 }] }) s1
  else s1

/-! ## Translation (R235 to R240) -/

/-- What a walk ends in: a leaf, a fault, a refusal that restarts it, or a wait for a host line. -/
inductive Walk where
  | leaf (l : Leaf)
  | fault (cause : Nat)
  | again (pa : Nat)
  | host (pa : Nat)
  deriving DecidableEq, Repr

/-- A field of a table entry. -/
def bitsOf (e lo n : Nat) : Nat := e / 2 ^ lo % 2 ^ n

/-- The bit position and the number of index bits of a level (R235). -/
def levelBits (lvl : Nat) : Nat × Nat :=
  match lvl with
  | 0 => (48, 8)
  | 1 => (39, 9)
  | 2 => (30, 9)
  | 3 => (21, 9)
  | _ => (16, 5)

/-- Whether a valid entry is malformed at a level (R236). -/
def malformed (e lvl : Nat) : Bool :=
  bitsOf e 8 1 != 0 || bitsOf e 52 51 != 0 ||
  (if bitsOf e 1 1 == 1 then
    Nat.blt lvl 2 || bitsOf e 9 7 != 0 || bitsOf e 16 ((levelBits lvl).1 - 16) != 0
  else
    lvl == 4 || bitsOf e 103 9 != 0 || bitsOf e 2 6 != 0 || (Nat.blt lvl 3 && bitsOf e 9 4 != 0))

/-- The leaf an entry gives (R236). -/
def leafOf (e lvl : Nat) : Leaf :=
  { pa := bitsOf e 16 36 * 2 ^ 16, lg := (levelBits lvl).1, gen := bitsOf e 112 16, key := bitsOf e 103 9
    m := bitsOf e 7 1 == 1, lease := bitsOf e 5 2, u := bitsOf e 4 1 == 1, x := bitsOf e 3 1 == 1, w := bitsOf e 2 1 == 1 }

/-- Walk from a table at a level (R237): every table read is a class 0 read at its home, under key slot 0. A home that answers compares the
generation before anything else. -/
def State.walkFrom (s : State) (d va : Nat) : Nat → Nat → Nat → Walk
  | 0, _, _ => .fault 0x0A3
  | k + 1, t, g =>
    let lvl := 4 - k
    let (lo, n) := levelBits lvl
    let pa := t + 16 * bitsOf va lo n
    if s.noRoute d (homeDie pa) then .again pa
    else if s.noHome pa then .fault 0x0A4
    else if (s.genOf pa).1 != g then .again pa
    else if (s.wholeCause pa).isSome then .fault 0x0A4
    else if (s.homeCause pa 16).isSome || (s.genOf pa).2 then .fault 0x0A4
    else if !s.hostReady false pa 16 then .host pa
    else if s.ownedByOther (spanOf pa 16) .device then .again pa
    else
      let e := s.readNat 0 pa 16
      if bitsOf e 0 1 == 0 then .fault 0x0A1
      else if malformed e lvl then .fault 0x0A3
      else if bitsOf e 1 1 == 1 then .leaf (leafOf e lvl)
      else s.walkFrom d va k (bitsOf e 9 43 * 2 ^ 9) (bitsOf e 112 16)

/-- The walk of an address under a root (R237). -/
def State.walk (s : State) (d root rgen va : Nat) : Walk := s.walkFrom d va 5 root rgen

/-- A cached translation that is usable (R238). -/
def State.cached (s : State) (core root rgen va : Nat) : Option Leaf :=
  let c := s.core core
  let hit (x : Xlat) : Bool :=
    x.root == root && x.rgen == rgen && x.va == va / 2 ^ x.leaf.lg * 2 ^ x.leaf.lg && Nat.blt (s.nowCore core) (x.time + 16000000)
  (c.xlat.find? hit).map (fun x => x.leaf)

/-- Cache a leaf at a core, in place of one for the same page. -/
def State.cacheLeaf (s : State) (core root rgen va : Nat) (l : Leaf) : State :=
  let base := va / 2 ^ l.lg * 2 ^ l.lg
  s.modCore core (fun c =>
    { c with xlat := { root := root, rgen := rgen, va := base, leaf := l, time := s.nowCore core } ::
                      c.xlat.filter (fun x => !(x.root == root && x.rgen == rgen && x.va == base)) })

/-- Drop the translations of a core that a test picks (R238). -/
def State.dropXlat (s : State) (core : Nat) (p : Xlat → Bool) : State :=
  s.modCore core (fun c => { c with xlat := c.xlat.filter (fun x => !p x) })

/-- Whether a leaf allows an access (R239). -/
def Leaf.allows (l : Leaf) (a : Acc) (prv : Bool) : Bool :=
  (l.u || prv) &&
  (match a with
    | .load => true
    | .store => l.w
    | .fetch => l.x)

/-- Translate an address for an access (R237 to R239): the cached leaf when it allows the access, else a walk. -/
def State.translate (s : State) (core root rgen va : Nat) (a : Acc) (prv : Bool) : State × Walk :=
  let check (l : Leaf) : Walk := if !l.allows a prv then .fault 0x0A2 else if !s.keyOn l.key then .fault 0x0A5 else .leaf l
  let go : State × Walk :=
    match s.walk (dieOfCore core) root rgen va with
    | .leaf l => (s.cacheLeaf core root rgen va l, check l)
    | .host pa => (s.prompt false pa 16, .again pa)
    | .again pa => (s.stallRetry core root rgen va a, .again pa)
    | r => (s, r)
  match s.cached core root rgen va with
  | some l => if l.allows a prv then (s, check l) else go
  | none => go

/-- The physical address a leaf gives. -/
def Leaf.at (l : Leaf) (va : Nat) : Nat := l.pa + va % 2 ^ l.lg

/-- Log a translation fault on a die, with what CORE shows (R246). -/
def State.logXlatOn (s : State) (d core agent cause va : Nat) : State :=
  s.modDie d (fun x =>
    { x with tf := x.tf.record { cause := cause, info := agent * 2 ^ 26 + core * 2 ^ 18, addr := va }
             tfcnt := min (x.tfcnt + 1) 0xFFFFFFFF })

/-- Log a translation fault on the requester's die (R246). -/
def State.logXlat (s : State) (core agent cause va : Nat) : State := s.logXlatOn (dieOfCore core) core agent cause va

/-- What a word that will be executed again has logged so far is logged by its last execution alone. -/
def State.unlogged (t s : State) : State := { t with dies := s.dies }

/-- Whether the home refuses a request formed with a leaf (R193). -/
def State.stale (s : State) (l : Leaf) (pa : Nat) : Bool :=
  let g := s.genOf pa
  g.1 != l.gen || g.2 != l.m

/-- Whether a walk that a wait repeats comes to its end now (R237, R240): at a fault, or at a leaf that the home does not refuse. -/
def State.walkEnds (s : State) (core root rgen va : Nat) : Bool :=
  match s.walk (dieOfCore core) root rgen va with
  | .leaf l => !s.stale l (l.at va)
  | .fault _ => true
  | _ => false

/-! ## Accesses that engines and the command core make in one step -/

/-- What an engine's access comes to: done, a cause, or not yet. -/
inductive Got (α : Type) where
  | ok (a : α)
  | bad (cause : Nat)
  | later
  deriving DecidableEq, Repr

/-- Whether a REGMODE under way holds the frame of an address: new requests wait (R208). -/
def State.onHold (s : State) (pa : Nat) : Bool :=
  s.reqs.any (fun q => match q with
    | .eng r => r.op == .regmode && Nat.ble (r.vals.headD 0) pa && Nat.blt pa (r.vals.headD 0 + r.vals.getD 1 0 * 65536)
    | _ => false)

/-- Read memory by physical address for an engine of a die, under key slot 0; no lease is kept. -/
def State.engineRead (s : State) (d pa n : Nat) (agent : Party) : State × Got (List Byte) :=
  if s.onHold pa || s.homeBusy d false pa n agent then (s.prompt false pa n, .later)
  else
    match s.homeCause pa n with
    | some c => (s, .bad c)
    | none => (s, .ok (s.readMem 0 pa n))

/-- Write memory by physical address for an engine of a die; answers the completion time. -/
def State.engineWrite (s : State) (d pa : Nat) (bs : List Byte) (agent : Party) : State × Got Nat :=
  if s.onHold pa || s.homeBusy d true pa bs.length agent then (s.prompt true pa bs.length, .later)
  else
    match s.homeCause pa bs.length with
    | some c => if c == 0x082 then (let r := s.homeStore 0 pa bs; (r.1, .ok r.2)) else (s, .bad c)
    | none => let r := s.homeStore 0 pa bs; (r.1, .ok r.2)

end Sys2Proof.Machine
end

