-- ==== Sys2Proof/Machine/Ops.lean ====
section
/-! DEFINITION. The named operations over the state: the open group of a split (R28), requests, what is discarded and what retires, traps and
their return (R135, R136), stops, and the end of a launch by a cause (R395). -/

namespace Sys2Proof.Machine

/-! ## Groups (R28) -/

/-- Whether a held result is still to come. -/
def Held.isAwait : Held → Bool
  | .await _ => true
  | _ => false

/-- Whether the group holds results that have not returned. -/
def Split.awaiting (x : Split) : Bool := x.held.any Held.isAwait

/-- A write of a register of R245: TROOT_LO, TROOT_HI or TRGEN. The workgroup's cached translations are dropped (R238). -/
def writeRoot (g n : Nat) (v : Word) (s : State) : State :=
  let w := s.wg g
  let t := s.modCore w.core (fun c => { c with xlat := c.xlat.filter (fun x => !(x.root == w.troot && x.rgen == w.trgen)) })
  t.modWg g (fun w =>
    match n with
    | 0x0C0 => { w with troot := w.troot / 2 ^ 32 * 2 ^ 32 + v.toNat / 2 ^ 12 * 2 ^ 12 }
    | 0x0C1 => { w with troot := v.toNat % 2 ^ 20 * 2 ^ 32 + w.troot % 2 ^ 32 }
    | _ => { w with trgen := v.toNat % 2 ^ 16 })

/-- Write one held result. -/
def applyHeld (i : Nat) (h : Held) (s : State) : State :=
  let w := (s.split i).warp
  match h with
  | .vset r m v => s.modWarp w (fun u => u.setReg r m v)
  | .lastUse r m => s.modWarp w (fun u => u.kill r m)
  | .sset r v => s.modSplit i (fun x => x.setS (s.warp w).width r v)
  | .pset p m bits => s.modWarp w (fun u => u.setPred p m bits)
  | .deact m => s.modSplit i (fun x => x.setAct (s.warp w).width (x.act (s.warp w).width &&& ~~~m))
  | .sys n v => writeRoot (s.warp w).wg n v s
  | .await _ => s
  | .mark _ => s

/-- Whether a held result is the poison of a last use. -/
def Held.isLastUse : Held → Bool
  | .lastUse _ _ => true
  | _ => false

/-- The order in which a group's results are written (R28, R32): the poison of last uses comes before every result. -/
def writeOrder (hs : List Held) : List Held := hs.filter Held.isLastUse ++ hs.filter (fun h => !h.isLastUse)

/-- The end of a group: last uses poison their registers, then every held result is written in program order (R28, R32). -/
def commitGroup (i : Nat) (s : State) : State :=
  let t := foldState (writeOrder (s.split i).held) (fun h t => applyHeld i h t) s
  t.modSplit i (fun x => { x with held := [], n := 0, phase := .ready, since := (s.die (dieOfCore (s.coreOf i))).cycle })

/-- Close a group: written at once when every result is back, else the split parks (R28, R16). -/
def closeGroup (i : Nat) (s : State) : State :=
  if (s.split i).awaiting || (s.split i).pend.isSome then s.modSplit i (fun x => { x with phase := .parked .group }) else commitGroup i s

/-- How many words the word at the pc counts: three for a LIMM triple (R28). -/
def Split.words (x : Split) : Nat := if x.lit.isSome then 3 else 1

/-- A word has executed: its results are held, the pc moves past it, and the group closes at a set S bit, a closing word or the
sixteenth word (R28, R29). -/
def finishWord (i : Nat) (closes : Bool) (held : List Held) (s : State) : State :=
  let k := (s.split i).words
  let t := s.modSplit i (fun x =>
    { x with held := x.held ++ held, n := x.n + k, pc := x.pc + 4 * k, lit := none, cons := none, phase := .ready,
             since := (s.die (dieOfCore (s.coreOf i))).cycle })
  if closes || Nat.ble 16 (t.split i).n || (t.split i).pend.isSome then closeGroup i t else t

/-- Park the split at its word, which is executed again when the condition holds (R16, R121). -/
def parkRetest (i : Nat) (c : Cond) (s : State) : State :=
  s.modSplit i (fun x => { x with phase := .parked (.retest c), woken := false })

/-! ## Requests -/

/-- Whom a request answers. -/
def Req.party : Req → Party
  | .mem r => r.party
  | .eng r => r.party

/-- The number of a request. -/
def Req.id : Req → Nat
  | .mem r => r.id
  | .eng r => r.id

/-- Whether a party has a request that has not been answered. -/
def State.outstanding (s : State) (p : Party) : Bool := s.reqs.any (fun r => r.party == p)

/-- Remove an answered request. -/
def State.dropReq (s : State) (id : Nat) : State := { s with reqs := s.reqs.filter (fun r => r.id != id) }

/-- Post a request. -/
def State.post (s : State) (r : Req) : State := { s with reqs := s.reqs ++ [r] }

/-- The reply to a request: the held place becomes the results (R28). -/
def fillHeld (id : Nat) (rs : List Held) : List Held → List Held
  | [] => []
  | .await k :: hs => if k == id then rs ++ hs else .await k :: fillHeld id rs hs
  | h :: hs => h :: fillHeld id rs hs

/-! ## Discarding and retiring -/

/-- The cause class of a party that a home or translation fault record names (R23). -/
def Party.cls : Party → Nat
  | .split _ => 3
  | .seq _ => 7
  | .spoke _ _ => 9
  | .copy _ => 8
  | .device => 3

/-- The class that a request is recorded under: that of the party that sent it (R23, R24). -/
def MemReq.cls (r : MemReq) : Nat := r.agent.getD r.party.cls

/-- What the in-flight requests of discarded parties become (R24, R133, R317): stores and atomics stand, a store-conditional among them, which
keeps the reservation of the context that sent it; a load's answer reaches nobody, but a cause that it brings is still recorded. `now` gives the time
of the discard on a core. -/
def orphanReq (gone : Party → Bool) (now : Nat → Nat) : Req → Option Req
  | .mem r =>
    if gone r.party then
      let q := { r with party := .device, agent := some r.cls, gone := some (now r.core) }
      match r.op with
      | .xsc _ _ => some (.mem { r with gone := some (now r.core) })
      | .atomic f n _ => some (.mem { q with op := .atomic f n none })
      | .xamo f n _ => some (.mem { q with op := .atomic f n none })
      | _ => some (.mem q)
    else some (.mem r)
  | .eng r => if gone r.party then some (.eng { r with party := .device }) else some (.eng r)

/-- Whether a party belongs to a workgroup. -/
def State.partyIn (s : State) (g : Nat) : Party → Bool
  | .split i => s.wgIdxOf i == g
  | .seq w => w == g
  | .spoke w _ => w == g
  | .copy k => match s.copies[k]? with
    | some c => c.live && c.wg == g
    | none => false
  | .device => false

/-- What a copy becomes once a workgroup is gone: it goes on for the other destinations of a multicast, and ends with the last. -/
def Copy.without (g : Nat) (c : Copy) : Copy :=
  let left := c.dests.filter (fun d => d.wg != g)
  let stays := c.issuer && c.wg != g
  let d := { c with dests := left, issuer := stays, own := c.own && c.wg != g }
  if left.isEmpty && !stays then { d with live := false, flight := [] } else d

/-- Free everything a workgroup holds: its warps and splits, its contexts, its entries. A span that its parties own is released at its home at
once, with a C of its own (R205). -/
def freeWg (g : Nat) (s0 : State) : State :=
  let gone := s0.partyIn g
  let s := dropOwners (fun o => gone o.agent) s0
  { s with
    copies := s.copies.map (Copy.without g)
    reqs := s.reqs.filterMap (orphanReq gone s.nowCore)
    dies := s.dies.map (fun d => { d with colls := d.colls.map (Option.map (fun c => if c.wg == some g then { c with wg := none } else c)) })
    splits := s.splits.map (fun x => if (s.warp x.warp).wg == g && (s.warp x.warp).live then { x with live := false } else x)
    warps := s.warps.map (fun w => if w.wg == g then { w with live := false, gone := false } else w)
    wgs := s.wgs.modify g (fun w =>
      { w with phase := .free, entries := [], bound := false, seq := { w.seq with phase := .idle }
               lspoke := { w.lspoke with phase := .idle }, sspoke := { w.sspoke with phase := .idle } }) }

/-- A workgroup retires, with the largest completion time it reports to its launch (R14, R19, R394). -/
def retireWg (g : Nat) (s : State) : State :=
  let w := s.wg g
  (freeWg g s).modLaunch w.launch (fun l => { l with retired := l.retired + 1, largest := max l.largest w.report })

/-- A workgroup is discarded (R133): it reports no time, and its launch counts it as gone; where a cause has ended the launch, the time of the last
discard counts for its signal (R395). -/
def discardWg (g : Nat) (s : State) : State :=
  let w := s.wg g
  (freeWg g s).modLaunch w.launch (fun l =>
    { l with retired := l.retired + 1, endTime := if l.ended.isSome && w.resident then max l.endTime (s.nowCore w.core) else l.endTime })

/-- A split of a cancelled workgroup is discarded (R133): its open group goes, its issued stores and atomics stand, it reports nothing. A warp
of which nothing is left is gone, as a FUSE rendezvous that it was part of sees (R105). -/
def discardSplit (i : Nat) (s : State) : State :=
  let w := (s.split i).warp
  let t := { s.modSplit i (fun x => { x with live := false }) with reqs := s.reqs.filterMap (orphanReq (fun p => p == Party.split i) s.nowCore) }
  if (t.splitsOf w).isEmpty then t.modWarp w (fun u => { u with live := false, gone := true }) else t

/-- The headers that a save has marked valid so far (R125, R396): the unit's is false, that of the context area true. -/
def Preempt.marks (p : Preempt) : List Bool := (if p.unitDone then [false] else []) ++ (if p.header.isSome then [true] else [])

/-- A cause ends a launch (R395): nothing more of it is placed, and its workgroups are discarded as under R133 (`discardEnded`). Where a save of its
queue is in progress, what it has marked valid of a workgroup that is already saved is to be cleared (R401). -/
def endLaunch (l cause : Nat) (s : State) : State :=
  if (s.launch l).ended.isSome then s
  else
    let saving := (s.queue (s.launch l).queue).state == .preempting
    let t := s.modLaunch l (fun x => { x with ended := some cause })
    { t with wgs := t.wgs.map (fun w => if w.phase == .saved && w.launch == l && saving then { w with revoke := [false, true] } else w) }

/-- A cause escalates from a workgroup to its launch (R135, R251, R303). -/
def escalate (g cause : Nat) (s : State) : State := endLaunch (s.wg g).launch cause s

/-! ## Traps (R135, R136) -/

/-- A cause enters the trap handler of a split, or escalates when there is none or the split is in it already (R135): the split, which cannot go on,
is then discarded at once. -/
def enterTrap (i : Nat) (t : Trap) (s : State) : State :=
  let x := s.split i
  let g := s.wgOf i
  if g.tvec == 0 || x.inTrap then escalate (s.wgIdxOf i) (if x.inTrap then 0x02B else t.cause) (discardSplit i s)
  else
    s.modSplit i (fun x =>
      { x with
        tcause := t.cause, tval := t.val, tpc := t.pc, tmr := x.mr
        pprv := x.prv, prv := true, inTrap := true
        mr := 7, pc := g.tvec, lit := none, cons := none, pend := none, phase := .ready })

/-- A cause met at a word (R31): every earlier word of the group completes and has its results written, then the trap is taken.
While results are outstanding the trap waits for them. -/
def raiseAt (i : Nat) (cause val pc : Nat) (s : State) : State :=
  let t : Trap := { cause := cause, val := val, pc := pc }
  if (s.split i).awaiting then s.modSplit i (fun x => { x with lit := none, cons := none, pend := some t, phase := .parked .group })
  else enterTrap i t (commitGroup i s)

/-- A cause precise at the word at the pc: for a LIMM triple the pc is still at the prefix (R35). -/
def raiseHere (i : Nat) (cause val : Nat) (s : State) : State := raiseAt i cause val (s.split i).pc s

/-- Return from a trap (R136). -/
def leaveTrap (i : Nat) (s : State) : State :=
  s.modSplit i (fun x => { x with mr := x.tmr, prv := x.pprv, inTrap := false, pc := x.tpc, lit := none, cons := none })

/-! ## Stops (R123, R133) -/

/-- The stop mask that names every allocated register (R123). -/
def Wg.fullLive (g : Wg) : BitVec 64 := BitVec.ofNat 64 (2 ^ ((g.regs + 7) / 8 * 8) - 1)

/-- Whether a pre-emption stops a split at a word that waits for a condition (R123): HB.WAIT, QPOP, TWAIT, DEP.WAIT, MSIG on a full slot,
the waits of FENCE.REL and FENCE.ACQ, and the retry of a refused request (R240). Every other word waits for what it needs and runs on. -/
def Cond.stops (c : Cond) : Bool :=
  match c with
  | .entryFull _ _ | .rowReady | .time _ | .counterZero _ _ | .signalFree _ | .fence _ _ | .retry _ _ _ _ _ => true
  | _ => false

/-- The first word of a split whose load the home goes on refusing as stale (R240). -/
def State.refusedWord (s : State) (i : Nat) : Option MemReq :=
  s.reqs.foldl (fun b q => match q with
    | .mem r =>
      if r.party == .split i && r.refused && s.stale r.leaf ((r.lanes.map (fun l => l.pa)).headD 0) && b.all (fun o => Nat.blt r.pc o.pc) then some r else b
    | _ => b) none

/-- What becomes of the requests of a word that will be executed again, and of those after it: a refused one is gone, the others complete and reach
nobody. -/
def cutReq (i pc : Nat) (q : Req) : Option Req :=
  match q with
  | .mem r =>
    if r.party == .split i && Nat.ble pc r.pc then (if r.refused then none else some (.mem { r with party := .device, op := .prefetch })) else some q
  | .eng r => some (if r.party == .split i && Nat.ble pc r.pc then .eng { r with party := .device } else q)

/-- Stop a split at a word of its group that it will execute again, once the words before it are complete: their results are written, those of the
word and of later ones are dropped. -/
def stopAtWord (i : Nat) (r : MemReq) (live : BitVec 64) (s : State) : State :=
  let before := (s.split i).held.takeWhile (fun h => h != .mark r.pc)
  if before.any Held.isAwait then s
  else
    let t := commitGroup i ({ s with reqs := s.reqs.filterMap (cutReq i r.pc) }.modSplit i (fun x => { x with held := before, pend := none }))
    t.modSplit i (fun x => { x with pc := r.pc, mr := r.mr, lit := none, cons := none, phase := .stopped none live })

/-- Stop one split of a workgroup that a pre-emption or a cancellation has reached, if it is parked where it may stop: a cancelled one is
discarded; waits of KIND 1, 2 and 4 are kept; a FUSE takes code 7; a word that tests again is left at its address, but not when the event it
waits for has come, for then the wake wins (R18); and so is a load that is refused again and again (R240). -/
def stopParked (i : Nat) (s : State) : State :=
  let x := s.split i
  let g := s.wgOf i
  let live := g.fullLive
  if g.creq.isSome then
    match x.phase with
    | .parked _ => discardSplit i s
    | .stopped _ _ => discardSplit i s
    | .ready => s
  else
    match x.phase with
    | .parked (.retest c) =>
      if x.awaiting || x.woken || !c.stops then s
      else (commitGroup i s).modSplit i (fun y => { y with lit := none, cons := none, phase := .stopped none live })
    | .parked (.genwait t _) =>
      if x.awaiting || Nat.ble t (s.nowOf i) then s
      else (commitGroup i s).modSplit i (fun y => { y with lit := none, cons := none, phase := .stopped none live })
    | .parked (.fuse _ d) =>
      s.modSplit i (fun y => { y.setS (s.warp x.warp).width d (.val 7) with phase := .ready, woken := false, since := (s.die (dieOfCore (s.coreOf i))).cycle })
    | .parked .group =>
      match s.refusedWord i with
      | some r => stopAtWord i r live s
      | none => s
    | .parked w => s.modSplit i (fun y => { y with phase := .stopped (some w) live })
    | _ => s

/-- Whether a context without lanes has nothing left to do. -/
def CtxPhase.quiet (p : CtxPhase) : Bool := p == .idle || p == .ended || p == .halted

/-- A cancelled workgroup is gone once its last party is (R133). -/
def finishCancelled (g : Nat) (s : State) : State :=
  let w := s.wg g
  if w.creq.isSome && w.phase == .running && (s.warpsOf g).isEmpty && w.seq.phase.quiet && w.lspoke.phase.quiet && w.sspoke.phase.quiet &&
      w.entries.all (fun e => e.copy.isNone) && w.revoke.isEmpty then discardWg g s
  else s

/-- Stop what can stop of a workgroup whose pre-emption or cancellation has arrived. -/
def stopSweep (g : Nat) (s : State) : State :=
  if (s.wg g).preq.isSome || (s.wg g).creq.isSome then finishCancelled g (foldState (s.wgSplits g) stopParked s) else s

/-! ## The frame of a word -/

/-- What a word does once its checks are made: results to hold, a cause, or a wait after which it executes again. -/
inductive Out where
  | done (held : List Held)
  | trap (cause val : Nat)
  | wait (c : Cond)
  deriving DecidableEq, Repr

/-- Issue a word of the warp stream for the split that acts: run its body, then hold its results, take its cause, or park. -/
def issueWord (closes : Bool) (body : Nat → State → State × Out) (s : State) : Host.Outcome State Fault Refusal :=
  let i := s.who.split
  let g := s.wgIdxOf i
  match body i s with
  | (t, .done held) => .next (stopSweep g (finishWord i closes held t))
  | (t, .trap c v) => .next (raiseHere i c v t)
  | (t, .wait c) => .next (stopSweep g (parkRetest i c t))

/-- A privileged word: the body runs when the split is privileged, else cause 0x003 and nothing else happens (R40). -/
def privileged (body : Nat → State → State × Out) (i : Nat) (s : State) : State × Out :=
  if (s.split i).prv then body i s else (s, .trap 0x003 0)

/-- The number of registers a workgroup may name: .regs rounded up to a multiple of 8 (R27). -/
def Wg.alloc (g : Wg) : Nat := (g.regs + 7) / 8 * 8

/-- The check of R27 and R132 on the vector registers a word names: 0x004 beyond the allocation; a register of an absent granule
waits for its fill. -/
def withRegs (rs : List Nat) (body : Nat → State → State × Out) (i : Nat) (s : State) : State × Out :=
  if rs.any (fun r => Nat.ble (s.wgOf i).alloc r) then (s, .trap 0x004 0)
  else
    match rs.find? (fun r => (s.warpOf i).absent.getLsbD (r / 8)) with
    | some r => (s, .wait (.granule (r / 8)))
    | none => body i s

end Sys2Proof.Machine
end

