-- ==== Sys2Proof/Machine/Operands.lean ====
section
/-! DEFINITION. Operand forms of the warp stream: the guard and the lanes that execute (R38), vector and scalar sources with the LIMM
literal (R34), last use (R32), memory addresses (R167), and member masks (R109, R161). -/

namespace Sys2Proof.Machine

/-! ## The lanes that execute -/

/-- The lanes in which the guard reads true: MR.GP after MR.GN (R38). -/
def State.guardMask (s : State) (i : Nat) : Mask :=
  let x := s.split i
  let w := s.warpOf i
  let p := predMask (s.wgOf i) w (mrGP x.mr)
  if mrGN x.mr then ~~~p &&& onesMask w.width else p

/-- The width of the split's warp. -/
def State.widthOf (s : State) (i : Nat) : Nat := (s.warpOf i).width

/-- The lanes active in the split. -/
def State.actMask (s : State) (i : Nat) : Mask := (s.split i).act (s.widthOf i)

/-- The lanes in which a word that obeys the guard executes (R38). -/
def State.execMask (s : State) (i : Nat) : Mask := s.actMask i &&& s.guardMask i

/-- A predicate as the split reads it (R11). -/
def State.predOf (s : State) (i p : Nat) : Mask := predMask (s.wgOf i) (s.warpOf i) p

/-! ## Sources -/

/-- A vector source. -/
def State.vsrc (s : State) (i : Nat) (r : BitVec 6) : VReg := (s.warpOf i).reg r.toNat

/-- The vb source: the literal after LIMM (R34). -/
def State.vbsrc (s : State) (i : Nat) (r : BitVec 6) : VReg :=
  match (s.split i).lit with
  | some l => .uniform (.val l)
  | none => s.vsrc i r

/-- The register that vb names, for the check of R27: none after LIMM. -/
def State.vbreg (s : State) (i : Nat) (r : BitVec 6) : List Nat := if (s.split i).lit.isSome then [] else [r.toNat]

/-- A scalar source. -/
def State.ssrc (s : State) (i : Nat) (r : BitVec 5) : PWord := (s.split i).sreg r.toNat

/-- A scalar source in the vb field: the literal after LIMM (R34). -/
def State.sbsrc (s : State) (i : Nat) (r : BitVec 6) : PWord :=
  match (s.split i).lit with
  | some l => .val l
  | none => (s.split i).sreg r.toNat

/-- A 64-bit value in two scalar registers, the low word first. -/
def State.spair (s : State) (i : Nat) (r : Nat) : Option Nat :=
  match (s.split i).sreg r, (s.split i).sreg (r + 1) with
  | .val a, .val b => some (a.toNat + b.toNat * 2 ^ 32)
  | _, _ => none

/-- A 64-bit value in a lane of two vector registers. -/
def State.vpair (s : State) (i r l : Nat) : Option Nat :=
  match ((s.warpOf i).reg r).lane l, ((s.warpOf i).reg (r + 1)).lane l with
  | .val a, .val b => some (a.toNat + b.toNat * 2 ^ 32)
  | _, _ => none

/-- The results that write a 64-bit value into two scalar registers. -/
def pairSet (d v : Nat) : List Held := [.sset d (.val (BitVec.ofNat 32 v)), .sset (d + 1) (.val (BitVec.ofNat 32 (v / 2 ^ 32)))]

/-- Poison into two scalar registers. -/
def pairPoison (d : Nat) : List Held := [.sset d .poison, .sset (d + 1) .poison]

/-- The last-use results of a word in the lanes that execute it (R32). -/
def lastUses (m : Mask) (l : List (Bool × BitVec 6)) : List Held :=
  l.filterMap (fun p => if p.1 then some (.lastUse p.2.toNat m) else none)

/-! ## Addresses (R167) -/

/-- A literal or lane offset sign-extended to 64 bits. -/
def sext64 (w : Word) : Nat := (w.signExtend 64).toNat

/-- The offset operand of a lane: the literal after LIMM, else the address vector. -/
def State.offset (s : State) (i : Nat) (a : BitVec 6) (l : Nat) : PWord :=
  match (s.split i).lit with
  | some k => .val k
  | none => (s.vsrc i a).lane l

/-- The address of a lane with its poison: a poisoned operand reads as its pattern (R33). -/
structure LaneAddr where
  addr : Nat
  poison : Bool
  deriving DecidableEq, Repr

/-- A global address (R167). -/
def State.globalAddr (s : State) (i : Nat) (a : BitVec 6) (b : BitVec 5) (l : Nat) : LaneAddr :=
  if b == 31#5 then
    let lo := (s.vsrc i a).lane l
    let hi := ((s.warpOf i).reg (a.toNat + 1)).lane l
    { addr := lo.bits.toNat + hi.bits.toNat * 2 ^ 32, poison := lo.isPoison || hi.isPoison }
  else
    let lo := (s.split i).sreg b.toNat
    let hi := (s.split i).sreg (b.toNat + 1)
    let o := s.offset i a l
    { addr := (lo.bits.toNat + hi.bits.toNat * 2 ^ 32 + sext64 o.bits) % 2 ^ 64, poison := lo.isPoison || hi.isPoison || o.isPoison }

/-- A scratchpad or constant offset (R167). -/
def State.localAddr (s : State) (i : Nat) (a : BitVec 6) (b : BitVec 5) (l : Nat) : LaneAddr :=
  let o := s.offset i a l
  if b == 31#5 then { addr := o.bits.toNat, poison := o.isPoison }
  else
    let base := (s.split i).sreg b.toNat
    { addr := (base.bits.toNat + o.bits.toNat) % 2 ^ 32, poison := base.isPoison || o.isPoison }

/-- The vector registers an address names (R27). -/
def State.addrRegs (s : State) (i : Nat) (global : Bool) (a : BitVec 6) (b : BitVec 5) : List Nat :=
  if (s.split i).lit.isSome then []
  else if global && b == 31#5 then [a.toNat, a.toNat + 1]
  else [a.toNat]

/-- TVAL of an address reason (R171): the address, and the lane in TVAL_HI [31:25]. -/
def addrVal (addr lane : Nat) : Nat := addr % 2 ^ 57 + lane * 2 ^ 57

/-! ## Member masks (R109, R161) -/

/-- The lanes of a warp that have exited or are absent (R11, R83). -/
def State.goneMask (s : State) (i : Nat) : Mask := (s.warpOf i).exited ||| absentMask (s.wgOf i) (s.warpOf i)

/-- The member mask of a cross-lane word. -/
def State.memberMask (s : State) (i : Nat) (m : Bool) : Mask :=
  let x := s.split i
  let w := s.widthOf i
  if !m then s.actMask i
  else
    let part (k : Nat) : Nat := if Nat.blt k (maskWords w) then ((x.sreg (20 + k)).bits).toNat * 2 ^ (32 * k) else 0
    BitVec.ofNat 128 (part 0 + part 1 + part 2 + part 3) &&& onesMask w

/-- Whether a member mask that a word reads from s20 on is poisoned (R33, R161). -/
def State.memberPoison (s : State) (i : Nat) (m : Bool) : Bool :=
  m && (List.range (maskWords (s.widthOf i))).any (fun k => ((s.split i).sreg (20 + k)).isPoison)

/-- The checks of R109: a missing executing lane that is no helper (0x005), a member that is live outside the split (0x006). -/
def State.memberCheck (s : State) (i : Nat) (mem : Mask) : Option (Nat × Nat) :=
  let helpers := helperMask (s.wgOf i) (s.warpOf i)
  if s.execMask i &&& ~~~helpers &&& ~~~mem != 0 then some (0x005, 0)
  else if mem &&& ~~~(s.actMask i) &&& ~~~(s.goneMask i) &&& onesMask (s.widthOf i) != 0 then some (0x006, 0)
  else none

/-- The lanes that contribute: members that execute (R161). -/
def State.contributors (s : State) (i : Nat) (mem : Mask) : Mask := s.execMask i &&& mem

end Sys2Proof.Machine
end

