-- ==== Sys2Proof/Machine/Flags.lean ====
section
/-! DEFINITION. Every flag computation of the warp stream: what executing lanes compute with their exceptions, the traps of R145, and
the shape of a result (R142, R143). -/

namespace Sys2Proof.Machine

/-- What executing lanes compute, in ascending lane order: lane, result, exceptions. -/
abbrev Rows := List (Nat × PWord × Flags)

/-- One lane of a word: poison when an operand is poisoned, and then it signals nothing (R33, R63, R145). -/
def laneRow (ops : List VReg) (f : List Word → Word × Flags) (l : Nat) : Nat × PWord × Flags :=
  let vs := ops.map (fun r => r.lane l)
  if vs.any PWord.isPoison then (l, .poison, {})
  else
    let r := f (vs.map PWord.bits)
    (l, .val r.1, r.2)

/-- Whether a register is tagged uniform. -/
def VReg.isUniform : VReg → Bool
  | .uniform _ => true
  | _ => false

/-- The enabled exceptions of a set. -/
def enabledOf (mr : Word) (f : Flags) : Nat := Nat.land f.toNat (mrEnables mr)

/-- The traps of R145: poison consumed with MR.PX set (0x043), else an enabled exception (0x042). -/
def trapOf (mr : Word) (rows : Rows) : Option (Nat × Nat) :=
  match (if mrPX mr then rows.find? (fun r => r.2.1.isPoison) else none) with
  | some r => some (0x043, r.1)
  | none =>
    match rows.find? (fun r => enabledOf mr r.2.2 != 0) with
    | some r => some (0x042, enabledOf mr (rows.foldl (fun f q => f.or q.2.2) {}) + r.1 * 256)
    | none => none

/-- A list of lanes from rows in ascending order; the other lanes are never read. -/
def spread : Nat → Nat → Rows → List PWord
  | 0, _, _ => []
  | n + 1, l, [] => .poison :: spread n (l + 1) []
  | n + 1, l, r :: rs => if r.1 == l then r.2.1 :: spread n (l + 1) rs else .poison :: spread n (l + 1) (r :: rs)

/-- The lanes of a predicate result: those whose result is the word 1; poison writes false (R33). -/
def rowBits (rows : Rows) : Mask := BitVec.ofNat 128 (rows.foldl (fun acc r => if r.2.1 == .val 1 then acc + 2 ^ r.1 else acc) 0)

/-- The rows of a word: one row stands for all when every lane of a warp executes it on uniform operands. -/
def State.rowsOf (s : State) (i : Nat) (ops : List VReg) (f : List Word → Word × Flags) : Rows :=
  let w := s.widthOf i
  let m := s.execMask i
  if Nat.blt 0 w && fullMask w m && ops.all VReg.isUniform then [laneRow ops f 0] else (lanesIn w m).map (laneRow ops f)

/-- The result register of rows under R142 and R143, with the affine shape where the word has one. -/
def State.shapeOf (s : State) (i : Nat) (ops : List VReg) (affine : Option VReg) (rows : Rows) : VReg :=
  let w := s.widthOf i
  if fullMask w (s.execMask i) then
    match affine with
    | some a => a
    | none =>
      if ops.all VReg.isUniform then
        match rows with
        | r :: _ => .uniform r.2.1
        | [] => .uniform .poison
      else .general (spread w 0 rows)
  else .general (spread w 0 rows)

/-- A per-lane word with a vector destination (R145). -/
def State.perLane (s : State) (i d : Nat) (kills : List (Bool × BitVec 6)) (ops : List VReg) (affine : Option VReg)
    (f : List Word → Word × Flags) : State × Out :=
  let rows := s.rowsOf i ops f
  match trapOf (s.split i).mr rows with
  | some t => (s, .trap t.1 t.2)
  | none =>
    let m := s.execMask i
    (s, .done (lastUses m kills ++ [.vset d m (s.shapeOf i ops affine rows)]))

/-- A per-lane word with a predicate destination (R149, R150): the result word 1 stands for true. -/
def State.perLanePred (s : State) (i d : Nat) (kills : List (Bool × BitVec 6)) (ops : List VReg)
    (f : List Word → Word × Flags) : State × Out :=
  let m := s.execMask i
  let rows := (lanesIn (s.widthOf i) m).map (laneRow ops f)
  match trapOf (s.split i).mr rows with
  | some t => (s, .trap t.1 t.2)
  | none => (s, .done (lastUses m kills ++ [.pset d m (rowBits rows)]))

/-- The lane that an idle lane recomputes: the first executing one of l ⊕ 1, l ⊕ 2 and l ⊕ 3 (R134). -/
def partnerOf (m : Mask) (l : Nat) : Option Nat := [Nat.xor l 1, Nat.xor l 2, Nat.xor l 3].find? (fun k => m.getLsbD k)

/-- The idle lanes of a warp that check a partner: not those of a quad in which no lane executes, or in which all do (R134). -/
def idleLanes (n : Nat) (m : Mask) : List Nat := (List.range n).filter (fun l => !m.getLsbD l && (partnerOf m l).isSome)

/-- The redundancy check of R134, with MR.LR set: idle lanes recompute their partners, and write nothing. A lane computes what its word says unless a lane
fault is to come (`upset`, which every checked word takes one of); the lowest idle lane that finds a mismatch raises 0x02A with vd and its partner.
A cause of the word itself comes first (DESIGN CHOICE, log entry 63). -/
def laneCheck (d : Nat) (body : Nat → State → State × Out) (i : Nat) (s : State) : State × Out :=
  match body i s with
  | (t, .done held) =>
    let m := s.execMask i
    let idle := idleLanes (s.widthOf i) m
    match (s.core (s.coreOf i)).upset with
    | [] => (t, .done held)
    | bad :: rest =>
      if !mrLR (s.split i).mr || idle.isEmpty then (t, .done held)
      else
        let u := t.modCore (s.coreOf i) (fun c => { c with upset := rest })
        match idle.find? (fun l => bad.getLsbD l) with
        | some l => (u, .trap 0x02A (d * 256 + (partnerOf m l).getD 0))
        | none => (u, .done held)
  | r => r

/-- The check of R144: the word does not accept MR.ET. -/
def typed (ok : ET → Bool) (body : Nat → State → State × Out) (i : Nat) (s : State) : State × Out :=
  if ok (mrET (s.split i).mr) then body i s else (s, .trap 0x041 (s.split i).mr.toNat)

end Sys2Proof.Machine
end

