-- ==== Sys2Proof/Machine/Vector.lean ====
section
/-! DEFINITION. The per-lane and scalar words of the vector engine: majors 0x0C to 0x15 and 0x19 to 0x1F (R141 to R160). -/

namespace Sys2Proof.Machine

/-! ## Affine results (R142) -/

/-- A register as base and stride: none when it is general, `some none` when it is uniform poison. -/
def VReg.aff : VReg → Option (Option (Word × Word))
  | .general _ => none
  | .uniform .poison => some none
  | .uniform (.val u) => some (some (u, 0))
  | .affine b d => some (some (b, d))

/-- An affine register; with stride 0 it is tagged uniform. -/
def mkAff (b d : Word) : VReg := if d == 0 then .uniform (.val b) else .affine b d

/-- The conditions on MR for an affine result of major 0x0C: int32 or uint32, SAT clear. -/
def affOk (mr : Word) : Bool := (mrET mr == .int32 || mrET mr == .uint32) && !mrSAT mr

/-- ADD and SUB of affine or uniform operands, at least one affine. -/
def affAdd (sub : Bool) (mr : Word) (a b : VReg) : Option VReg :=
  if !affOk mr || (a.isUniform && b.isUniform) then none
  else
    match a.aff, b.aff with
    | some (some p), some (some q) => some (if sub then mkAff (p.1 - q.1) (p.2 - q.2) else mkAff (p.1 + q.1) (p.2 + q.2))
    | some _, some _ => some (.uniform .poison)
    | _, _ => none

/-- MUL of an affine operand by a uniform one. -/
def affMul (mr : Word) (a b : VReg) : Option VReg :=
  if !affOk mr then none
  else
    match a, b with
    | .affine p d, .uniform (.val u) => some (mkAff (p * u) (d * u))
    | .uniform (.val u), .affine p d => some (mkAff (p * u) (d * u))
    | .affine _ _, .uniform .poison => some (.uniform .poison)
    | .uniform .poison, .affine _ _ => some (.uniform .poison)
    | _, _ => none

/-- NEG of an affine operand. -/
def affNeg (mr : Word) (a : VReg) : Option VReg :=
  if !affOk mr then none
  else
    match a with
    | .affine b d => some (mkAff (-b) (-d))
    | _ => none

/-- SHL of an affine operand by a uniform amount below 32. -/
def affShl (mr : Word) (a b : VReg) : Option VReg :=
  if !(mrET mr == .int32 || mrET mr == .uint32) then none
  else
    match a, b with
    | .affine p d, .uniform (.val k) => if Nat.blt k.toNat 32 then some (mkAff (p <<< k.toNat) (d <<< k.toNat)) else none
    | .affine _ _, .uniform .poison => some (.uniform .poison)
    | _, _ => none

/-- No affine shape. -/
def affNone (_ : Word) (_ _ : VReg) : Option VReg := none

/-! ## Element functions -/

/-- A list applied to a function of two elements, element by element. -/
def elems2 (t : ET) (f : Nat → Nat → Nat × Flags) (a b : Word) : Word × Flags :=
  let rs := List.zipWith f (t.split a) (t.split b)
  (t.join (rs.map Prod.fst), rs.foldl (fun g r => g.or r.2) {})

/-- A function of one element, element by element. -/
def elems1 (t : ET) (f : Nat → Nat × Flags) (a : Word) : Word × Flags :=
  let rs := (t.split a).map f
  (t.join (rs.map Prod.fst), rs.foldl (fun g r => g.or r.2) {})

/-- A function of three elements, element by element. -/
def elems3 (t : ET) (f : Nat → Nat → Nat → Nat × Flags) (a b c : Word) : Word × Flags :=
  let rs := List.zipWith (fun p z => f p.1 p.2 z) (List.zip (t.split a) (t.split b)) (t.split c)
  (t.join (rs.map Prod.fst), rs.foldl (fun g r => g.or r.2) {})

/-- An exact integer result in the element type: clamped under MR.SAT where the function saturates (R65), then modulo 2^n (R147). -/
def intResult (mr : Word) (saturates : Bool) (x : Int) : Nat × Flags :=
  let t := mrET mr
  let y := if saturates && mrSAT mr then (if x < t.lo then t.lo else if t.hi < x then t.hi else x) else x
  ((y % ((2 ^ t.bits : Nat) : Int)).toNat, {})

/-- An integer function of two elements (R147). -/
def intFn2 (saturates : Bool) (f : Nat → Int → Int → Int) (mr : Word) (ops : List Word) : Word × Flags :=
  let t := mrET mr
  elems2 t (fun a b => intResult mr saturates (f t.bits (t.toInt a) (t.toInt b))) (ops.getD 0 0) (ops.getD 1 0)

/-- An integer function of one element (R147). -/
def intFn1 (saturates : Bool) (f : Int → Int) (mr : Word) (ops : List Word) : Word × Flags :=
  let t := mrET mr
  elems1 t (fun a => intResult mr saturates (f (t.toInt a))) (ops.getD 0 0)

/-- MAD: a b + d (R147). -/
def intMad (mr : Word) (ops : List Word) : Word × Flags :=
  let t := mrET mr
  elems3 t (fun a b d => intResult mr true (t.toInt a * t.toInt b + t.toInt d)) (ops.getD 0 0) (ops.getD 1 0) (ops.getD 2 0)

/-- A function of whole lanes. -/
def laneFn2 (f : Word → Word → Word) (_ : Word) (ops : List Word) : Word × Flags := (f (ops.getD 0 0) (ops.getD 1 0), {})

/-- A function of one whole lane. -/
def laneFn1 (f : Word → Word) (_ : Word) (ops : List Word) : Word × Flags := (f (ops.getD 0 0), {})

/-- SHL of an element: 0 when the amount reaches the width (R148). -/
def shlElem (n a b : Nat) : Nat := if Nat.ble n b then 0 else a * 2 ^ b % 2 ^ n

/-- SHR of an element: sign fill for signed types (R148). -/
def shrElem (signed : Bool) (n a b : Nat) : Nat :=
  let k := min b n
  if signed && Nat.ble (2 ^ (n - 1)) a then (a + (2 ^ n - 1) * 2 ^ n) / 2 ^ k % 2 ^ n else a / 2 ^ k

/-- The number of set bits among the lowest n. -/
def popcount (n a : Nat) : Nat := ((List.range n).filter (fun j => a.testBit j)).length

/-- Leading zero bits of an element of n bits; n for zero (R148). -/
def clzElem (n a : Nat) : Nat := if a == 0 then n else n - 1 - Nat.log2 a

/-- The 32 bits reversed (R148). -/
def bitrevWord (a : Word) : Word :=
  BitVec.ofNat 32 ((List.range 32).foldl (fun acc j => acc * 2 + (a.toNat / 2 ^ j) % 2) 0)

/-- The position and the number of bits of a field operation (R148). -/
def bitFieldOf (b : Word) : Nat × Nat :=
  let p := b.toNat % 32
  (p, min (min (b.toNat / 256 % 64) 32) (32 - p))

/-- FEXT (R148): sign fill for the signed element types. -/
def fextFn (mr : Word) (ops : List Word) : Word × Flags :=
  let (p, m) := bitFieldOf (ops.getD 1 0)
  let f := (ops.getD 0 0).toNat / 2 ^ p % 2 ^ m
  let fill := (mrET mr).signed && m != 0 && Nat.ble (2 ^ (m - 1)) f
  (BitVec.ofNat 32 (if fill then f + (2 ^ 32 - 2 ^ m) else f), {})

/-- FINS: the lowest bits of a replace a field of vd (R148). -/
def finsFn (_ : Word) (ops : List Word) : Word × Flags :=
  let (p, m) := bitFieldOf (ops.getD 1 0)
  let d := (ops.getD 2 0).toNat
  (BitVec.ofNat 32 (d / 2 ^ (p + m) * 2 ^ (p + m) + (ops.getD 0 0).toNat % 2 ^ m * 2 ^ p + d % 2 ^ p), {})

/-- A float function of two elements (R151). -/
def floatFn2 (f : FFmt → FpEnv → FVal → FVal → Nat × Flags) (mr : Word) (ops : List Word) : Word × Flags :=
  let t := mrET mr
  let v := mrEnv mr
  elems2 t (fun a b => f t.fmt v (t.fmt.read v.ftz a) (t.fmt.read v.ftz b)) (ops.getD 0 0) (ops.getD 1 0)

/-- A float function of one element (R151, R153). -/
def floatFn1 (f : FFmt → FpEnv → FVal → Nat × Flags) (mr : Word) (ops : List Word) : Word × Flags :=
  let t := mrET mr
  let v := mrEnv mr
  elems1 t (fun a => f t.fmt v (t.fmt.read v.ftz a)) (ops.getD 0 0)

/-- A fused multiply-add of three elements (R152). -/
def fmaFn (np nc : Bool) (mr : Word) (ops : List Word) : Word × Flags :=
  let t := mrET mr
  let v := mrEnv mr
  elems3 t (fun a b c => t.fmt.fma v np nc (t.fmt.read v.ftz a) (t.fmt.read v.ftz b) (t.fmt.read v.ftz c))
    (ops.getD 0 0) (ops.getD 1 0) (ops.getD 2 0)

/-- Whether a relation holds in every element, or in any (R149). -/
def relWord (any : Bool) (rs : List (Bool × Flags)) : Word × Flags :=
  let b := if any then rs.any Prod.fst else rs.all Prod.fst
  (if b then 1 else 0, rs.foldl (fun g r => g.or r.2) {})

/-- An integer compare (R149). -/
def icmpFn (rel : Nat) (any : Bool) (mr : Word) (ops : List Word) : Word × Flags :=
  let t := mrET mr
  let test (a b : Int) : Bool :=
    match rel with
    | 0 => a == b
    | 1 => a != b
    | 2 => decide (a < b)
    | 3 => decide (a ≤ b)
    | 4 => decide (b < a)
    | _ => decide (b ≤ a)
  relWord any (List.zipWith (fun a b => (test (t.toInt a) (t.toInt b), {})) (t.split (ops.getD 0 0)) (t.split (ops.getD 1 0)))

/-- A float compare (R150). -/
def fcmpFn (rel : Nat) (any : Bool) (mr : Word) (ops : List Word) : Word × Flags :=
  let t := mrET mr
  let ftz := mrFTZ mr
  relWord any (List.zipWith (fun a b => fcompare (FRel.ofCode rel) (t.fmt.read ftz a) (t.fmt.read ftz b))
    (t.split (ops.getD 0 0)) (t.split (ops.getD 1 0)))

/-- FCLASS: a mask of ten bits in each half (R150). -/
def fclassFn (mr : Word) (ops : List Word) : Word × Flags :=
  let t := mrET mr
  (BitVec.ofNat 32 ((t.split (ops.getD 0 0)).foldr (fun x acc => t.fmt.classMask x + acc * 2 ^ 16) 0), {})

/-! ## Conversions (R154, R155) -/

/-- The types of CVT. -/
inductive CvtTy where
  | int (signed : Bool) (bits : Nat)
  | flt (f : FFmt)
  deriving DecidableEq, Repr

/-- The type of a code of CVT; 111 is reserved and never reaches it. -/
def cvtTy (c : Nat) : CvtTy :=
  match c with
  | 0 => .int true 32
  | 1 => .int false 32
  | 2 => .flt .fp32
  | 3 => .flt .fp16
  | 4 => .flt .bf16
  | 5 => .int true 16
  | _ => .int false 16

/-- Bits of a type of CVT. -/
def CvtTy.bits : CvtTy → Nat
  | .int _ n => n
  | .flt f => f.bits

/-- The least value of an integer type. -/
def intLo (signed : Bool) (n : Nat) : Int := if signed then -((2 ^ (n - 1) : Nat) : Int) else 0

/-- The greatest value of an integer type. -/
def intHi (signed : Bool) (n : Nat) : Int := ((if signed then 2 ^ (n - 1) else 2 ^ n : Nat) : Int) - 1

/-- A number of n bits read as its type says. -/
def readInt (signed : Bool) (n x : Nat) : Int :=
  if signed && Nat.ble (2 ^ (n - 1)) x then (x : Int) - ((2 ^ n : Nat) : Int) else (x : Int)

/-- An integer as n bits. -/
def wrapInt (n : Nat) (x : Int) : Nat := (x % ((2 ^ n : Nat) : Int)).toNat

/-- One conversion (R154). -/
def cvtValue (v : FpEnv) (src dst : CvtTy) (x : Nat) : Nat × Flags :=
  match src, dst with
  | .flt f, .flt g => g.convert v (f.read v.ftz x)
  | .flt f, .int sg n => let r := (f.read v.ftz x).toInt v.rm v.sat (intLo sg n) (intHi sg n); (wrapInt n r.1, r.2)
  | .int sg n, .flt g => g.ofInt v (readInt sg n x)
  | .int sg n, .int sh k =>
    let y := readInt sg n x
    let z := if v.sat then (if y < intLo sh k then intLo sh k else if intHi sh k < y then intHi sh k else y) else y
    (wrapInt k z, {})

/-- CVT of a lane: a 16-bit source or destination is half of its register; the other half of vd is kept (R154). -/
def cvtFn (w : CvtF) (mr : Word) (ops : List Word) : Word × Flags :=
  let src := cvtTy w.c.toNat
  let dst := cvtTy w.e.toNat
  let a := (ops.getD 0 0).toNat
  let x := if src.bits == 16 then (if w.h then a / 2 ^ 16 else a % 2 ^ 16) else a
  let r := cvtValue (mrEnv mr) src dst x
  let old := (ops.getD 1 0).toNat
  if dst.bits == 16 then
    (BitVec.ofNat 32 (if w.k then old % 2 ^ 16 + r.1 * 2 ^ 16 else old / 2 ^ 16 * 2 ^ 16 + r.1), r.2)
  else (BitVec.ofNat 32 r.1, r.2)

/-- A narrow type of R155. -/
inductive NarrowTy where
  | flt (f : FFmt)
  | int (bits : Nat)
  deriving DecidableEq, Repr

/-- The narrow type of a code; 111 is reserved and never reaches it. -/
def narrowTy (n : Nat) : NarrowTy :=
  match n with
  | 0 => .flt .e4m3
  | 1 => .flt .e5m2
  | 2 => .flt .e2m3
  | 3 => .flt .e3m2
  | 4 => .flt .e2m1
  | 5 => .int 8
  | _ => .int 4

/-- Bits of a narrow type. -/
def NarrowTy.bits : NarrowTy → Nat
  | .flt f => f.bits
  | .int n => n

/-- A value times a power of two; beyond 2^4096 either way every format and mode gives what it gives at 2^4096. -/
def FVal.scale (a : FVal) (e : Int) : FVal :=
  let k := if e < -4096 then -4096 else if 4096 < e then 4096 else e
  match a with
  | .fin s m q => .fin s m (q + k)
  | x => x

/-- NENC (R155). -/
def nencFn (t : NarrowTy) (mr : Word) (ops : List Word) : Word × Flags :=
  let v := mrEnv mr
  let e := readInt true 32 (ops.getD 1 0).toNat
  let x := (FFmt.fp32.read v.ftz (ops.getD 0 0).toNat).scale (-e)
  match t with
  | .flt f => let r := f.toNarrow v.rm v.sat x; (BitVec.ofNat 32 r.1, r.2)
  | .int n => let r := x.toInt v.rm v.sat (intLo true n) (intHi true n); (BitVec.ofNat 32 (wrapInt n r.1), r.2)

/-- NDEC (R155). -/
def ndecFn (t : NarrowTy) (mr : Word) (ops : List Word) : Word × Flags :=
  let v := mrEnv mr
  let e := readInt true 32 (ops.getD 1 0).toNat
  let c := (ops.getD 0 0).toNat % 2 ^ t.bits
  let y : FVal :=
    match t with
    | .flt f => f.unpack c
    | .int n => let z := readInt true n c; .fin (decide (z < 0)) z.natAbs 0
  match y.scale e with
  | .nan _ => (BitVec.ofNat 32 FFmt.fp32.nan, {})
  | z => let r := FFmt.fp32.convert v z; (BitVec.ofNat 32 r.1, r.2)

/-! ## Frames of the word forms -/

/-- Majors that accept every element type. -/
def anyET (_ : ET) : Bool := true

/-- Majors that accept the float types (R144). -/
def floatET (t : ET) : Bool := !t.isInt

/-- A V3 word on lanes: `rd` says that vd is read as a third operand. -/
def v3Word (w : V3) (ok : ET → Bool) (rd : Bool) (aff : Word → VReg → VReg → Option VReg) (f : Word → List Word → Word × Flags)
    (s : State) : Host.Outcome State Fault Refusal :=
  issueWord w.s (fun i s =>
    withRegs (w.d.toNat :: w.a.toNat :: s.vbreg i w.b) (typed ok (laneCheck w.d.toNat (fun i s =>
      let mr := (s.split i).mr
      let a := s.vsrc i w.a
      let b := s.vbsrc i w.b
      let ops := if rd then [a, b, s.vsrc i w.d] else [a, b]
      s.perLane i w.d.toNat [(w.x, w.a), (w.y, w.b)] ops (aff mr a b) (f mr)))) i s) s

/-- A unary V3 word on lanes. -/
def v2Word (w : V2) (ok : ET → Bool) (aff : Word → VReg → Option VReg) (f : Word → List Word → Word × Flags)
    (s : State) : Host.Outcome State Fault Refusal :=
  issueWord w.s (fun i s =>
    withRegs [w.d.toNat, w.a.toNat] (typed ok (laneCheck w.d.toNat (fun i s =>
      let mr := (s.split i).mr
      let a := s.vsrc i w.a
      s.perLane i w.d.toNat [(w.x, w.a)] [a] (aff mr a) (f mr)))) i s) s

/-- A compare on lanes (R149, R150). -/
def cmpWord (w : CmpF) (ok : ET → Bool) (f : Nat → Bool → Word → List Word → Word × Flags)
    (s : State) : Host.Outcome State Fault Refusal :=
  issueWord w.s (fun i s =>
    withRegs (w.a.toNat :: s.vbreg i w.b) (typed ok (laneCheck w.d.toNat (fun i s =>
      s.perLanePred i w.d.toNat [(w.x, w.a), (w.y, w.b)] [s.vsrc i w.a, s.vbsrc i w.b]
        (f w.r.toNat w.n (s.split i).mr)))) i s) s

/-- A VI word on lanes (R158). -/
def viWord (w : VI) (aff : VReg → Word → Option VReg) (f : Word → Word → Word) (s : State) : Host.Outcome State Fault Refusal :=
  issueWord w.s (fun i s =>
    withRegs [w.d.toNat, w.a.toNat] (laneCheck w.d.toNat (fun i s =>
      let k := w.i.signExtend 32
      let a := s.vsrc i w.a
      s.perLane i w.d.toNat [] [a] (aff a k) (fun ops => (f (ops.getD 0 0) k, {})))) i s) s

/-- A scalar word (R159): once for the split, whatever the guard; poison consumed with MR.PX set is 0x043. -/
def scalarOut (s : State) (i d : Nat) (a b : PWord) (f : Word → Word → Word) : State × Out :=
  match a, b with
  | .val x, .val y => (s, .done [.sset d (.val (f x y))])
  | _, _ => if mrPX (s.split i).mr then (s, .trap 0x043 0) else (s, .done [.sset d .poison])

/-- A word of major 0x19. -/
def scWord (w : Sc3) (f : Word → Word → Word) (s : State) : Host.Outcome State Fault Refusal :=
  issueWord w.s (fun i s => scalarOut s i w.d.toNat (s.ssrc i w.a) (s.sbsrc i w.b) f) s

/-- 1 or 0. -/
def boolWord (b : Bool) : Word := if b then 1 else 0

/-! ## Major 0x0C: integer arithmetic (R147) -/

/-- ADD (R147). -/
def execAdd (w : V3) (s : State) : Host.Outcome State Fault Refusal := v3Word w ET.isInt false (affAdd false) (intFn2 true (fun _ a b => a + b)) s

/-- SUB (R147). -/
def execSub (w : V3) (s : State) : Host.Outcome State Fault Refusal := v3Word w ET.isInt false (affAdd true) (intFn2 true (fun _ a b => a - b)) s

/-- MUL (R147). -/
def execMul (w : V3) (s : State) : Host.Outcome State Fault Refusal := v3Word w ET.isInt false affMul (intFn2 true (fun _ a b => a * b)) s

/-- MULHI (R147): the product over 2^n, rounded down. -/
def execMulhi (w : V3) (s : State) : Host.Outcome State Fault Refusal := v3Word w ET.isInt false affNone (intFn2 false (fun n a b => a * b / ((2 ^ n : Nat) : Int))) s

/-- MIN (R147). -/
def execMin (w : V3) (s : State) : Host.Outcome State Fault Refusal := v3Word w ET.isInt false affNone (intFn2 false (fun _ a b => if a < b then a else b)) s

/-- MAX (R147). -/
def execMax (w : V3) (s : State) : Host.Outcome State Fault Refusal := v3Word w ET.isInt false affNone (intFn2 false (fun _ a b => if a < b then b else a)) s

/-- ABSDIFF (R147): an unsigned pattern, never saturated. -/
def execAbsdiff (w : V3) (s : State) : Host.Outcome State Fault Refusal := v3Word w ET.isInt false affNone (intFn2 false (fun _ a b => ((a - b).natAbs : Int))) s

/-- MAD (R147). -/
def execMad (w : V3) (s : State) : Host.Outcome State Fault Refusal := v3Word w ET.isInt true affNone intMad s

/-- ABS (R147). -/
def execAbs (w : V2) (s : State) : Host.Outcome State Fault Refusal := v2Word w ET.isInt (fun _ _ => none) (intFn1 true (fun a => (a.natAbs : Int))) s

/-- NEG (R147). -/
def execNeg (w : V2) (s : State) : Host.Outcome State Fault Refusal := v2Word w ET.isInt affNeg (intFn1 true (fun a => -a)) s

/-! ## Major 0x0D: logical, shift and bit-field words (R148) -/

/-- AND (R148). -/
def execAnd (w : V3) (s : State) : Host.Outcome State Fault Refusal := v3Word w anyET false affNone (laneFn2 (fun a b => a &&& b)) s

/-- OR (R148). -/
def execOr (w : V3) (s : State) : Host.Outcome State Fault Refusal := v3Word w anyET false affNone (laneFn2 (fun a b => a ||| b)) s

/-- XOR (R148). -/
def execXor (w : V3) (s : State) : Host.Outcome State Fault Refusal := v3Word w anyET false affNone (laneFn2 (fun a b => a ^^^ b)) s

/-- ANDN (R148). -/
def execAndn (w : V3) (s : State) : Host.Outcome State Fault Refusal := v3Word w anyET false affNone (laneFn2 (fun a b => a &&& ~~~b)) s

/-- NOT (R148). -/
def execNot (w : V2) (s : State) : Host.Outcome State Fault Refusal := v2Word w anyET (fun _ _ => none) (laneFn1 (fun a => ~~~a)) s

/-- SHL (R148). -/
def execShl (w : V3) (s : State) : Host.Outcome State Fault Refusal := v3Word w ET.isInt false affShl (fun mr ops => elems2 (mrET mr) (fun a b => (shlElem (mrET mr).bits a b, {})) (ops.getD 0 0) (ops.getD 1 0)) s

/-- SHR (R148). -/
def execShr (w : V3) (s : State) : Host.Outcome State Fault Refusal := v3Word w ET.isInt false affNone (fun mr ops => elems2 (mrET mr) (fun a b => (shrElem (mrET mr).signed (mrET mr).bits a b, {})) (ops.getD 0 0) (ops.getD 1 0)) s

/-- POPC (R148). -/
def execPopc (w : V2) (s : State) : Host.Outcome State Fault Refusal := v2Word w ET.isInt (fun _ _ => none) (fun mr ops => elems1 (mrET mr) (fun a => (popcount (mrET mr).bits a, {})) (ops.getD 0 0)) s

/-- CLZ (R148). -/
def execClz (w : V2) (s : State) : Host.Outcome State Fault Refusal := v2Word w ET.isInt (fun _ _ => none) (fun mr ops => elems1 (mrET mr) (fun a => (clzElem (mrET mr).bits a, {})) (ops.getD 0 0)) s

/-- BITREV (R148). -/
def execBitrev (w : V2) (s : State) : Host.Outcome State Fault Refusal := v2Word w anyET (fun _ _ => none) (laneFn1 bitrevWord) s

/-- FEXT (R148). -/
def execFext (w : V3) (s : State) : Host.Outcome State Fault Refusal := v3Word w anyET false affNone fextFn s

/-- FINS (R148). -/
def execFins (w : V3) (s : State) : Host.Outcome State Fault Refusal := v3Word w anyET true affNone finsFn s

/-! ## Majors 0x0E and 0x0F: compares and classification (R149, R150) -/

/-- ICMP (R149). -/
def execIcmp (w : CmpF) (s : State) : Host.Outcome State Fault Refusal := cmpWord w ET.isInt icmpFn s

/-- FCMP (R150). -/
def execFcmp (w : CmpF) (s : State) : Host.Outcome State Fault Refusal := cmpWord w floatET fcmpFn s

/-- FCLASS (R150). -/
def execFclass (w : V2) (s : State) : Host.Outcome State Fault Refusal := v2Word w floatET (fun _ _ => none) fclassFn s

/-! ## Majors 0x10 to 0x12: float arithmetic (R151 to R153) -/

/-- FADD (R151). -/
def execFadd (w : V3) (s : State) : Host.Outcome State Fault Refusal := v3Word w floatET false affNone (floatFn2 (fun t v a b => t.add v a b)) s

/-- FSUB (R151). -/
def execFsub (w : V3) (s : State) : Host.Outcome State Fault Refusal := v3Word w floatET false affNone (floatFn2 (fun t v a b => t.add v a b.opp)) s

/-- FMUL (R151). -/
def execFmul (w : V3) (s : State) : Host.Outcome State Fault Refusal := v3Word w floatET false affNone (floatFn2 (fun t v a b => t.mul v a b)) s

/-- FDIV (R151). -/
def execFdiv (w : V3) (s : State) : Host.Outcome State Fault Refusal := v3Word w floatET false affNone (floatFn2 (fun t v a b => t.div v a b)) s

/-- FMIN (R151). -/
def execFmin (w : V3) (s : State) : Host.Outcome State Fault Refusal := v3Word w floatET false affNone (floatFn2 (fun t _ a b => t.minmax false a b)) s

/-- FMAX (R151). -/
def execFmax (w : V3) (s : State) : Host.Outcome State Fault Refusal := v3Word w floatET false affNone (floatFn2 (fun t _ a b => t.minmax true a b)) s

/-- FABS (R151). -/
def execFabs (w : V2) (s : State) : Host.Outcome State Fault Refusal := v2Word w floatET (fun _ _ => none) (floatFn1 (fun t _ a => t.setSign (fun _ => false) a)) s

/-- FNEG (R151). -/
def execFneg (w : V2) (s : State) : Host.Outcome State Fault Refusal := v2Word w floatET (fun _ _ => none) (floatFn1 (fun t _ a => t.setSign (fun b => !b) a)) s

/-- FFMA (R152). -/
def execFfma (w : V3) (s : State) : Host.Outcome State Fault Refusal := v3Word w floatET true affNone (fmaFn false false) s

/-- FFMS (R152). -/
def execFfms (w : V3) (s : State) : Host.Outcome State Fault Refusal := v3Word w floatET true affNone (fmaFn false true) s

/-- FFNMA (R152). -/
def execFfnma (w : V3) (s : State) : Host.Outcome State Fault Refusal := v3Word w floatET true affNone (fmaFn true false) s

/-- FFNMS (R152). -/
def execFfnms (w : V3) (s : State) : Host.Outcome State Fault Refusal := v3Word w floatET true affNone (fmaFn true true) s

/-- RCP (R67, R153). -/
def execRcp (w : V2) (s : State) : Host.Outcome State Fault Refusal := v2Word w floatET (fun _ _ => none) (floatFn1 (fun t v a => t.special v .rcp a)) s

/-- RSQ (R67, R153). -/
def execRsq (w : V2) (s : State) : Host.Outcome State Fault Refusal := v2Word w floatET (fun _ _ => none) (floatFn1 (fun t v a => t.special v .rsq a)) s

/-- SQRT (R67, R153). -/
def execSqrt (w : V2) (s : State) : Host.Outcome State Fault Refusal := v2Word w floatET (fun _ _ => none) (floatFn1 (fun t v a => t.special v .sqrt a)) s

/-- EX2 (R67, R153). -/
def execEx2 (w : V2) (s : State) : Host.Outcome State Fault Refusal := v2Word w floatET (fun _ _ => none) (floatFn1 (fun t v a => t.special v .ex2 a)) s

/-- LG2 (R67, R153). -/
def execLg2 (w : V2) (s : State) : Host.Outcome State Fault Refusal := v2Word w floatET (fun _ _ => none) (floatFn1 (fun t v a => t.special v .lg2 a)) s

/-- SIN (R67, R153). -/
def execSin (w : V2) (s : State) : Host.Outcome State Fault Refusal := v2Word w floatET (fun _ _ => none) (floatFn1 (fun t v a => t.special v .sin a)) s

/-- COS (R67, R153). -/
def execCos (w : V2) (s : State) : Host.Outcome State Fault Refusal := v2Word w floatET (fun _ _ => none) (floatFn1 (fun t v a => t.special v .cos a)) s

/-- TANH (R67, R153). -/
def execTanh (w : V2) (s : State) : Host.Outcome State Fault Refusal := v2Word w floatET (fun _ _ => none) (floatFn1 (fun t v a => t.special v .tanh a)) s

/-! ## Majors 0x13 and 0x14: conversions (R154, R155) -/

/-- CVT (R154): vd is read where the destination is half of it. -/
def execCvt (w : CvtF) (s : State) : Host.Outcome State Fault Refusal :=
  issueWord w.s (fun i s =>
    withRegs [w.d.toNat, w.a.toNat] (laneCheck w.d.toNat (fun i s =>
      let ops := if (cvtTy w.e.toNat).bits == 16 then [s.vsrc i w.a, s.vsrc i w.d] else [s.vsrc i w.a]
      s.perLane i w.d.toNat [(w.x, w.a)] ops none (cvtFn w (s.split i).mr))) i s) s

/-- NENC (R155). -/
def execNenc (w : NencF) (s : State) : Host.Outcome State Fault Refusal :=
  issueWord w.s (fun i s =>
    withRegs (w.d.toNat :: w.a.toNat :: s.vbreg i w.b) (laneCheck w.d.toNat (fun i s =>
      s.perLane i w.d.toNat [(w.x, w.a), (w.y, w.b)] [s.vsrc i w.a, s.vbsrc i w.b] none
        (nencFn (narrowTy w.t.toNat) (s.split i).mr))) i s) s

/-- NDEC (R155). -/
def execNdec (w : NencF) (s : State) : Host.Outcome State Fault Refusal :=
  issueWord w.s (fun i s =>
    withRegs (w.d.toNat :: w.a.toNat :: s.vbreg i w.b) (laneCheck w.d.toNat (fun i s =>
      s.perLane i w.d.toNat [(w.x, w.a), (w.y, w.b)] [s.vsrc i w.a, s.vbsrc i w.b] none
        (ndecFn (narrowTy w.t.toNat) (s.split i).mr))) i s) s

/-! ## Major 0x15: select and move (R157) -/

/-- SEL (R157): only the operand that a lane selects matters, its poison too; the tag follows R142. -/
def execSel (w : SelF) (s : State) : Host.Outcome State Fault Refusal :=
  issueWord w.s (fun i s =>
    withRegs (w.d.toNat :: w.a.toNat :: s.vbreg i w.b) (laneCheck w.d.toNat (fun i s =>
      let a := s.vsrc i w.a
      let b := s.vbsrc i w.b
      let p := s.predOf i w.p.toNat
      let n := s.widthOf i
      let m := s.execMask i
      let rows : Rows := (lanesIn n m).map (fun l => laneRow [if p.getLsbD l then a else b] (fun ops => (ops.getD 0 0, {})) l)
      match trapOf (s.split i).mr rows with
      | some t => (s, .trap t.1 t.2)
      | none =>
        let v : VReg :=
          if fullMask n m && a.isUniform && b.isUniform then
            (if fullMask n p || a == b then a else if p &&& onesMask n == 0 then b else .general (spread n 0 rows))
          else .general (spread n 0 rows)
        (s, .done (lastUses m [(w.x, w.a), (w.y, w.b)] ++ [.vset w.d.toNat m v])))) i s) s

/-- MOV (R157): an affine source keeps its shape. -/
def execMov (w : V2) (s : State) : Host.Outcome State Fault Refusal := v2Word w anyET (fun _ a => match a with | .affine b d => some (.affine b d) | _ => none) (laneFn1 (fun a => a)) s

/-- MOVS (R157): a scalar in every executing lane. -/
def execMovs (w : MovsF) (s : State) : Host.Outcome State Fault Refusal :=
  issueWord w.s (fun i s =>
    withRegs [w.d.toNat] (laneCheck w.d.toNat (fun i s =>
      s.perLane i w.d.toNat [] [.uniform (s.ssrc i w.a)] none (fun ops => (ops.getD 0 0, {})))) i s) s

/-- RDLANE (R157): the lowest executing lane, its poison too; with MR.PX set that poison traps. A word of major 0x15, it is checked under MR.LR, with its
scalar's number as vd (R134). -/
def execRdlane (w : RdlaneF) (s : State) : Host.Outcome State Fault Refusal :=
  issueWord w.s (fun i s =>
    withRegs [w.a.toNat] (laneCheck w.d.toNat (fun i s =>
      let m := s.execMask i
      match lowestLane m with
      | none => (s, .done (lastUses m [(w.x, w.a)]))
      | some l =>
        let v := (s.vsrc i w.a).lane l
        if v.isPoison && mrPX (s.split i).mr then (s, .trap 0x043 l)
        else (s, .done (lastUses m [(w.x, w.a)] ++ [.sset w.d.toNat v])))) i s) s

/-! ## Majors 0x1A to 0x1E: immediates (R158) -/

/-- ADDI (R158). -/
def execAddi (w : VI) (s : State) : Host.Outcome State Fault Refusal :=
  viWord w (fun a k => match a with | .affine b d => some (.affine (b + k) d) | _ => none) (fun a k => a + k) s

/-- ANDI (R158). -/
def execAndi (w : VI) (s : State) : Host.Outcome State Fault Refusal := viWord w (fun _ _ => none) (fun a k => a &&& k) s

/-- ORI (R158). -/
def execOri (w : VI) (s : State) : Host.Outcome State Fault Refusal := viWord w (fun _ _ => none) (fun a k => a ||| k) s

/-- XORI (R158). -/
def execXori (w : VI) (s : State) : Host.Outcome State Fault Refusal := viWord w (fun _ _ => none) (fun a k => a ^^^ k) s

/-- MOVI (R158). -/
def execMovi (w : MoviF) (s : State) : Host.Outcome State Fault Refusal :=
  issueWord w.s (fun i s =>
    withRegs [w.d.toNat] (laneCheck w.d.toNat (fun i s => s.perLane i w.d.toNat [] [] none (fun _ => (w.i.signExtend 32, {})))) i s) s

/-! ## Majors 0x19 and 0x1F: uniform scalar words (R159, R160) -/

/-- SADD (R159). -/
def execSadd (w : Sc3) (s : State) : Host.Outcome State Fault Refusal := scWord w (fun a b => a + b) s

/-- SSUB (R159). -/
def execSsub (w : Sc3) (s : State) : Host.Outcome State Fault Refusal := scWord w (fun a b => a - b) s

/-- SMUL (R159). -/
def execSmul (w : Sc3) (s : State) : Host.Outcome State Fault Refusal := scWord w (fun a b => a * b) s

/-- SMULHU (R159). -/
def execSmulhu (w : Sc3) (s : State) : Host.Outcome State Fault Refusal := scWord w (fun a b => BitVec.ofNat 32 (a.toNat * b.toNat / 2 ^ 32)) s

/-- SMULHS (R159). -/
def execSmulhs (w : Sc3) (s : State) : Host.Outcome State Fault Refusal := scWord w (fun a b => BitVec.ofInt 32 (a.toInt * b.toInt / ((2 ^ 32 : Nat) : Int))) s

/-- SAND (R159). -/
def execSand (w : Sc3) (s : State) : Host.Outcome State Fault Refusal := scWord w (fun a b => a &&& b) s

/-- SOR (R159). -/
def execSor (w : Sc3) (s : State) : Host.Outcome State Fault Refusal := scWord w (fun a b => a ||| b) s

/-- SXOR (R159). -/
def execSxor (w : Sc3) (s : State) : Host.Outcome State Fault Refusal := scWord w (fun a b => a ^^^ b) s

/-- SSHL (R159). -/
def execSshl (w : Sc3) (s : State) : Host.Outcome State Fault Refusal := scWord w (fun a b => BitVec.ofNat 32 (shlElem 32 a.toNat b.toNat)) s

/-- SSHR (R159). -/
def execSshr (w : Sc3) (s : State) : Host.Outcome State Fault Refusal := scWord w (fun a b => BitVec.ofNat 32 (shrElem false 32 a.toNat b.toNat)) s

/-- SSRA (R159). -/
def execSsra (w : Sc3) (s : State) : Host.Outcome State Fault Refusal := scWord w (fun a b => BitVec.ofNat 32 (shrElem true 32 a.toNat b.toNat)) s

/-- SMINU (R159). -/
def execSminu (w : Sc3) (s : State) : Host.Outcome State Fault Refusal := scWord w (fun a b => if a.ult b then a else b) s

/-- SMAXU (R159). -/
def execSmaxu (w : Sc3) (s : State) : Host.Outcome State Fault Refusal := scWord w (fun a b => if a.ult b then b else a) s

/-- SMINS (R159). -/
def execSmins (w : Sc3) (s : State) : Host.Outcome State Fault Refusal := scWord w (fun a b => if a.slt b then a else b) s

/-- SMAXS (R159). -/
def execSmaxs (w : Sc3) (s : State) : Host.Outcome State Fault Refusal := scWord w (fun a b => if a.slt b then b else a) s

/-- SSEQ (R159). -/
def execSseq (w : Sc3) (s : State) : Host.Outcome State Fault Refusal := scWord w (fun a b => boolWord (a == b)) s

/-- SSLTU (R159). -/
def execSsltu (w : Sc3) (s : State) : Host.Outcome State Fault Refusal := scWord w (fun a b => boolWord (a.ult b)) s

/-- SSLTS (R159). -/
def execSslts (w : Sc3) (s : State) : Host.Outcome State Fault Refusal := scWord w (fun a b => boolWord (a.slt b)) s

/-- SADDI (R160). -/
def execSaddi (w : SaddiF) (s : State) : Host.Outcome State Fault Refusal :=
  issueWord w.s (fun i s => scalarOut s i w.d.toNat (s.ssrc i w.a) (.val (w.i.signExtend 32)) (fun a b => a + b)) s

end Sys2Proof.Machine
end

