-- ==== Sys2Proof/Machine/CrossLane.lean ====
section
/-! DEFINITION. Cross-lane words: PACK and UNPACK (R156), quad exchange and shuffles (R162), votes and matches (R163), reductions and
scans (R164), under the member masks of R109 and R161. -/

namespace Sys2Proof.Machine

/-- A cross-lane word: the member checks before any lane writes, and before the checks of its operands (DESIGN CHOICE, log entry 63), then the body with
the contributing lanes. A poisoned member mask makes what the executing lanes write poison, which `dead` says, or traps with MR.PX set where `px` does
(R33); the TVAL of that trap, which has no poisoned lane to name, is 0, as of a scalar word (R165; DESIGN CHOICE, log entry 63). -/
def crossWord (m px : Bool) (dead : Nat → State → List Held) (body : Mask → Nat → State → State × Out) (i : Nat) (s : State) : State × Out :=
  let mem := s.memberMask i m
  if s.memberPoison i m && s.execMask i != 0 then
    if px && mrPX (s.split i).mr then (s, .trap 0x043 0) else (s, .done (dead i s))
  else
    match s.memberCheck i mem with
    | some t => (s, .trap t.1 t.2)
    | none => body (s.contributors i mem) i s

/-- Poison in the executing lanes of vd. -/
def deadReg (d : Nat) (kills : List (Bool × BitVec 6)) (i : Nat) (s : State) : List Held :=
  lastUses (s.execMask i) kills ++ [.vset d (s.execMask i) (.general (List.replicate (s.widthOf i) .poison))]

/-- Poison from a reduction: uniform where every lane executes (R142, R164). -/
def deadRedux (d : Nat) (kills : List (Bool × BitVec 6)) (i : Nat) (s : State) : List Held :=
  if fullMask (s.widthOf i) (s.execMask i) then lastUses (s.execMask i) kills ++ [.vset d (s.execMask i) (.uniform .poison)] else deadReg d kills i s

/-- False in the executing lanes of pD. -/
def deadPred (d : Nat) (i : Nat) (s : State) : List Held := [.pset d (s.execMask i) 0]

/-- Poison in the scalars of a mask of the warp. -/
def deadMask (d : Nat) (i : Nat) (s : State) : List Held := (List.range (maskWords (s.widthOf i))).map (fun k => .sset (d + k) .poison)

/-- Poison consumed with MR.PX set: the lowest of the lanes that were poisoned (R161, R165). -/
def pxTrap (mr : Word) (lanes : List Nat) : Option (Nat × Nat) :=
  match lanes with
  | [] => none
  | l :: ls => if mrPX mr then some (0x043, ls.foldl min l) else none

/-- Hold a general result of the executing lanes, or take the poison trap. -/
def crossDone (s : State) (i d : Nat) (kills : List (Bool × BitVec 6)) (poisoned : List Nat) (rows : Rows) : State × Out :=
  match pxTrap (s.split i).mr poisoned with
  | some t => (s, .trap t.1 t.2)
  | none =>
    let m := s.execMask i
    (s, .done (lastUses m kills ++ [.vset d m (.general (spread (s.widthOf i) 0 rows))]))

/-! ## PACK and UNPACK (R156) -/

/-- The element width of a code; 110 and 111 are reserved and never reach it. -/
def packBits (c : Nat) : Nat :=
  match c with
  | 0 => 2
  | 1 => 3
  | 2 => 4
  | 3 => 6
  | 4 => 8
  | _ => 16

/-- The words that an element of a packed string lies in. -/
def wordsOfElem (l b : Nat) : List Nat := if l * b / 32 == (l * b + b - 1) / 32 then [l * b / 32] else [l * b / 32, (l * b + b - 1) / 32]

/-- PACK (R156): the bit string of R73 from the contributing lanes. -/
def packBody (w : PackF) (con : Mask) (i : Nat) (s : State) : State × Out :=
  let n := s.widthOf i
  let b := packBits w.w.toNat
  let va := s.vsrc i w.a
  let lanes := lanesIn n con
  let str := lanes.foldl (fun acc l => acc + (va.lane l).bits.toNat % 2 ^ b * 2 ^ (l * b)) 0
  let bad := lanes.filter (fun l => (va.lane l).isPoison)
  let words := (n * b + 31) / 32
  let rows : Rows := (lanesIn n (s.execMask i)).map (fun j =>
    if Nat.blt j words then
      (if bad.any (fun l => (wordsOfElem l b).contains j) then (j, .poison, {}) else (j, .val (BitVec.ofNat 32 (str / 2 ^ (32 * j))), {}))
    else (j, .val 0, {}))
  crossDone s i w.d.toNat [(w.x, w.a)] bad rows

/-- UNPACK (R156): an element whose word no contributing lane supplies is poison. -/
def unpackBody (w : PackF) (con : Mask) (i : Nat) (s : State) : State × Out :=
  let n := s.widthOf i
  let b := packBits w.w.toNat
  let va := s.vsrc i w.a
  let lanes := lanesIn n (s.execMask i)
  let bad := lanes.flatMap (fun l =>
    let ws := wordsOfElem l b
    ws.filter (fun j => con.getLsbD j && (va.lane j).isPoison))
  let rows : Rows := lanes.map (fun l =>
    let ws := wordsOfElem l b
    if ws.all (fun j => con.getLsbD j && !(va.lane j).isPoison) then
      let x := ws.foldr (fun j acc => (va.lane j).bits.toNat + acc * 2 ^ 32) 0
      (l, .val (BitVec.ofNat 32 (x / 2 ^ (l * b % 32) % 2 ^ b)), {})
    else (l, .poison, {}))
  crossDone s i w.d.toNat [(w.x, w.a)] bad rows

/-- PACK (R156). -/
def execPack (w : PackF) (s : State) : Host.Outcome State Fault Refusal :=
  issueWord w.s (fun i s => withRegs [w.d.toNat, w.a.toNat] (crossWord w.m true (deadReg w.d.toNat [(w.x, w.a)]) (packBody w)) i s) s

/-- UNPACK (R156). -/
def execUnpack (w : PackF) (s : State) : Host.Outcome State Fault Refusal :=
  issueWord w.s (fun i s => withRegs [w.d.toNat, w.a.toNat] (crossWord w.m true (deadReg w.d.toNat [(w.x, w.a)]) (unpackBody w)) i s) s

/-! ## QXCH and SHFL (R162) -/

/-- An exchange: each executing lane reads va of its source lane; a source that does not contribute gives poison that is not
consumed (R161). `src` answers none where vb of the lane is poisoned. -/
def exchange (d : Nat) (kills : List (Bool × BitVec 6)) (va : VReg) (src : Nat → Option Nat) (con : Mask) (i : Nat) (s : State) :
    State × Out :=
  let lanes := lanesIn (s.widthOf i) (s.execMask i)
  let bad := lanes.filterMap (fun l =>
    match src l with
    | none => some l
    | some k => if con.getLsbD k && (va.lane k).isPoison then some k else none)
  let rows : Rows := lanes.map (fun l =>
    match src l with
    | none => (l, .poison, {})
    | some k => (l, if con.getLsbD k then va.lane k else .poison, {}))
  crossDone s i d kills bad rows

/-- QXCH with a fixed partner. -/
def qxchFixed (w : V2M) (k : Nat) (s : State) : Host.Outcome State Fault Refusal :=
  issueWord w.s (fun i s => withRegs [w.d.toNat, w.a.toNat]
    (crossWord w.m true (deadReg w.d.toNat [(w.x, w.a)]) (fun con i s =>
      exchange w.d.toNat [(w.x, w.a)] (s.vsrc i w.a) (fun l => some (Nat.xor l k)) con i s)) i s) s

/-- QXCH.x1 (R162). -/
def execQxchX1 (w : V2M) (s : State) : Host.Outcome State Fault Refusal := qxchFixed w 1 s

/-- QXCH.x2 (R162). -/
def execQxchX2 (w : V2M) (s : State) : Host.Outcome State Fault Refusal := qxchFixed w 2 s

/-- QXCH.x3 (R162). -/
def execQxchX3 (w : V2M) (s : State) : Host.Outcome State Fault Refusal := qxchFixed w 3 s

/-- An exchange whose source lane is computed from vb of the lane: width, lane, vb. -/
def shuffle (w : V3M) (f : Nat → Nat → Nat → Nat) (s : State) : Host.Outcome State Fault Refusal :=
  issueWord w.s (fun i s => withRegs (w.d.toNat :: w.a.toNat :: s.vbreg i w.b)
    (crossWord w.m true (deadReg w.d.toNat [(w.x, w.a), (w.y, w.b)]) (fun con i s =>
      let vb := s.vbsrc i w.b
      let src (l : Nat) : Option Nat :=
        match vb.lane l with
        | .val x => some (f (s.widthOf i) l x.toNat)
        | .poison => none
      exchange w.d.toNat [(w.x, w.a), (w.y, w.b)] (s.vsrc i w.a) src con i s)) i s) s

/-- QXCH with a register (R162). -/
def execQxch (w : V3M) (s : State) : Host.Outcome State Fault Refusal := shuffle w (fun _ l b => l / 4 * 4 + b % 4) s

/-- SHFL.from (R162). -/
def execShflFrom (w : V3M) (s : State) : Host.Outcome State Fault Refusal := shuffle w (fun n _ b => b % n) s

/-- SHFL.back (R162). -/
def execShflBack (w : V3M) (s : State) : Host.Outcome State Fault Refusal := shuffle w (fun n l b => (l + (n - b % n)) % n) s

/-- SHFL.ahead (R162). -/
def execShflAhead (w : V3M) (s : State) : Host.Outcome State Fault Refusal := shuffle w (fun n l b => (l + b) % n) s

/-- SHFL.flip (R162). -/
def execShflFlip (w : V3M) (s : State) : Host.Outcome State Fault Refusal := shuffle w (fun n l b => Nat.xor l (b % n)) s

/-! ## Votes and matches (R163) -/

/-- A vote: one truth value in every executing lane, from pA over the contributing lanes. -/
def voteBody (w : VoteF) (f : Mask → Mask → Bool) (con : Mask) (i : Nat) (s : State) : State × Out :=
  let b := f con (s.predOf i w.a.toNat)
  (s, .done [.pset w.d.toNat (s.execMask i) (if b then onesMask (s.widthOf i) else 0)])

/-- VOTE.AND (R163). -/
def execVoteAnd (w : VoteF) (s : State) : Host.Outcome State Fault Refusal :=
  issueWord w.s (crossWord w.m true (deadPred w.d.toNat) (voteBody w (fun con p => con &&& ~~~p == 0))) s

/-- VOTE.OR (R163). -/
def execVoteOr (w : VoteF) (s : State) : Host.Outcome State Fault Refusal :=
  issueWord w.s (crossWord w.m true (deadPred w.d.toNat) (voteBody w (fun con p => con &&& p != 0))) s

/-- VOTE.SAME (R163). -/
def execVoteSame (w : VoteF) (s : State) : Host.Outcome State Fault Refusal :=
  issueWord w.s (crossWord w.m true (deadPred w.d.toNat) (voteBody w (fun con p => con &&& ~~~p == 0 || con &&& p == 0))) s

/-- The scalar results that hold a mask of the warp (R163). -/
def maskSets (n d : Nat) (m : Mask) : List Held :=
  (List.range (maskWords n)).map (fun k => .sset (d + k) (.val (BitVec.ofNat 32 (m.toNat / 2 ^ (32 * k)))))

/-- A mask result (R163). -/
def maskDone (s : State) (i d : Nat) (m : Mask) (more : List Held) : State × Out :=
  (s, .done (more ++ maskSets (s.widthOf i) d (m &&& onesMask (s.widthOf i))))

/-- A word whose mask result must end by s27 at this width (R163); the test precedes the member checks (DESIGN CHOICE, log entry 63). -/
def spanned (d : Nat) (body : Nat → State → State × Out) (i : Nat) (s : State) : State × Out :=
  if Nat.blt 28 (d + maskWords (s.widthOf i)) then (s, .trap 0x044 (s.widthOf i)) else body i s

/-- BALLOT (R163). -/
def execBallot (w : BallotF) (s : State) : Host.Outcome State Fault Refusal :=
  issueWord w.s (spanned w.d.toNat (crossWord w.m true (deadMask w.d.toNat) (fun con i s => maskDone s i w.d.toNat (con &&& s.predOf i w.a.toNat) []))) s

/-- MATCH (R163): a poisoned lane neither leads nor matches. -/
def execMatchAny (w : MatchF) (s : State) : Host.Outcome State Fault Refusal :=
  issueWord w.s (fun i s => withRegs [w.a.toNat] (spanned w.d.toNat (crossWord w.m false (fun i s => lastUses (s.execMask i) [(w.x, w.a)] ++ deadPred w.e.toNat i s ++ deadMask w.d.toNat i s) (fun con i s =>
    let n := s.widthOf i
    let va := s.vsrc i w.a
    let lanes := (lanesIn n con).filter (fun l => !(va.lane l).isPoison)
    let hit : Mask :=
      match lanes with
      | [] => 0
      | l :: _ => BitVec.ofNat 128 (lanes.foldl (fun acc k => if va.lane k == va.lane l then acc + 2 ^ k else acc) 0)
    let m := s.execMask i
    maskDone s i w.d.toNat hit (lastUses m [(w.x, w.a)] ++ [.pset w.e.toNat m hit])))) i s) s

/-! ## Reductions and scans (R164) -/

/-- The identity of an operation of R113 and R164. -/
def foldIdentity (op : Nat) : Word :=
  match op with
  | 1 => 0xFFFFFFFF
  | 3 => 0x7FFFFFFF
  | 4 => 0x80000000
  | 5 => 0xFFFFFFFF
  | 7 => 0x80000000
  | _ => 0

/-- Two terms combined under an integer operation of R164. -/
def foldInt (op : Nat) (a b : Word) : Word :=
  match op with
  | 0 => a + b
  | 1 => if a.ult b then a else b
  | 2 => if a.ult b then b else a
  | 3 => if a.slt b then a else b
  | 4 => if a.slt b then b else a
  | 5 => a &&& b
  | _ => a ||| b

/-- The combination of a list of terms in ascending lane order (R164). -/
def foldTerms (mr : Word) (op : Nat) (ts : List Word) : Word × Flags :=
  if op == 7 then
    let v : FpEnv := { rm := mrRM mr, sat := false, ftz := mrFTZ mr }
    let r := sumFp32 v (ts.map (fun t => FFmt.fp32.read v.ftz t.toNat))
    (BitVec.ofNat 32 r.1, r.2)
  else (ts.foldl (foldInt op) (foldIdentity op), {})

/-- The terms of lanes 0 to n - 1: the identity where a lane does not contribute. -/
def foldInputs (va : VReg) (con : Mask) (op n : Nat) : List Word :=
  (List.range n).map (fun l => if con.getLsbD l then (va.lane l).bits else foldIdentity op)

/-- REDUX: one value for every executing lane. -/
def reduxBody (w : ReduxF) (con : Mask) (i : Nat) (s : State) : State × Out :=
  let n := s.widthOf i
  let mr := (s.split i).mr
  let va := s.vsrc i w.a
  let m := s.execMask i
  let lanes := lanesIn n m
  let bad := (lanesIn n con).find? (fun l => (va.lane l).isPoison)
  let held (u : PWord) : List Held := lastUses m [(w.x, w.a)] ++ [.vset w.d.toNat m (if fullMask n m then .uniform u else .general (List.replicate n u))]
  match bad with
  | some l => if mrPX mr && !lanes.isEmpty then (s, .trap 0x043 l) else (s, .done (held .poison))
  | none =>
    let r := foldTerms mr w.o.toNat (foldInputs va con w.o.toNat n)
    match trapOf mr ((lanes.take 1).map (fun l => (l, .val r.1, r.2))) with
    | some t => (s, .trap t.1 t.2)
    | none => (s, .done (held (.val r.1)))

/-- SCAN: in each executing lane the combination over the lanes up to it. -/
def scanBody (w : ReduxF) (con : Mask) (i : Nat) (s : State) : State × Out :=
  let n := s.widthOf i
  let mr := (s.split i).mr
  let va := s.vsrc i w.a
  let lanes := lanesIn n (s.execMask i)
  let bad := (lanesIn n con).find? (fun l => (va.lane l).isPoison)
  let reach (l : Nat) : Bool :=
    match bad with
    | some b => Nat.ble b l
    | none => false
  let terms := foldInputs va con w.o.toNat n
  let rows : Rows := lanes.map (fun l =>
    if reach l then (l, .poison, {})
    else
      let r := foldTerms mr w.o.toNat (terms.take (l + 1))
      (l, .val r.1, r.2))
  let px : Option (Nat × Nat) :=
    match bad with
    | some b => if mrPX mr && lanes.any reach then some (0x043, b) else none
    | none => none
  match px with
  | some t => (s, .trap t.1 t.2)
  | none =>
    match trapOf mr (rows.filter (fun r => !r.2.1.isPoison)) with
    | some t => (s, .trap t.1 t.2)
    | none =>
      let m := s.execMask i
      (s, .done (lastUses m [(w.x, w.a)] ++ [.vset w.d.toNat m (.general (spread n 0 rows))]))

/-- REDUX (R164). -/
def execRedux (w : ReduxF) (s : State) : Host.Outcome State Fault Refusal :=
  issueWord w.s (fun i s => withRegs [w.d.toNat, w.a.toNat] (crossWord w.m true (deadRedux w.d.toNat [(w.x, w.a)]) (reduxBody w)) i s) s

/-- SCAN (R164). -/
def execScan (w : ReduxF) (s : State) : Host.Outcome State Fault Refusal :=
  issueWord w.s (fun i s => withRegs [w.d.toNat, w.a.toNat] (crossWord w.m true (deadReg w.d.toNat [(w.x, w.a)]) (scanBody w)) i s) s

end Sys2Proof.Machine
end

