-- ==== Sys2Proof/Machine/Formats.lean ====
section
/-! DEFINITION. The operand formats of the matrix engine (R68 to R73, R257, R259), accumulation (R78 to R80), and the conversions of MST
(R265). -/

namespace Sys2Proof.Machine

/-- The multiplier class of a format: 0 for 32-bit down to 3 for 4-bit; none for "A's class" (R68). -/
def fmtClass (c : Nat) : Option Nat :=
  match c with
  | 0 => some 0
  | 1 | 2 | 3 | 31 => some 1
  | 4 | 5 | 6 | 7 | 9 | 10 | 14 | 15 | 16 | 17 | 19 | 21 | 26 | 28 => some 2
  | 8 | 11 | 12 | 13 | 18 | 20 | 27 => some 3
  | _ => none

/-- The stored size of an element in bits (R68). -/
def fmtBits (c : Nat) : Nat :=
  match c with
  | 0 | 3 => 32
  | 1 | 2 | 31 => 16
  | 4 | 5 | 9 | 10 | 14 | 15 | 19 | 26 | 28 => 8
  | 6 | 7 | 16 | 17 | 21 => 6
  | 8 | 11 | 12 | 18 | 20 | 22 | 23 | 24 | 27 | 29 => 4
  | 30 => 3
  | _ => 2

/-- Whether a format is 2:4-sparse. -/
def fmtSparse (c : Nat) : Bool := c == 26 || c == 27 || c == 28

/-- The elements a block scale covers, and the bytes of one block entry (R68, R259); 0 for a format without blocks. -/
def fmtBlock (c : Nat) : Nat × Nat :=
  match c with
  | 14 | 15 | 16 | 17 | 18 | 19 => (32, 1)
  | 20 | 21 => (16, 1)
  | 22 => (16, 2)
  | 23 => (32, 4)
  | 24 => (128, 4)
  | 25 => (64, 4)
  | 29 => (128, 32)
  | 30 => (64, 16)
  | _ => (0, 0)

/-- Whether a code is legal only for B (R72). -/
def fmtOnlyB (c : Nat) : Bool := Nat.ble 22 c && Nat.ble c 30

/-- K of a class for dense operands (R72). -/
def kDense (cls : Nat) : Nat := [24, 48, 96, 192].getD cls 24

/-- The group size of a class (R72). -/
def groupSize (cls : Nat) : Nat := [8, 16, 32, 32].getD cls 8

/-- The class of an MMA and its K (R72, R260); none for a pairing that R260 excludes. -/
def mmaShape (fa fb : Nat) : Option (Nat × Nat) :=
  match fmtClass fa with
  | none => none
  | some ca =>
    if fmtOnlyB fa then none
    else
      let cb := (fmtClass fb).getD ca
      if fmtSparse fb then (if Nat.blt ca cb then none else some (cb, 2 * kDense cb))
      else some (min ca cb, kDense (min ca cb))

/-- Whether accumulation is integer (R80). -/
def intFormat (c : Nat) : Bool := (Nat.ble 9 c && Nat.ble c 13) || c == 28 || c == 31

/-- Bytes that n elements of b bits take (R73). -/
def packedBytes (n b : Nat) : Nat := (n * b + 7) / 8

/-- The blocks of k elements. -/
def blockCount (c k : Nat) : Nat := if (fmtBlock c).1 == 0 then 0 else (k + (fmtBlock c).1 - 1) / (fmtBlock c).1

/-- The bytes of a panel row (R257). -/
def panelRecord (fa kp : Nat) : Nat := packedBytes kp (fmtBits fa) + blockCount fa kp * (fmtBlock fa).2

/-- The stored elements of a B column (R259). -/
def storedK (fb k : Nat) : Nat := if fmtSparse fb then k / 2 else k

/-- The bytes of a column's data and of its index (R259). -/
def columnParts (fb k : Nat) : Nat × Nat :=
  (packedBytes (storedK fb k) (fmtBits fb), if fmtSparse fb then packedBytes (k / 4) 4 else 0)

/-- The bytes of a column record, padded to a multiple of 4 (R259). -/
def columnRecord (fb k : Nat) : Nat :=
  let p := columnParts fb k
  (p.1 + p.2 + blockCount fb k * (fmtBlock fb).2 + 3) / 4 * 4

/-! ## Decoding (R68 to R71) -/

/-- An integer as an exact value. The integer 0, and q − z = 0, is taken as +0 (R79 gives it no sign; DESIGN CHOICE, log entry 67). -/
def FVal.ofInt (n : Int) (e : Int) : FVal := .fin (decide (n < 0)) n.natAbs e

/-- A value of b bits in two's complement. -/
def signedOf (b x : Nat) : Int := if Nat.ble (2 ^ (b - 1)) x then (x : Int) - ((2 ^ b : Nat) : Int) else (x : Int)

/-- An element of a format by its bits, before any block scale (R68, R70). -/
def elemValue (c x : Nat) : FVal :=
  match c with
  | 0 => FFmt.fp32.unpack x
  | 1 => FFmt.bf16.unpack x
  | 2 => FFmt.fp16.unpack x
  | 3 => FFmt.e8m10.unpack (x / 2 ^ 13)
  | 4 | 14 | 26 => FFmt.e4m3.unpack x
  | 5 | 15 => FFmt.e5m2.unpack x
  | 6 | 16 | 21 => FFmt.e2m3.unpack x
  | 7 | 17 => FFmt.e3m2.unpack x
  | 8 | 18 | 20 | 27 => FFmt.e2m1.unpack x
  | 9 | 28 => .ofInt (signedOf 8 x) 0
  | 11 | 22 => .ofInt (signedOf 4 x) 0
  | 13 => if x == 1 then .fin false 1 0 else if x == 3 then .fin true 1 0 else .fin false 0 0
  | 19 => .ofInt (signedOf 8 x) (-6)
  | 31 => .ofInt (signedOf 16 x) 0
  | _ => .fin false x 0

/-- An exact product; a zero times an infinity is NaN (R69, R79). -/
def FVal.times (a b : FVal) : FVal :=
  match a, b with
  | .nan _, _ => .nan false
  | _, .nan _ => .nan false
  | .fin s m e, .fin t n f => .fin (s != t) (m * n) (e + f)
  | .inf s, .inf t => .inf (s != t)
  | .inf s, .fin t n _ => if n == 0 then .nan false else .inf (s != t)
  | .fin s m _, .inf t => if m == 0 then .nan false else .inf (s != t)

/-- The exact difference of an unsigned integer and a zero point (R69). -/
def qMinus (q : Nat) (z : FVal) : FVal :=
  match z with
  | .nan _ => .nan false
  | .inf s => .inf (!s)
  | .fin _ _ _ => let d := Dy.add { n := q, e := 0 } z.dy.neg; .ofInt d.n d.e

/-- An element with its block's entry (R69, R70): the entry as a little-endian number. -/
def scaled (c x entry : Nat) : FVal :=
  match c with
  | 14 | 15 | 16 | 17 | 18 | 19 => if entry == 255 then .nan false else (elemValue c x).times (.fin false 1 ((entry : Int) - 127))
  | 20 | 21 => (FFmt.e4m3.unpack entry).times (elemValue c x)
  | 22 => (FFmt.fp16.unpack entry).times (elemValue c x)
  | 23 | 24 | 25 =>
    let s := FFmt.bf16.unpack (entry % 65536)
    let z := FFmt.bf16.unpack (entry / 65536)
    if s.isNan || z.isNan || (z.isInf && s.isZero) then .nan false else s.times (qMinus x z)
  | 29 | 30 => FFmt.fp16.unpack (entry / 2 ^ (16 * x) % 65536)
  | _ => elemValue c x

/-- Element k of a packed array given as one number (R73). -/
def packedAt (data b k : Nat) : Nat := data / 2 ^ (b * k) % 2 ^ b

/-- The values of a panel row's first k elements (R257). -/
def panelValues (fa kp k : Nat) (row : List Byte) : List FVal :=
  let b := fmtBits fa
  let n := packedBytes kp b
  let data := natOfBytes (row.take n)
  let blk := fmtBlock fa
  (List.range k).map (fun j => scaled fa (packedAt data b j) (natOfBytes ((row.drop (n + j / blk.1 * blk.2)).take blk.2)))

/-- Where the index nibbles of a column are out of order (R71, R261): the byte offset within the record. -/
def badNibble (fb k : Nat) (rec_ : List Byte) : Option Nat :=
  let p := columnParts fb k
  if fmtSparse fb then
    let data := natOfBytes ((rec_.drop p.1).take p.2)
    ((List.range (k / 4)).find? (fun r => let x := packedAt data 4 r; Nat.ble (x / 4) (x % 4))).map (fun r => p.1 + r / 2)
  else none

/-- The values of a column's k elements (R71, R259). An empty position of a sparse B is taken as +0, whose product has the sign of A (R78 gives that zero
no sign; DESIGN CHOICE, log entry 67). -/
def columnValues (fb k : Nat) (rec_ : List Byte) : List FVal :=
  let b := fmtBits fb
  let p := columnParts fb k
  let data := natOfBytes (rec_.take p.1)
  if fmtSparse fb then
    let idx := natOfBytes ((rec_.drop p.1).take p.2)
    (List.range k).map (fun j =>
      let x := packedAt idx 4 (j / 4)
      if x % 4 == j % 4 then elemValue fb (packedAt data b (j / 4 * 2))
      else if x / 4 == j % 4 then elemValue fb (packedAt data b (j / 4 * 2 + 1))
      else .fin false 0 0)
  else
    let blk := fmtBlock fb
    (List.range k).map (fun j => scaled fb (packedAt data b j) (natOfBytes ((rec_.drop (p.1 + p.2 + j / blk.1 * blk.2)).take blk.2)))

/-! ## Accumulation (R78 to R80) -/

/-- The products of two rows in groups of g. -/
def groupsOf {α : Type} (g : Nat) : Nat → List α → List (List α)
  | 0, _ => []
  | n + 1, l => l.take g :: groupsOf g n (l.drop g)

/-- Float accumulation of one element (R78, R79). -/
def accumFloat (g : Nat) (acc : Word) (a b : List FVal) : Word :=
  let ps := a.zipWith FVal.times b
  (groupsOf g (ps.length / g) ps).foldl (fun acc t =>
    BitVec.ofNat 32 (sumFp32 FpEnv.plain (FFmt.fp32.unpack acc.toNat :: t)).1) acc

/-- The integer of a decoded element. -/
def FVal.int (a : FVal) : Int := a.dy.n

/-- Integer accumulation of one element (R80): the new value and whether a group overflowed. -/
def accumInt (g : Nat) (acc : Word) (a b : List FVal) : Word × Bool :=
  let ps := a.zipWith (fun x y => x.int * y.int) b
  (groupsOf g (ps.length / g) ps).foldl (fun (p : Word × Bool) t =>
    let sum := p.1.toInt + t.foldl (fun x y => x + y) 0
    (BitVec.ofInt 32 sum, p.2 || decide (sum < -2 ^ 31) || decide (2 ^ 31 - 1 < sum))) (acc, false)

/-! ## Conversions of MST (R265) -/

/-- Bits of a stored element, when a format is legal for a tile's kind (R265). -/
def storeBits (int : Bool) (fd : Nat) : Option Nat :=
  if int then
    match fd with
    | 0 => some 32
    | 9 | 10 => some 8
    | 31 => some 16
    | _ => none
  else if Nat.ble fd 8 then some (fmtBits fd)
  else none

/-- An integer clamped or taken modulo 2^n. -/
def clampTo (sat : Bool) (lo hi : Int) (bits : Nat) (x : Int) : Nat :=
  ((if sat then max lo (min hi x) else x) % ((2 ^ bits : Nat) : Int)).toNat

/-- One element converted for MST (R265). -/
def storeElem (int : Bool) (fd : Nat) (rm : RM) (sat : Bool) (w : Word) : Nat :=
  if int then
    match fd with
    | 9 => clampTo sat (-128) 127 8 w.toInt
    | 10 => clampTo sat 0 255 8 w.toInt
    | 31 => clampTo sat (-32768) 32767 16 w.toInt
    | _ => w.toNat
  else
    let v : FpEnv := { rm := rm, sat := sat, ftz := false }
    let x := FFmt.fp32.unpack w.toNat
    match fd with
    | 1 => (FFmt.bf16.convert v x).1
    | 2 => (FFmt.fp16.convert v x).1
    | 3 => (FFmt.e8m10.convert v x).1 * 2 ^ 13
    | 4 => (FFmt.e4m3.toNarrow rm sat x).1
    | 5 => (FFmt.e5m2.toNarrow rm sat x).1
    | 6 => (FFmt.e2m3.toNarrow rm sat x).1
    | 7 => (FFmt.e3m2.toNarrow rm sat x).1
    | 8 => (FFmt.e2m1.toNarrow rm sat x).1
    | _ => w.toNat

/-- A row of elements packed (R73, R265). -/
def storeRow (int : Bool) (fd bits : Nat) (rm : RM) (sat : Bool) (row : List Word) : List Byte :=
  bytesOfNat (packedBytes 64 bits)
    ((List.range 64).foldl (fun a j => a + storeElem int fd rm sat (row.getD j 0) * 2 ^ (bits * j)) 0)

end Sys2Proof.Machine
end

