-- ==== Sys2Proof/Machine/Barrier.lean ====
section
/-! DEFINITION. Barriers (R111 to R120): arrivals of warps, sequencers and spokes, phases and their results. -/

namespace Sys2Proof.Machine

/-- A barrier of a workgroup. -/
def Wg.bar (g : Wg) (b : Nat) : Barrier := g.bars.getD b {}

/-- Change a barrier of a workgroup. -/
def State.modBar (s : State) (g b : Nat) (f : Barrier → Barrier) : State := s.modWg g (fun w => { w with bars := w.bars.modify b f })

/-- The state word of a barrier (R111). -/
def Barrier.word (x : Barrier) : Nat :=
  x.par.toNat * 2 ^ 31 + x.trk.toNat * 2 ^ 30 + x.pl.toNat * 2 ^ 29 + x.op % 8 * 2 ^ 26 + x.arr % 2048 * 2 ^ 11 + x.exp % 2048

/-- The warps that a tracking barrier counts: those that have not retired. -/
def State.warpCount (s : State) (g : Nat) : Nat := (s.warpsOf g).length

/-- An integer payload operation on the running value (R118). -/
def payInt (op : Nat) (first : Bool) (acc : Word) (v : Word) : Word :=
  if first then v
  else
    match op with
    | 0 => acc + v
    | 1 => if acc.ult v then acc else v
    | 2 => if acc.ult v then v else acc
    | 3 => if acc.slt v then acc else v
    | 4 => if acc.slt v then v else acc
    | 5 => acc &&& v
    | _ => acc ||| v

/-- Combine a payload into the open phase (R118): the first sets the operation. -/
def Barrier.combine (x : Barrier) (op : Nat) (v : PWord) : Barrier :=
  let y : Barrier := { x with pl := true, op := op, any := true }
  match v with
  | .poison => { y with poison := true, allNegZero := false }
  | .val w =>
    if op == 7 then
      match FFmt.fp32.unpack w.toNat with
      | .nan _ => { y with nan := true, allNegZero := false }
      | .inf neg => if neg then { y with ninf := true, allNegZero := false } else { y with pinf := true, allNegZero := false }
      | .fin neg m e =>
        let k : Int := (m : Int) * ((2 ^ (e + 149).toNat : Nat) : Int)
        { y with acc := x.acc + (if neg then -k else k), allNegZero := x.allNegZero && m == 0 && neg }
    else { y with acc := ((payInt op (!x.any) (BitVec.ofInt 32 x.acc) w).toNat : Int) }

/-- The result of a phase from its accumulator (R114, R118): without a payload that is the identity of the code 000 that OP then holds. -/
def Barrier.outcome (x : Barrier) : PWord :=
  if !x.any then .val 0
  else if x.poison then .poison
  else if x.op == 7 then
    let t := FFmt.fp32
    if x.nan || (x.pinf && x.ninf) then .val (BitVec.ofNat 32 t.nan)
    else if x.pinf then .val (BitVec.ofNat 32 t.infCode)
    else if x.ninf then .val (BitVec.ofNat 32 (t.sign true + t.infCode))
    else if x.acc == 0 then .val (BitVec.ofNat 32 (t.sign x.allNegZero))
    else .val (BitVec.ofNat 32 (t.finish .plain (decide (x.acc < 0)) { m := x.acc.natAbs, e := -149 }).1)
  else .val (BitVec.ofInt 32 x.acc)

/-- The barrier after its open phase completes: the parity turns, the counts start again, a pending count applies (R114, R116, R117);
`warps` is the workgroup's count of warps. -/
def Barrier.complete (x : Barrier) (warps : Nat) : Barrier :=
  let trk := match x.pend with
    | some n => n == 0
    | none => x.trk
  { par := !x.par, trk := trk, pl := false, op := 0, arr := 0
    exp := if trk then warps else (match x.pend with
      | some n => n
      | none => x.exp)
    result := x.outcome }

/-- The phase of a sequencer or spoke context. -/
def State.ctxPhase (s : State) (p : Party) : CtxPhase :=
  match p with
  | .seq g => (s.wg g).seq.phase
  | .spoke g false => (s.wg g).lspoke.phase
  | .spoke g true => (s.wg g).sspoke.phase
  | _ => .idle

/-- Change the phase of a context. -/
def State.setCtxPhase (s : State) (p : Party) (ph : CtxPhase) : State :=
  match p with
  | .seq g => s.modWg g (fun w => { w with seq := { w.seq with phase := ph } })
  | .spoke g false => s.modWg g (fun w => { w with lspoke := { w.lspoke with phase := ph } })
  | .spoke g true => s.modWg g (fun w => { w with sspoke := { w.sspoke with phase := ph } })
  | _ => s

/-- Write a register of a context: g of a sequencer, x of a spoke (x0 discards). -/
def State.setCtxReg (s : State) (p : Party) (d : Nat) (v : DWord) : State :=
  match p with
  | .seq g => s.modWg g (fun w => { w with seq := { w.seq with g := w.seq.g.set d v } })
  | .spoke g st =>
    if d == 0 then s
    else if st then s.modWg g (fun w => { w with sspoke := { w.sspoke with x := w.sspoke.x.set d v } })
    else s.modWg g (fun w => { w with lspoke := { w.lspoke with x := w.lspoke.x.set d v } })
  | _ => s

/-- The arrival bits of a party of workgroup g. -/
def State.ctxArr (s : State) (p : Party) : BitVec 17 :=
  match p with
  | .seq g => (s.wg g).seqArr
  | .spoke g false => (s.wg g).loadArr
  | .spoke g true => (s.wg g).storeArr
  | _ => 0

/-- Mark a context's arrival. -/
def State.markCtx (s : State) (p : Party) (b : Nat) : State :=
  let bit : BitVec 17 := BitVec.ofNat 17 (2 ^ b)
  match p with
  | .seq g => s.modWg g (fun w => { w with seqArr := w.seqArr ||| bit })
  | .spoke g false => s.modWg g (fun w => { w with loadArr := w.loadArr ||| bit })
  | .spoke g true => s.modWg g (fun w => { w with storeArr := w.storeArr ||| bit })
  | _ => s

/-- The three contexts of a workgroup. -/
def ctxsOf (g : Nat) : List Party := [.seq g, .spoke g false, .spoke g true]

/-- What a barrier wait of a split asks of a completed phase: it resumes, and BAR.FOLD receives the result (R114). -/
def wakeSplit (g b i : Nat) (s : State) : State :=
  match (s.split i).phase with
  | .parked (.barrier c tok fold) =>
    if c == b && tok != ((s.wg g).bar b).par then
      let t := match fold with
        | some d => s.modSplit i (fun x => x.setS (s.widthOf i) d ((s.wg g).bar b).result)
        | none => s
      t.modSplit i (fun x => { x with phase := .ready, since := (t.die (dieOfCore (t.coreOf i))).cycle })
    else s
  | _ => s

/-- A context wakes from its barrier wait (R114, R120). -/
def wakeCtx (g b : Nat) (p : Party) (s : State) : State :=
  match s.ctxPhase p with
  | .barrier c tok => if c == b && tok != ((s.wg g).bar b).par then s.setCtxPhase p .ready else s
  | _ => s

/-- The open phase completes (R114): arrivals are cleared and every waiting party of the phase wakes. -/
def completePhase (g b : Nat) (s : State) : State :=
  let clear (m : BitVec 17) : BitVec 17 := m &&& ~~~(BitVec.ofNat 17 (2 ^ b))
  let n := s.warpCount g
  let t := (s.modBar g b (fun x => x.complete n)).modWg g (fun w =>
    { w with seqArr := clear w.seqArr, loadArr := clear w.loadArr, storeArr := clear w.storeArr })
  let u := { t with warps := t.warps.map (fun w => if w.wg == g then { w with barArr := clear w.barArr } else w) }
  let v := foldState (u.wgSplits g) (fun i z => wakeSplit g b i z) u
  foldState (ctxsOf g) (fun p z => wakeCtx g b p z) v

/-- The phase of a split that goes on waiting for `w`, or runs when that is none; a stopped split stays stopped (R123). -/
def Split.nowAt (x : Split) (w : Option Wait) (cycle : Nat) : Split :=
  match x.phase, w with
  | .stopped _ live, _ => { x with phase := .stopped w live }
  | _, some v => { x with phase := .parked v }
  | _, none => { x with phase := .ready, since := cycle }

/-- The token reaches a split that arrived: BAR.ARV receives it and resumes, the others wait on it. -/
def giveToken (b : Nat) (tok : Bool) (kind : BarKind) (i : Nat) (s : State) : State :=
  let c := (s.die (dieOfCore (s.coreOf i))).cycle
  match kind with
  | .sync => s.modSplit i (fun x => x.nowAt (some (.barrier b tok none)) c)
  | .fold d _ _ => s.modSplit i (fun x => x.nowAt (some (.barrier b tok (some d))) c)
  | .arv d => s.modSplit i (fun x => (x.setS (s.widthOf i) d (.val (if tok then 1 else 0))).nowAt none c)

/-- What a parked or stopped split waits for. -/
def Split.waitsFor (x : Split) : Option Wait :=
  match x.phase with
  | .parked w => some w
  | .stopped w _ => w
  | .ready => none

/-- The splits of a warp that have executed an arriving word for barrier b, with what each does (R112). -/
def State.gathered (s : State) (w b : Nat) : List (Nat × BarKind) :=
  (s.splitsOf w).filterMap (fun i =>
    match (s.split i).waitsFor with
    | some (.gather c k) => if c == b then some (i, k) else none
    | some (.barAgain c k) => if c == b then some (i, k) else none
    | _ => none)

/-- Whether a split of a warp has an unexited lane that is no helper lane: helper lanes neither add to an arrival nor hold it back (R11, R112). -/
def State.ordinarySplit (s : State) (i : Nat) : Bool :=
  let w := s.warpOf i
  quadLanes (s.split i).quads &&& onesMask w.width &&& ~~~w.exited &&& ~~~(helperMask (s.wgOf i) w) != 0

/-- One arrival is counted (R114). -/
def countArrival (g b : Nat) (s : State) : State := s.modBar g b (fun x => { x with arr := x.arr + 1 })

/-- Whether the open phase has all its arrivals. -/
def State.phaseFull (s : State) (g b : Nat) : Bool :=
  let x := (s.wg g).bar b
  x.arr != 0 && x.arr == x.exp

/-- A warp arrives: its payloads are combined, its splits receive the token (R112, R114). A payload whose operation differs from the
phase's raises 0x023 at its word, and nothing is counted (R118). -/
def arriveWarp (w b : Nat) (parts : List (Nat × BarKind)) (s : State) : State :=
  let g := (s.warp w).wg
  let opOf (k : BarKind) : Option Nat :=
    match k with
    | .fold _ op _ => some op
    | _ => none
  let x := (s.wg g).bar b
  let first := if x.pl then some x.op else parts.findSome? (fun p => opOf p.2)
  match parts.find? (fun p => match opOf p.2, first with
      | some a, some c => a != c
      | _, _ => false) with
  | some p =>
    let back := foldState parts (fun q z => z.modSplit q.1 (fun y => y.nowAt (some (.gather b q.2)) y.since)) s
    raiseAt p.1 0x023 0 ((s.split p.1).pc - 4) back
  | none =>
    let tok := x.par
    let t := (countArrival g b s).modWarp w (fun u => { u with barArr := u.barArr ||| BitVec.ofNat 17 (2 ^ b) })
    let t1 := foldState parts (fun p z =>
      match p.2 with
      | .fold _ op v => if s.ordinarySplit p.1 then z.modBar g b (fun y => y.combine op v) else z
      | _ => z) t
    foldState parts (fun p z => giveToken b tok p.2 p.1 z) t1

/-- A context arrives (R120); a stopped one, whose second arrival now counts, stays stopped (R121). -/
def arriveCtx (g b : Nat) (p : Party) (d : Option Nat) (s : State) : State :=
  let tok := ((s.wg g).bar b).par
  let t := (countArrival g b s).markCtx p b
  let held : Bool := match s.ctxPhase p with
    | .stopped _ _ _ => true
    | _ => false
  match d with
  | some r => (t.setCtxReg p r (if tok then 1 else 0)).setCtxPhase p (if held then .stopped none none none else .ready)
  | none => t.setCtxPhase p (if held then .stopped (some (b, tok)) none none else .barrier b tok)

/-- The warp of a workgroup that has arrived a second time and has no arrival in the open phase of b, with its arriving splits: stopped ones
stand for it too (R115, R121). -/
def State.warpAgain (s : State) (g b : Nat) : Option (Nat × List (Nat × BarKind)) :=
  (s.warpsOf g).findSome? (fun w =>
    let again := (s.gathered w b).filter (fun p => match (s.split p.1).waitsFor with
      | some (.barAgain _ _) => true
      | _ => false)
    if again.isEmpty || (s.warp w).barArr.getLsbD b then none else some (w, again))

/-- The context of a workgroup that has arrived a second time and has no arrival in the open phase. -/
def State.ctxAgain (s : State) (g b : Nat) : Option (Party × Option Nat) :=
  (ctxsOf g).findSome? (fun p => match s.ctxPhase p with
    | .barAgain c d | .stopped _ _ (some (c, d)) => if c == b && !(s.ctxArr p).getLsbD b then some (p, d) else none
    | _ => none)

/-- The next second arrival counts for the phase that is now open (R115); an arrival of a context counts so also in a phase that tracks the
warps (DESIGN CHOICE, log entry 54). -/
def arriveAgain (g b : Nat) (s : State) : Option State :=
  match s.warpAgain g b with
  | some p => some (arriveWarp p.1 b p.2 s)
  | none => (s.ctxAgain g b).map (fun p => arriveCtx g b p.1 p.2 s)

/-- Complete the open phase when it is full, and count the second arrivals that wait for the one then open, one after another (R114, R115). -/
def settle (g b : Nat) : Nat → State → State
  | 0, s => s
  | k + 1, s =>
    if s.phaseFull g b then settle g b k (completePhase g b s)
    else match arriveAgain g b s with
      | some t => settle g b k t
      | none => s

/-- After any change of counts: every party arrives again at most once, and each arrival completes at most one phase. -/
def settleBar (g b : Nat) (s : State) : State := settle g b (2 * (s.warpsOf g).length + 8) s

/-- A warp's arrival with the splits that gather for it; one that has arrived in the open phase waits for the next (R115). -/
def arriveParts (w b : Nat) (parts : List (Nat × BarKind)) (s : State) : State :=
  if (s.warp w).barArr.getLsbD b then
    foldState parts (fun p z => z.modSplit p.1 (fun x => { x with phase := .parked (.barAgain b p.2) })) s
  else settleBar (s.warp w).wg b (arriveWarp w b parts s)

/-- After an arriving word or the end of a split: count the warp once every split of it that holds it back has arrived (R112). Splits of helper
lanes alone take the token of the open phase without an arrival where their warp has one already, or has no other lane left (DEDUCED, log
entry 55). -/
def tryGather (w b : Nat) (s : State) : State :=
  let parts := (s.splitsOf w).filterMap (fun i =>
    match (s.split i).phase with
    | .parked (.gather c k) => if c == b then some (i, k) else none
    | _ => none)
  let needed := (s.splitsOf w).filter s.ordinarySplit
  if parts.isEmpty then s
  else if parts.all (fun p => !s.ordinarySplit p.1) && (needed.isEmpty || (s.warp w).barArr.getLsbD b) then
    let tok := ((s.wg (s.warp w).wg).bar b).par
    foldState parts (fun p z => giveToken b tok p.2 p.1 z) s
  else if needed.all (fun i => parts.any (fun p => p.1 == i)) then arriveParts w b parts s
  else s

/-- A split has executed an arriving word: it parks until its warp has arrived (R112). -/
def arriveSplit (i b : Nat) (kind : BarKind) (s : State) : State :=
  tryGather (s.split i).warp b (s.modSplit i (fun x => { x with phase := .parked (.gather b kind) }))

/-- Wait on a token (R114). -/
def waitToken (i b : Nat) (tok : Bool) (s : State) : State :=
  if ((s.wgOf i).bar b).par != tok then s else s.modSplit i (fun x => { x with phase := .parked (.barrier b tok none) })

/-- The cause that an arrival with a payload operation meets (R118): against the open phase, or against a sibling that waits to arrive. -/
def State.payloadClash (s : State) (i b op : Nat) : Bool :=
  let w := (s.split i).warp
  let x := (s.wgOf i).bar b
  (x.pl && x.op != op && !(s.warp w).barArr.getLsbD b) ||
  (s.gathered w b).any (fun p => match p.2 with
    | .fold _ o _ => o != op
    | _ => false)

/-- A warp retires from every barrier of its workgroup (R117): where it has no arrival in the open phase the count falls at once, and the phase
completes if its arrivals now meet it. The count of the next phase is taken anew as that begins, for a retirement with an arrival as for a SPLIT
or a FUSE (R102, R104). -/
def retireFromBars (w : Nat) (s : State) : State :=
  let g := (s.warp w).wg
  foldState (List.range (s.wg g).bars.length) (fun b z =>
    let x := (z.wg g).bar b
    if !x.trk || (z.warp w).barArr.getLsbD b then z
    else
      let u := z.modBar g b (fun y => { y with exp := y.exp - 1 })
      if x.exp != 0 && x.arr == x.exp - 1 then settleBar g b (completePhase g b u) else u) s

end Sys2Proof.Machine
end

