-- ==== Sys2Proof/Machine/Access.lean ====
section
/-! DEFINITION. What every access to memory shares: the L1 of a workgroup (R173, R178, R179), conversions (R170), the checks of R171,
requests and what holds them back (R177, R197), and how a cause of an answer is delivered (R31, R214). -/

namespace Sys2Proof.Machine

/-! ## Completion times -/

/-- Join a time into CT.G of a party. -/
def State.joinG (s : State) (p : Party) (t : Nat) : State :=
  match p with
  | .split i => s.modSplit i (fun x => { x with ctg := max x.ctg t })
  | .seq g => s.modWg g (fun w => { w with seq := { w.seq with report := max w.seq.report t } })
  | .spoke g false => s.modWg g (fun w => { w with lspoke := { w.lspoke with ctg := max w.lspoke.ctg t } })
  | .spoke g true => s.modWg g (fun w => { w with sspoke := { w.sspoke with ctg := max w.sspoke.ctg t } })
  | _ => s

/-- Join a time into CT.L of a party. -/
def State.joinL (s : State) (p : Party) (t : Nat) : State :=
  match p with
  | .split i => s.modSplit i (fun x => { x with ctl := max x.ctl t })
  | .seq g => s.modWg g (fun w => { w with seq := { w.seq with ctl := max w.seq.ctl t } })
  | .spoke g false => s.modWg g (fun w => { w with lspoke := { w.lspoke with ctl := max w.lspoke.ctl t } })
  | .spoke g true => s.modWg g (fun w => { w with sspoke := { w.sspoke with ctl := max w.sspoke.ctl t } })
  | _ => s

/-- Change a spoke context of a workgroup. -/
def State.modSpoke (s : State) (g : Nat) (store : Bool) (f : Spoke → Spoke) : State :=
  s.modWg g (fun w => if store then { w with sspoke := f w.sspoke } else { w with lspoke := f w.lspoke })

/-- A spoke context. -/
def State.spoke (s : State) (g : Nat) (store : Bool) : Spoke := if store then (s.wg g).sspoke else (s.wg g).lspoke

/-- A cause halts a context without lanes and escalates to its workgroup's launch (R251, R303). -/
def haltCtx (p : Party) (cause pc val : Nat) (s : State) : State :=
  let h : Halt := { cause := cause, pc := pc, val := val }
  match p with
  | .seq g =>
    escalate g cause (s.modWg g (fun w => { w with seq := { w.seq with phase := .halted, mf := some (w.seq.mf.getD h) } }))
  | .spoke g st => escalate g cause (s.modSpoke g st (fun c => { c with phase := .halted, mf := some (c.mf.getD h) }))
  | _ => s

/-! ## L1 (R173, R179) -/

/-- Whether the L1s of a core's cluster are fused: a FUSEL1 launch holds its cluster alone (R179). -/
def State.fusedAt (s : State) (core : Nat) : Bool :=
  s.wgs.any (fun w => w.resident && w.fuse && clusterOfCore w.core == clusterOfCore core)

/-- The core whose L1 holds a block for an access of a core (R179). -/
def State.l1Core (s : State) (core pa : Nat) : Nat := if s.fusedAt core then core / 4 * 4 + pa / 256 % 4 else core

/-- The entry an L1 holds for a block. -/
def State.l1Entry (s : State) (l1 block : Nat) : Option L1Entry := (s.core l1).l1.find? (fun e => e.span.block == block)

/-- Replace the entry of a block, or drop it. -/
def State.setL1 (s : State) (l1 block : Nat) (e : Option L1Entry) : State :=
  s.modCore l1 (fun c => { c with l1 := e.toList ++ c.l1.filter (fun x => x.span.block != block) })

/-- Bytes of an entry at a physical address. -/
def L1Entry.bytesAt (e : L1Entry) (pa n : Nat) : List Byte := (e.data.drop (pa - e.span.base)).take n

/-- Put bytes into a list from a place on. -/
def patchBytes (data : List Byte) (at_ : Nat) (bs : List Byte) : List Byte :=
  data.take at_ ++ bs ++ data.drop (at_ + bs.length)

/-- The bytes of an entry with those of a store over them; bytes outside the span are left out. -/
def L1Entry.patch (e : L1Entry) (pa : Nat) (bs : List Byte) : L1Entry :=
  let b := e.span.base
  let cut := if Nat.blt pa b then bs.drop (b - pa) else bs
  let a := max pa b
  let room := b + 4 * e.span.count - a
  { e with data := if Nat.blt a (b + 4 * e.span.count) then patchBytes e.data (a - b) (cut.take room) else e.data }

/-- The bytes from pa on, of n, as bits of the dirty mask of a block. -/
def byteBits (pa n : Nat) : BitVec 256 := BitVec.ofNat 256 ((2 ^ n - 1) * 2 ^ (pa % 256))

/-- Whether an entry is leased. -/
def L1Entry.isLeased (e : L1Entry) : Bool :=
  match e.mode with
  | .leased _ => true
  | _ => false

/-- The dirty bytes of an entry. -/
def L1Entry.dirty (e : L1Entry) : BitVec 256 :=
  match e.mode with
  | .untracked d => d
  | _ => 0

/-- The data of a whole block with an entry's bytes at their places. -/
def L1Entry.blockData (e : L1Entry) : List Byte :=
  patchBytes (List.replicate 256 0) (4 * e.span.first) e.data

/-- The bound a lease from a home is tested with on a die (R174). -/
def State.leaseEps (s : State) (d pa : Nat) : Nat :=
  if isHost pa then s.epsHost d else if homeDie pa == d then 0 else s.epsPkg d

/-- Whether a core may use an entry for words of a load (R174, R178): it covers them under the same key, and its lease has not run out. -/
def State.l1Hit (s : State) (core : Nat) (e : L1Entry) (sp : Span) (l : Leaf) : Bool :=
  let d := dieOfCore core
  e.span.covers sp && e.key == l.key &&
  (match e.mode with
    | .untracked _ => l.m
    | .leased x => !l.m && Nat.blt (s.nowDie d + s.leaseEps d sp.base) x && !((s.die d).unsync && homeDie sp.base != d))

/-- A store that the hardware makes keeps the copy of a core's L1 up to date. -/
def State.patchL1 (s : State) (l1 pa : Nat) (bs : List Byte) : State :=
  match s.l1Entry l1 (pa / 256) with
  | some e => if e.span.overlaps (spanOf pa bs.length) then s.setL1 l1 (pa / 256) (some (e.patch pa bs)) else s
  | none => s

/-- Drop the copy of a block when it overlaps a span. -/
def State.dropL1 (s : State) (l1 : Nat) (sp : Span) : State :=
  match s.l1Entry l1 sp.block with
  | some e => if e.span.overlaps sp && e.isLeased then s.setL1 l1 sp.block none else s
  | none => s

/-! ## Conversions (R170) -/

/-- The environment of an exact widening. -/
def widenEnv : FpEnv := { rm := .rne, sat := false, ftz := false }

/-- A load's bytes as register words, with the exceptions of the widening. -/
def loadWords (conv : LoadConv) (mr : Word) (bs : List Byte) : List Word × Flags :=
  let x := natOfBytes bs
  let n := bs.length
  let wide (a : FVal) : List Word × Flags := let r := FFmt.fp32.convert widenEnv a; ([BitVec.ofNat 32 r.1], r.2)
  match conv with
  | .zero => ((List.range ((n + 3) / 4)).map (fun k => BitVec.ofNat 32 (natOfBytes ((bs.drop (4 * k)).take 4))), {})
  | .sign => ([BitVec.ofInt 32 (if Nat.ble (2 ^ (8 * n - 1)) x then (x : Int) - ((2 ^ (8 * n) : Nat) : Int) else (x : Int))], {})
  | .f16 => wide (FFmt.fp16.read (mrFTZ mr) x)
  | .bf16 => wide (FFmt.bf16.read (mrFTZ mr) x)
  | .e4m3 => ((wide (FFmt.e4m3.unpack x)).1, {})
  | .e5m2 => ((wide (FFmt.e5m2.unpack x)).1, {})

/-- How many registers a load of n bytes writes (R168). -/
def regsOf (n : Nat) : Nat := (n + 3) / 4

/-- The bytes a store sends of its registers, with the exceptions of the narrowing: poison is not converted. -/
def storeBytes (conv : StoreConv) (n : Nat) (mr : Word) (regs : List PWord) : List Byte × Flags :=
  let plain : List Byte := (regs.flatMap (fun r => wordBytes r.bits)).take n
  let v := mrEnv mr
  let one (f : FVal → Nat × Flags) : List Byte × Flags :=
    match regs with
    | .val x :: _ => let r := f (FFmt.fp32.read v.ftz x.toNat); (bytesOfNat n r.1, r.2)
    | _ => (plain, {})
  match conv with
  | .plain => (plain, {})
  | .f16 => one (FFmt.fp16.convert v)
  | .bf16 => one (FFmt.bf16.convert v)
  | .e4m3 => one (FFmt.e4m3.toNarrow v.rm v.sat)
  | .e5m2 => one (FFmt.e5m2.toNarrow v.rm v.sat)

/-! ## The checks of R171 -/

/-- The spaces of R166. -/
inductive Space where
  | global | scratch | const
  deriving DecidableEq, Repr

/-- A lane that has passed its checks: the address it names, and where that is. -/
structure Hit where
  lane : Nat
  va : Nat
  pa : Nat
  leaf : Leaf
  deriving DecidableEq, Repr

/-- What the checks of a word come to: a cause, a wait, or the lanes that access memory and the helper lanes that take poison. -/
inductive Checked where
  | trap (cause val : Nat)
  | wait
  | ok (hits : List Hit) (poisoned : List Nat)
  deriving DecidableEq, Repr

/-- The first four checks for one lane: the order, the cause and TVAL. -/
def State.earlyCheck (s : State) (i : Nat) (sp : Space) (n : Nat) (a : LaneAddr) (lane : Nat) : Option (Nat × Nat × Nat) :=
  let v := addrVal a.addr lane
  let g := s.wgOf i
  if a.poison || (sp == .global && Nat.ble (2 ^ 56) a.addr) then some (1, 0x061, v)
  else if a.addr % n != 0 then some (2, 0x062, v)
  else if sp == .scratch && Nat.blt g.scratchSize (a.addr + n) then some (3, 0x063, v)
  else if sp == .const && Nat.blt g.cwsize (a.addr + n) then some (4, 0x064, v)
  else none

/-- The entry of least order, the earliest of those. -/
def firstByRank : List (Nat × Nat × Nat) → Option (Nat × Nat × Nat)
  | [] => none
  | x :: xs =>
    match firstByRank xs with
    | some y => if Nat.blt y.1 x.1 then some y else some x
    | none => some x

/-- What the translation of a word's lanes comes to; `bad` is the lowest lane that faults, below which no lane is unfinished. -/
structure Lookup where
  s : State
  hits : List Hit
  poisoned : List Nat
  bad : Option (Nat × Nat × Nat)
  later : Bool
  deriving DecidableEq, Repr

/-- Translate the lanes of a word in order; a helper lane that fails takes poison (R172). With `write` the home compares the generation and the
mode of each lane's page as the word is sent, and a refusal is walked again (R193, R240); a REGMODE under way holds it back (R208). -/
def lookupLanes (i : Nat) (acc : Acc) (base n : Nat) (write : Bool) (helpers : Mask) : List (Nat × Nat) → Lookup → Lookup
  | [], r => r
  | (l, a) :: rest, r =>
    let w := r.s.wgOf i
    let va := base + a
    let (t, got) : State × Walk := r.s.translate w.core w.troot w.trgen va acc (r.s.split i).prv
    let (t2, got2) : State × Walk :=
      match got with
      | .leaf k =>
        if write && t.stale k (k.at va) then
          (t.dropXlat w.core (fun x => x.leaf == k)).translate w.core w.troot w.trgen va acc (t.split i).prv
        else (t, got)
      | _ => (t, got)
    let r2 : Lookup :=
      match got2 with
      | .leaf k =>
        if write && t2.stale k (k.at va) then { r with s := t2.stallRetry w.core w.troot w.trgen va acc, later := true }
        else if write && t2.onHold (k.at va) then { r with s := t2.stallAt true (k.at va) n, later := true }
        else { r with s := t2, hits := r.hits ++ [{ lane := l, va := a, pa := k.at va, leaf := k }] }
      | .fault c =>
        if helpers.getLsbD l then { r with s := t2.logXlat w.core 3 c va, poisoned := r.poisoned ++ [l] }
        else { r with s := t2, bad := if r.later then r.bad else some (r.bad.getD (c, va, l)) }
      | _ => { r with s := t2, later := true }
    lookupLanes i acc base n write helpers rest r2

/-- The lanes of a word that touches memory, checked in the order of R171 up to the page mode: `dropHelpers` for stores and atomics
(R172), `refuse` for the accesses that a software-managed page refuses (R181). Stores, atomics and reads of the constant window meet their
home's compare of generations here (R193). -/
def State.checkLanes (s : State) (i : Nat) (sp : Space) (n : Nat) (acc : Acc) (dropHelpers refuse : Bool) (addr : Nat → LaneAddr) :
    State × Checked :=
  let w := s.widthOf i
  let helpers := helperMask (s.wgOf i) (s.warpOf i)
  let m := if dropHelpers then s.execMask i &&& ~~~helpers else s.execMask i
  let lanes := (lanesIn w m).map (fun l => (l, addr l))
  let fails := lanes.filterMap (fun p => (s.earlyCheck i sp n p.2 p.1).map (fun f => (p.1, f)))
  match firstByRank ((fails.filter (fun f => !helpers.getLsbD f.1)).map Prod.snd) with
  | some f => (s, .trap f.2.1 f.2.2)
  | none =>
    let lost := fails.map Prod.fst
    let good := (lanes.filter (fun p => !lost.contains p.1)).map (fun p => (p.1, p.2.addr))
    if sp == .scratch then (s, .ok (good.map (fun p => { lane := p.1, va := p.2, pa := p.2, leaf := {} })) lost)
    else
      let base := if sp == .const then (s.wgOf i).cwin else 0
      let r := lookupLanes i acc base n (dropHelpers || sp == .const) helpers good { s := s, hits := [], poisoned := lost, bad := none, later := false }
      match r.bad with
      | some (c, va, l) => (r.s.logXlat (s.coreOf i) 3 c va, .trap c (addrVal va l))
      | none =>
        if r.later then (r.s.unlogged s, .wait)
        else
          match (if refuse then r.hits.find? (fun h => h.leaf.m && !helpers.getLsbD h.lane) else none) with
          | some h => (r.s, .trap 0x068 (addrVal h.va h.lane))
          | none =>
            let held (h : Hit) : Bool := refuse && h.leaf.m
            (r.s, .ok (r.hits.filter (fun h => !held h)) (r.poisoned ++ (r.hits.filter held).map (fun h => h.lane)))

/-- The hits by block, the blocks in the order of their first lanes (R173); lanes that reach one block through different pages make a request
for each page, since a request carries the generation of one translation (R193; log entry 12). -/
def blocksOf (hs : List Hit) : List (List Hit) :=
  (hs.map (fun h => (h.pa / 256, h.leaf))).eraseDups.map (fun b => hs.filter (fun h => h.pa / 256 == b.1 && h.leaf == b.2))

/-- The span of the words that lanes of n bytes touch in their block (R173). -/
def spanOfLanes (n : Nat) (pas : List Nat) : Span :=
  match pas with
  | [] => { block := 0, first := 0, count := 1 }
  | a :: rest => rest.foldl (fun sp b => sp.union (spanOf b n)) (spanOf a n)

/-! ## Requests -/

/-- Bytes of each lane of an operation. -/
def MemOp.bytes : MemOp → Nat
  | .load n _ _ | .store n | .atomic _ n _ | .xload n _ _ | .xlr n _ | .xsc n _ | .xamo _ n _ => n
  | .prefetch => 256
  | .writeBack _ _ => 256

/-- Whether an operation writes. -/
def MemOp.writes : MemOp → Bool
  | .load _ _ _ | .prefetch | .xload _ _ _ | .xlr _ _ => false
  | _ => true

/-- Whether an operation is a load that the L1 can serve. -/
def MemReq.cacheable (r : MemReq) : Bool :=
  match r.op with
  | .load _ _ _ | .prefetch | .xload _ _ _ => r.policy != 1 || r.leaf.m
  | _ => false

/-- The span of a request. -/
def MemReq.span (r : MemReq) : Span := spanOfLanes r.op.bytes (r.lanes.map (fun l => l.pa))

/-- The first address of a request. -/
def MemReq.pa (r : MemReq) : Nat := r.span.base

/-- Whether two requests are loads that one read of the home answers together (R175). -/
def MemReq.merges (q r : MemReq) : Bool := q.cacheable && r.cacheable && q.l1 == r.l1 && q.span.block == r.span.block && q.leaf == r.leaf

/-- The first of some requests from a die to the home of an address on another die that has still to arrive there: one that the home holds back has
arrived. -/
def State.flitTo (s : State) (d pa : Nat) (before : List Req) : Option Nat :=
  if d == homeDie pa then none
  else before.findSome? (fun q => match q with
    | .mem q =>
      if dieOfCore q.core == d && homeOf q.pa == homeOf pa && q.fail.isNone && !s.onHold q.pa &&
        !s.homeBusy d q.op.writes q.span.base (4 * q.span.count) q.party then some q.id else none
    | _ => none)

/-- Whether an earlier request to the same home from the same other die has still to arrive: flits of one virtual channel arrive in the order in which
they were sent, over a new route as well (R219, R221). -/
def State.flitBehind (s : State) (r : MemReq) : Bool :=
  (s.flitTo (dieOfCore r.core) r.pa (s.reqs.takeWhile (fun q => q.id != r.id))).isSome

/-- Whether a request waits for an earlier one: it comes behind it over the mesh; a REGMODE that holds its frame (R208), one of its L1 that overlaps it, when one of the two writes (R177, R197), or a load of the same
party to the same block that does not return together with it (R175). -/
def State.blockedBy (s : State) (r : MemReq) : Bool :=
  s.flitBehind r || (s.reqs.takeWhile (fun q => q.id != r.id)).any (fun q =>
    match q with
    | .eng q => q.op == .regmode && Nat.ble (q.vals.headD 0) r.pa && Nat.blt r.pa (q.vals.headD 0 + q.vals.getD 1 0 * 65536)
    | .mem q =>
      (q.l1 == r.l1 && (q.op.writes || r.op.writes) && q.span.overlaps r.span) ||
      (q.party == r.party && !q.op.writes && !r.op.writes && q.span.block == r.span.block && !q.merges r))

/-! ## Write-backs and room in an L1 (R173, R178, R239) -/

/-- The writes an L1 has accepted for a block that its home has not applied (R197). -/
def State.acceptedWrites (s : State) (l1 : Nat) (sp : Span) : List MemReq :=
  s.reqs.filterMap (fun q => match q with
    | .mem q => if q.l1 == l1 && q.op.writes && q.span.overlaps sp then some q else none
    | _ => none)

/-- Maximal runs of dirty bytes: the place in the block and the bytes. -/
def dirtyRuns (dirty : BitVec 256) (data : List Byte) : List (Nat × List Byte) :=
  ((List.range 256).foldr (fun k (acc : List (Nat × List Byte)) =>
    if dirty.getLsbD k then
      match acc with
      | (a, bs) :: rest => if a == k + 1 then (k, data.getD k 0 :: bs) :: rest else (k, [data.getD k 0]) :: (a, bs) :: rest
      | [] => [(k, [data.getD k 0])]
    else acc) [])

/-- Writes applied one after another at a home: the state and the latest of their times. -/
def State.homeStores (s : State) (key : Nat) (ws : List (Nat × List Byte)) : State × Nat :=
  ws.foldl (fun p w => let r := p.1.homeStore key w.1 w.2; (r.1, max p.2 r.2)) (s, 0)

/-- Write the dirty bytes of an entry back to their home (R178): a request that needs W = 1 and an enabled key slot, carries the page's generation and
mode, is translated again when these have moved (R193, R239, R240), and comes behind what its die has sent to the home before (R219). Answers W; a write-back that cannot be made is dropped, its cause recorded
(R212, R246). -/
def writeBackEntry (core : Nat) (e : L1Entry) (s : State) : State × Got Nat :=
  let put (l : Leaf) (pa : Nat) (t : State) : State × Got Nat :=
    match t.wholeCause pa with
    | some c => (t.recordHome core 3 c pa, .ok (t.failTime pa (dieOfCore core)))
    | none =>
      if t.homeBusy (dieOfCore core) true pa (4 * e.span.count) .device then (t.prompt true pa (4 * e.span.count), .later)
      else
        match t.flitTo (dieOfCore core) pa t.reqs with
        | some id => (t.stallOn id, .later)
        | none =>
        let w := t.homeStores l.key ((dirtyRuns e.dirty e.blockData).map (fun b => (pa / 256 * 256 + b.1, b.2)))
        (w.1, .ok w.2)
  let va := e.va / 256 * 256 + 4 * e.span.first
  if s.stale e.leaf e.span.base then
    match (s.dropXlat core (fun x => x.leaf == e.leaf)).translate core e.root e.rgen va .store true with
    | (t, .leaf l) => if t.stale l (l.at va) then (t.stallRetry core e.root e.rgen va .store, .later) else put l (l.at va) t
    | (t, .fault c) => (t.logXlat core 3 c va, .ok 0)
    | (t, _) => (t, .later)
  else if !e.leaf.w then (s.logXlat core 3 0x0A2 va, .ok 0)
  else if !s.keyOn e.key then (s.logXlat core 3 0x0A5 va, .ok 0)
  else put { e.leaf with key := e.key } e.span.base s

/-- The bytes an L1 holds (R173). -/
def State.l1Bytes (s : State) (l1 : Nat) : Nat := ((s.core l1).l1.map (fun e => 4 * e.span.count)).foldl (· + ·) 0

/-- The capacity of an L1 (R12). -/
def l1Capacity : Nat := 131072

/-- The entry that an L1 evicts to make room for a block: one allocated under `.ef` before any other; between equals the order is not defined, so
a free value chooses (R178; log entry 4). -/
def State.victim (s : State) (l1 block : Nat) : Option L1Entry :=
  let es := (s.core l1).l1.filter (fun e => e.span.block != block)
  let ef := es.filter (fun e => e.first)
  let best := if ef.isEmpty then es else ef
  best[(Config.freeWord s.free).toNat % max 1 best.length]?

/-- Evict an entry: a leased or clean one is dropped, a dirty one is written back first, and EVW keeps its time (R178). -/
def evict (l1 : Nat) (e : L1Entry) (s : State) : State × Bool :=
  if e.dirty == 0 then (s.setL1 l1 e.span.block none, true)
  else
    match s.acceptedWrites l1 e.span with
    | q :: _ => (s.stallOn q.id, false)
    | [] =>
    match writeBackEntry l1 e s with
    | (t, .ok w) => ((t.setL1 l1 e.span.block none).modCore l1 (fun c => { c with evw := max c.evw w }), true)
    | (t, _) => (t, false)

/-- Make room in an L1 for n more bytes of a block: answers whether there is room now. -/
def makeRoom (l1 block n : Nat) : Nat → State → State × Bool
  | 0, s => (s, false)
  | k + 1, s =>
    if Nat.ble (s.l1Bytes l1 + n) l1Capacity then (s, true)
    else
      match s.victim l1 block with
      | none => (s, false)
      | some e =>
        match evict l1 e { s with free := s.free + 1 } with
        | (t, true) => makeRoom l1 block n k t
        | (t, false) => (t, false)

/-- The bytes by which an entry would grow an L1. -/
def State.growth (s : State) (l1 : Nat) (sp : Span) : Nat :=
  4 * sp.count - (match s.l1Entry l1 sp.block with
    | some e => 4 * e.span.count
    | none => 0)

/-- Keep an entry in an L1 if there is room or room can be made. -/
def State.keepL1 (s : State) (l1 : Nat) (e : L1Entry) : State × Bool :=
  match makeRoom l1 e.span.block (s.growth l1 e.span) 600 s with
  | (t, true) => (t.setL1 l1 e.span.block (some e), true)
  | (t, false) => (t, false)

/-- Bytes of memory as a core's L1 shows them on a software-managed page: what the L1 holds stands over what the home gives (R178). -/
def State.seenBytes (s : State) (l1 : Nat) (l : Leaf) (pa n : Nat) : List Byte :=
  let home := s.readMem l.key pa n
  match s.l1Entry l1 (pa / 256) with
  | some e =>
    if l.m && !e.isLeased then
      (List.range n).map (fun k =>
        if Nat.ble e.span.base (pa + k) && Nat.blt (pa + k) (e.span.base + 4 * e.span.count) then (e.bytesAt (pa + k) 1).headD 0 else home.getD k 0)
    else home
  | none => home

/-- The kind of access a request is checked for when it is translated again. -/
def MemReq.acc (r : MemReq) : Acc := if r.op.writes then .store else .load

/-- Hold the request of one block of a word: its id is the place among the held results. -/
def State.sendMem (s : State) (r : MemReq) : State × Nat :=
  let (id, t) := s.newId
  (t.post (.mem { r with id := id }), id)

/-- What a split's request carries of the split. -/
def State.splitReq (s : State) (i : Nat) (op : MemOp) (hs : List Hit) (policy : Nat) (lanes : List LaneReq) : MemReq :=
  let x := s.split i
  let w := s.wgOf i
  let h := hs.headD { lane := 0, va := 0, pa := 0, leaf := {} }
  { id := 0, party := .split i, core := w.core, op := op, lanes := lanes, leaf := h.leaf, policy := policy, prv := x.prv
    pc := x.pc, mr := x.mr, l1 := s.l1Core w.core h.pa, root := w.troot, rgen := w.trgen }

/-! ## What later words of a group wait for -/

/-- Whether the answer of a request can bring a cause to its word: that of a MASKGEN does only under MR.PX (R352). -/
def State.mayTrap (s : State) (id : Nat) : Bool :=
  !s.reqs.any (fun q => match q with
    | .eng r => r.id == id && !mrPX r.mr && (match r.op with
      | .maskgen _ => true
      | _ => false)
    | _ => false)

/-- Whether an earlier word of a split's group can still trap (R31, R214, R352). -/
def State.unsettled (s : State) (i : Nat) : Bool :=
  (s.split i).held.any (fun h => match h with
    | .await k => s.mayTrap k
    | _ => false)

/-! ## Causes that an answer brings -/

/-- The place of a cause in the order of R171, home causes (R214) after it. -/
def causeRank (c : Nat) : Nat :=
  if c / 32 == 5 then 5
  else
    match c with
    | 0x068 => 6
    | 0x066 => 7
    | 0x065 => 8
    | _ => 9

/-- Two causes of one word: the first in the order of R171, and of one place the lower lane, exceptions with those of both (R145, R171). -/
def joinTraps (a b : Trap) : Trap :=
  if Nat.blt (causeRank a.cause) (causeRank b.cause) then a
  else if Nat.blt (causeRank b.cause) (causeRank a.cause) then b
  else if a.cause == 0x065 && b.cause == 0x065 then
    { a with val := Nat.lor (a.val % 256) (b.val % 256) + min (a.val / 256) (b.val / 256) * 256 }
  else if Nat.ble (a.val / 2 ^ 57) (b.val / 2 ^ 57) then a else b

/-- The requests of later words of a split's group are dropped: what they bring is discarded (R31, R172). -/
def orphanLater (i pc : Nat) : Req → Req
  | .mem r =>
    if r.party == .split i && Nat.blt pc r.pc && !r.op.writes then .mem { r with party := .device, op := .prefetch } else .mem r
  | .eng r => if r.party == .split i && Nat.blt pc r.pc then .eng { r with party := .device } else .eng r

/-- A cause that the answer of a word's request brings (R31, R214): the results of the word and of later words go, and the trap is taken
once every answer of the words before it is back. A cause of an earlier word stands. -/
def wordTrap (i pc : Nat) (mr : Word) (cause val : Nat) (s : State) : State :=
  let x := s.split i
  let new : Trap := { cause := cause, val := val, pc := pc }
  match x.pend with
  | some t => if Nat.blt t.pc pc then s else go (if t.pc == pc then joinTraps t new else new)
  | none => go new
where
  go (new : Trap) : State :=
    let mine := s.reqs.filterMap (fun r => match r with
      | .mem q => if q.party == .split i && q.pc == pc then some q.id else none
      | .eng q => if q.party == .split i && q.pc == pc then some q.id else none)
    let t := s.modSplit i (fun y =>
      { y with
        held := y.held.takeWhile (fun h => h != .mark pc) ++ [.mark pc] ++
                y.held.filter (fun h => match h with
                  | .await k => mine.contains k
                  | _ => false)
        mr := mr, lit := none, pend := some new, phase := .parked .group })
    { t with reqs := t.reqs.map (orphanLater i pc) }

/-- The results of a request take their place among those the group holds; a split that a pre-emption waits for may now stop. -/
def State.fill (s : State) (i id : Nat) (rs : List Held) : State :=
  stopSweep (s.wgIdxOf i) (s.modSplit i (fun x => { x with held := fillHeld id rs x.held }))

/-- The registers a load writes in the lanes it has answered. -/
def loadHeld (width reg k : Nat) (rows : List (Nat × List PWord)) : List Held :=
  let m : Mask := maskOf 128 (fun l => rows.any (fun r => r.1 == l))
  (List.range k).map (fun j => .vset (reg + j) m (.general (spread width 0 (rows.map (fun r => (r.1, r.2.getD j .poison, {}))))))

/-- The rows of a load in which a helper lane that meets an enabled exception takes poison and raises nothing (R172). -/
def helperRows (mr : Word) (helpers : Mask) (rows : List (Nat × List PWord × Flags)) : List (Nat × List PWord × Flags) :=
  rows.map (fun r => if helpers.getLsbD r.1 && enabledOf mr r.2.2 != 0 then (r.1, r.2.1.map (fun _ => .poison), {}) else r)

/-- The helper lanes of a split's warp. -/
def State.helpersOf (s : State) (i : Nat) : Mask := helperMask (s.wgOf i) (s.warpOf i)

/-- The exceptions of the lanes of a load that are enabled, with the lowest lane that meets one (R145). -/
def loadTrap (mr : Word) (rows : List (Nat × Flags)) : Option Nat :=
  match rows.find? (fun r => enabledOf mr r.2 != 0) with
  | some r => some (enabledOf mr (rows.foldl (fun f q => f.or q.2) {}) + r.1 * 256)
  | none => none

end Sys2Proof.Machine
end

