-- ==== Sys2Proof/Machine/LoadStore.lean ====
section
/-! DEFINITION. The load-store engine (R166 to R190): loads and stores, scratchpad and constant accesses, atomics, fences, acquires
and cache control. -/

namespace Sys2Proof.Machine

/-! ## Shared steps of the words -/

/-- A group sends nothing that is visible while an earlier word of it can still trap: until its loads and atomics have returned (R31, R214). -/
def afterLoads (body : Nat → State → State × Out) (i : Nat) (s : State) : State × Out :=
  if s.unsettled i then (s, .wait .settled) else body i s

/-- The scratchpad of a workgroup: bytes at an offset (R180). -/
def Wg.scratchRead (g : Wg) (off n : Nat) : List Byte := cellsRead g.scratch off n

/-- Write bytes of a scratchpad; a reservation on them ends (R307). -/
def State.scratchWrite (s : State) (g off : Nat) (bs : List Byte) : State :=
  (s.modWg g (fun w => { w with scratch := cellsWrite w.scratch off bs })).breakResv (some g) off bs.length

/-- The registers of the data group of a word, as a lane reads them. -/
def State.group (s : State) (i reg k lane : Nat) : List PWord := (List.range k).map (fun j => ((s.warpOf i).reg (reg + j)).lane lane)

/-- The numbers of the data group (R27). -/
def groupRegs (reg k : Nat) : List Nat := (List.range k).map (fun j => reg + j)

/-- The lowest lane whose operand is poisoned, when MR.PX is set (0x066). -/
def State.poisonTrap (s : State) (i reg k : Nat) (hs : List Hit) : Option Nat :=
  if mrPX (s.split i).mr then (hs.find? (fun h => (s.group i reg k h.lane).any PWord.isPoison)).map (fun h => h.lane) else none

/-! ## Global loads (R170 to R175) -/

/-- One block of a load: served from the L1, or a request. -/
structure LoadPart where
  rows : List (Nat × List PWord × Flags)
  v : Nat := 0
  held : List Held := []
  deriving DecidableEq, Repr

/-- The words that each lane of a request touches. -/
def MemReq.words (q : MemReq) : List Span := q.lanes.map (fun l => spanOf l.pa q.op.bytes)

/-- Whether a load of a party that reads one of the same words has not been answered: a later load of that word must not return an older write
(R199). -/
def State.earlierRead (s : State) (p : Party) (ws : List Span) : Bool :=
  s.reqs.any (fun q => match q with
    | .mem q => q.party == p && !q.op.writes && q.words.any (fun a => ws.any a.overlaps)
    | _ => false)

/-- Serve a block of a load from the L1, or send its request (R174, R175, R178). -/
def loadBlock (i n : Nat) (conv : LoadConv) (reg policy : Nat) (strict : Bool) (hs : List Hit) (s : State) : State × LoadPart :=
  let w := s.wgOf i
  let h := hs.headD { lane := 0, va := 0, pa := 0, leaf := {} }
  let l1 := s.l1Core w.core h.pa
  let sp := spanOfLanes n (hs.map (fun k => k.pa))
  let entry := match s.l1Entry l1 sp.block with
    | some e => if (policy != 1 || h.leaf.m) && s.l1Hit w.core e sp h.leaf && !s.earlierRead (.split i) (hs.map (fun k : Hit => spanOf k.pa n)) then some e else none
    | none => none
  match entry with
  | some e =>
    let got := hs.map (fun k => (k.lane, loadWords conv (s.split i).mr (e.bytesAt k.pa n)))
    (s, { rows := got.map (fun r => (r.1, r.2.1.map PWord.val, r.2.2)), v := e.v })
  | none =>
    let r := s.splitReq i (.load n conv reg) hs policy (hs.map (fun k => { lane := k.lane, va := k.va, pa := k.pa }))
    let (t, id) := s.sendMem { r with strict := strict }
    (t, { rows := [], held := [.await id] })

/-- The blocks of a load in turn. -/
def loadBlocks (i n : Nat) (conv : LoadConv) (reg policy : Nat) (strict : Bool) : List (List Hit) → State → State × List LoadPart
  | [], s => (s, [])
  | b :: bs, s =>
    let (t, p) := loadBlock i n conv reg policy strict b s
    let (u, ps) := loadBlocks i n conv reg policy strict bs t
    (u, p :: ps)

/-- The body of a global load: `acquire` for LD.ACQ above wg scope, which a software-managed page refuses (R181). -/
def loadBody (n : Nat) (conv : LoadConv) (reg : Nat) (a : BitVec 6) (b : BitVec 5) (policy : Nat) (acquire : Bool) (i : Nat) (s : State) :
    State × Out :=
  withRegs (groupRegs reg (regsOf n) ++ s.addrRegs i true a b) (fun i s =>
    match s.checkLanes i .global n .load false acquire (s.globalAddr i a b) with
    | (t, .trap c v) => (t, .trap c v)
    | (t, .wait) => (t, .wait t.memWait)
    | (t, .ok hs lost) =>
      let pc := (s.split i).pc
      let mr := (s.split i).mr
      let (u, parts) := loadBlocks i n conv reg policy acquire (blocksOf hs) t
      let rows := helperRows mr (s.helpersOf i) (parts.flatMap (fun p => p.rows) ++
        lost.map (fun l => (l, List.replicate (regsOf n) PWord.poison, ({} : Flags))))
      let sorted := (List.range 128).filterMap (fun l => rows.find? (fun r => r.1 == l))
      let byLane := sorted.map (fun r => (r.1, r.2.2))
      let sent := parts.flatMap (fun p => p.held)
      let out := loadHeld (s.widthOf i) reg (regsOf n) (sorted.map (fun r => (r.1, r.2.1)))
      let v := parts.foldl (fun m p => max m p.v) 0
      match loadTrap mr byLane with
      | some val =>
        if sent.isEmpty then (t, .trap 0x065 val)
        else (u.modSplit i (fun x => { x with pend := some { cause := 0x065, val := val, pc := pc } }), .done (.mark pc :: sent))
      | none =>
        (u.joinG (.split i) v, .done ((if sent.isEmpty then [] else [.mark pc]) ++ (if rows.isEmpty then [] else out) ++ sent))) i s

/-- Bytes of a width code (R168). -/
def widthBytes (w : Nat) : Nat := 2 ^ w

/-- LD (R170). -/
def execLd (w : MemF) (s : State) : Host.Outcome State Fault Refusal :=
  issueWord w.s (loadBody (widthBytes w.w.toNat) .zero w.d.toNat w.a w.b w.p.toNat false) s

/-- LD.S (R170). -/
def execLdS (w : MemW1) (s : State) : Host.Outcome State Fault Refusal :=
  issueWord w.s (loadBody (widthBytes w.w.toNat) .sign w.d.toNat w.a w.b w.p.toNat false) s

/-- LD.F16 (R170). -/
def execLdF16 (w : MemP) (s : State) : Host.Outcome State Fault Refusal :=
  issueWord w.s (loadBody 2 .f16 w.d.toNat w.a w.b w.p.toNat false) s

/-- LD.BF16 (R170). -/
def execLdBf16 (w : MemP) (s : State) : Host.Outcome State Fault Refusal :=
  issueWord w.s (loadBody 2 .bf16 w.d.toNat w.a w.b w.p.toNat false) s

/-- LD.E4M3 (R170). -/
def execLdE4m3 (w : MemP) (s : State) : Host.Outcome State Fault Refusal :=
  issueWord w.s (loadBody 1 .e4m3 w.d.toNat w.a w.b w.p.toNat false) s

/-- LD.E5M2 (R170). -/
def execLdE5m2 (w : MemP) (s : State) : Host.Outcome State Fault Refusal :=
  issueWord w.s (loadBody 1 .e5m2 w.d.toNat w.a w.b w.p.toNat false) s

/-! ## Global stores (R170, R176, R178) -/

/-- Bytes of a home read for an L1 fill; none when a granule is uncorrectable or the home fails. -/
def State.fillBytes (s : State) (key : Nat) (sp : Span) : Option (List Byte) :=
  match s.homeCause sp.base (4 * sp.count) with
  | some _ => none
  | none => some (s.readMem key sp.base (4 * sp.count))

/-- An untracked entry that covers a span besides what the L1 holds of the block, whose dirty bytes stand (R178); a leased copy, of a time when
the page was coherent, is not used. -/
def State.untrackedFor (s : State) (l1 : Nat) (l : Leaf) (sp : Span) : Option L1Entry :=
  match (s.l1Entry l1 sp.block).bind (fun e => if e.isLeased then none else some e) with
  | some e =>
    if e.span.covers sp then some e
    else
      let big := e.span.union sp
      (s.fillBytes l.key big).map (fun bs =>
        let fresh : L1Entry := { span := big, mode := e.mode, data := bs, home := e.home, v := 0, key := l.key, first := e.first }
        fresh.patch e.span.base e.data)
  | none =>
    (s.fillBytes l.key sp).map (fun bs =>
      { span := sp, mode := .untracked 0, data := bs, home := homeDie sp.base, v := 0, key := l.key, first := false })

/-- Bytes of a store as they lie: the later lane's byte stands (R172). -/
def patchLanes (e : L1Entry) (ls : List (Nat × List Byte)) : L1Entry := ls.foldl (fun x p => x.patch p.1 p.2) e

/-- A store to a block of a software-managed page placed in the L1 (R178): its bytes are dirty there, with the page that their write-back will
carry. None where the home cannot give the rest of the block's words, or the L1 has no room. -/
def State.placeUntracked (s : State) (core : Nat) (l : Leaf) (root rgen va n : Nat) (ls : List (Nat × List Byte)) : Option State :=
  let l1 := s.l1Core core ((ls.map Prod.fst).headD 0)
  (s.untrackedFor l1 l (spanOfLanes n (ls.map Prod.fst))).bind (fun e =>
    let d := ls.foldl (fun m p => m ||| byteBits p.1 p.2.length) e.dirty
    match s.keepL1 l1 { patchLanes e ls with mode := .untracked d, leaf := l, va := va, root := root, rgen := rgen } with
    | (t, true) => some t
    | (_, false) => none)

/-- A store to a block of a software-managed page (R178): written in the L1; where it cannot be placed there its bytes are evicted at once, as any
dirty bytes may be, and EVW keeps their W. -/
def storeUntracked (core : Nat) (l : Leaf) (root rgen va n : Nat) (ls : List (Nat × List Byte)) (s : State) : State :=
  match s.placeUntracked core l root rgen va n ls with
  | some t => t
  | none =>
    let pa := (ls.map Prod.fst).headD 0
    let l1 := s.l1Core core pa
    match s.homeCause pa 4 with
    | some 0x082 | none =>
      let w := s.homeStores l.key ls
      (foldState ls (fun p z => z.patchL1 l1 p.1 p.2) w.1).modCore l1 (fun c => { c with evw := max c.evw w.2 })
    | some c => s.recordHome core 3 c pa

/-- What a store to a software-managed block waits for, if anything: the fill of the words that the L1 does not hold, for which a write that the L1
has accepted before comes first (R197), or the home and the way to it (R219) for bytes that the L1 cannot keep. -/
def State.untrackedWait (s : State) (core : Nat) (l : Leaf) (root rgen va n : Nat) (ls : List (Nat × List Byte)) (p : Party) : Option State :=
  let pa := (ls.map Prod.fst).headD 0
  let d := dieOfCore core
  let l1 := s.l1Core core pa
  let sp := spanOfLanes n (ls.map Prod.fst)
  let held := (s.l1Entry l1 sp.block).bind (fun e => if e.isLeased then none else some e.span)
  let fill := held.all (fun h => !h.covers sp)
  let ahead := if fill then s.acceptedWrites l1 { block := sp.block, first := 0, count := 64 } else []
  match ahead with
  | q :: _ => some (s.stallOn q.id)
  | [] =>
    if fill && s.homeBusy d false (pa / 256 * 256) 256 p then some (s.prompt false (pa / 256 * 256) 256)
    else if (s.placeUntracked core l root rgen va n ls).isSome then none
    else if s.homeBusy d true (pa / 256 * 256) 256 p then some (s.prompt true (pa / 256 * 256) 256)
    else (s.flitTo d pa s.reqs).map s.stallOn

/-- Send a store to a block of a hardware-coherent page (R176): the copy in the L1 follows the policy, and the request goes to the home. -/
def sendStore (r : MemReq) (ls : List (Nat × List Byte)) (s : State) : State :=
  let sp := r.span
  let t := match s.l1Entry r.l1 sp.block with
    | some e =>
      if !e.span.overlaps sp || !e.isLeased then s
      else if r.policy == 1 || e.key != r.leaf.key then s.setL1 r.l1 sp.block none
      else s.setL1 r.l1 sp.block (some (patchLanes e ls))
    | none => s
  (t.sendMem r).1

/-- A split's store to one block of a hardware-coherent page. -/
def storeCoherent (i n policy : Nat) (hs : List Hit) (ls : List (Nat × List Byte)) (s : State) : State :=
  sendStore (s.splitReq i (.store n) hs policy
    ((hs.zip ls).map (fun p => { lane := p.1.lane, va := p.1.va, pa := p.1.pa, data := natOfBytes p.2.2 }))) ls s

/-- The body of a global store. -/
def storeBody (n : Nat) (conv : StoreConv) (reg : Nat) (a : BitVec 6) (b : BitVec 5) (policy : Nat) (i : Nat) (s : State) : State × Out :=
  withRegs (groupRegs reg (regsOf n) ++ s.addrRegs i true a b) (fun i s =>
    match s.checkLanes i .global n .store true false (s.globalAddr i a b) with
    | (t, .trap c v) => (t, .trap c v)
    | (t, .wait) => (t, .wait t.memWait)
    | (t, .ok hs _) =>
      let mr := (s.split i).mr
      let data := hs.map (fun h => (h, storeBytes conv n mr (s.group i reg (regsOf n) h.lane)))
      match s.poisonTrap i reg (regsOf n) hs with
      | some l => (t, .trap 0x066 l)
      | none =>
        match loadTrap mr (data.map (fun d => (d.1.lane, d.2.2))) with
        | some v => (t, .trap 0x065 v)
        | none =>
          if s.unsettled i then (t, .wait .settled)
          else
            let of (b : List Hit) : List (Nat × List Byte) :=
              b.map (fun h => (h.pa, ((data.find? (fun d => d.1 == h)).map (fun d => d.2.1)).getD []))
            let blocks := blocksOf hs
            let core := s.coreOf i
            match blocks.findSome? (fun b =>
                let h := b.headD { lane := 0, va := 0, pa := 0, leaf := {} }
                if h.leaf.m then t.untrackedWait core h.leaf (s.wgOf i).troot (s.wgOf i).trgen h.va n (of b) (.split i) else none) with
            | some u => (u, .wait u.memWait)
            | none =>
              let u := foldState blocks (fun b z =>
                if (b.headD { lane := 0, va := 0, pa := 0, leaf := {} }).leaf.m then
                  let h := b.headD { lane := 0, va := 0, pa := 0, leaf := {} }
                  storeUntracked core h.leaf (s.wgOf i).troot (s.wgOf i).trgen h.va n (of b) z
                else storeCoherent i n policy b (of b) z) t
              (if hs.isEmpty then u else u.joinL (.split i) (s.nowOf i), .done [])) i s

/-- ST (R176). -/
def execSt (w : MemF) (s : State) : Host.Outcome State Fault Refusal :=
  issueWord w.s (storeBody (widthBytes w.w.toNat) .plain w.d.toNat w.a w.b w.p.toNat) s

/-- ST.F16 (R170). -/
def execStF16 (w : MemP) (s : State) : Host.Outcome State Fault Refusal := issueWord w.s (storeBody 2 .f16 w.d.toNat w.a w.b w.p.toNat) s

/-- ST.BF16 (R170). -/
def execStBf16 (w : MemP) (s : State) : Host.Outcome State Fault Refusal := issueWord w.s (storeBody 2 .bf16 w.d.toNat w.a w.b w.p.toNat) s

/-- ST.E4M3 (R170). -/
def execStE4m3 (w : MemP) (s : State) : Host.Outcome State Fault Refusal := issueWord w.s (storeBody 1 .e4m3 w.d.toNat w.a w.b w.p.toNat) s

/-- ST.E5M2 (R170). -/
def execStE5m2 (w : MemP) (s : State) : Host.Outcome State Fault Refusal := issueWord w.s (storeBody 1 .e5m2 w.d.toNat w.a w.b w.p.toNat) s

/-! ## Scratchpad (R180) -/

/-- The results of a load that is served at once, with its traps. -/
def loadNow (n : Nat) (conv : LoadConv) (reg : Nat) (uniform : Bool) (got : List (Nat × Option (List Byte))) (lost : List Nat) (i : Nat)
    (s : State) : State × Out :=
  let mr := (s.split i).mr
  let k := regsOf n
  let poison : List PWord × Flags := (List.replicate k .poison, {})
  let conv1 := helperRows mr (s.helpersOf i) (got.map (fun r => (r.1, match r.2.map (loadWords conv mr) with
    | some x => (x.1.map PWord.val, x.2)
    | none => poison)) ++ lost.map (fun l => (l, poison)))
  let rows := (List.range (s.widthOf i)).filterMap (fun l => (conv1.find? (fun r => r.1 == l)).map (fun r => (l, r.2.1)))
  match loadTrap mr (conv1.map (fun r => (r.1, r.2.2))) with
  | some v => (s, .trap 0x065 v)
  | none =>
    if rows.isEmpty then (s, .done [])
    else if uniform && rows.length == s.widthOf i then
      let first := (rows.map Prod.snd).headD []
      (s, .done ((List.range k).map (fun j => .vset (reg + j) (s.execMask i) (.uniform (first.getD j .poison)))))
    else (s, .done (loadHeld (s.widthOf i) reg k rows))

/-- The body of a scratchpad load. -/
def ldsBody (n : Nat) (conv : LoadConv) (reg : Nat) (a : BitVec 6) (b : BitVec 5) (i : Nat) (s : State) : State × Out :=
  withRegs (groupRegs reg (regsOf n) ++ s.addrRegs i false a b) (fun i s =>
    match s.checkLanes i .scratch n .load false false (s.localAddr i a b) with
    | (t, .trap c v) => (t, .trap c v)
    | (t, .wait) => (t, .wait t.memWait)
    | (t, .ok hs lost) =>
      loadNow n conv reg false (hs.map (fun h => (h.lane, some ((s.wgOf i).scratchRead h.pa n)))) lost i t) i s

/-- LDS (R180). -/
def execLds (w : LdsF) (s : State) : Host.Outcome State Fault Refusal :=
  issueWord w.s (ldsBody (widthBytes w.w.toNat) (if w.k then .sign else .zero) w.d.toNat w.a w.b) s

/-- LDS.F16 (R180). -/
def execLdsF16 (w : MemN) (s : State) : Host.Outcome State Fault Refusal := issueWord w.s (ldsBody 2 .f16 w.d.toNat w.a w.b) s

/-- LDS.BF16 (R180). -/
def execLdsBf16 (w : MemN) (s : State) : Host.Outcome State Fault Refusal := issueWord w.s (ldsBody 2 .bf16 w.d.toNat w.a w.b) s

/-- The body of a scratchpad store. -/
def stsBody (n : Nat) (conv : StoreConv) (reg : Nat) (a : BitVec 6) (b : BitVec 5) (i : Nat) (s : State) : State × Out :=
  withRegs (groupRegs reg (regsOf n) ++ s.addrRegs i false a b) (fun i s =>
    match s.checkLanes i .scratch n .store true false (s.localAddr i a b) with
    | (t, .trap c v) => (t, .trap c v)
    | (t, .wait) => (t, .wait t.memWait)
    | (t, .ok hs _) =>
      let mr := (s.split i).mr
      let data := hs.map (fun h => (h, storeBytes conv n mr (s.group i reg (regsOf n) h.lane)))
      match s.poisonTrap i reg (regsOf n) hs with
      | some l => (t, .trap 0x066 l)
      | none =>
        match loadTrap mr (data.map (fun d => (d.1.lane, d.2.2))) with
        | some v => (t, .trap 0x065 v)
        | none =>
          if s.unsettled i then (t, .wait .settled)
          else
            let u := foldState data (fun d z => z.scratchWrite (z.wgIdxOf i) d.1.pa d.2.1) t
            (if hs.isEmpty then u else u.joinL (.split i) (s.nowOf i), .done [])) i s

/-- STS (R180). -/
def execSts (w : StsF) (s : State) : Host.Outcome State Fault Refusal :=
  issueWord w.s (stsBody (widthBytes w.w.toNat) .plain w.d.toNat w.a w.b) s

/-- STS.F16 (R180). -/
def execStsF16 (w : MemN) (s : State) : Host.Outcome State Fault Refusal := issueWord w.s (stsBody 2 .f16 w.d.toNat w.a w.b) s

/-- STS.BF16 (R180). -/
def execStsBf16 (w : MemN) (s : State) : Host.Outcome State Fault Refusal := issueWord w.s (stsBody 2 .bf16 w.d.toNat w.a w.b) s

/-! ## The constant window (R181) -/

/-- LDC (R181): read where the window lies; the result is uniform when the address is and every lane executes (R170). -/
def execLdc (w : LdsF) (s : State) : Host.Outcome State Fault Refusal :=
  let n := widthBytes w.w.toNat
  issueWord w.s (fun i s =>
    withRegs (groupRegs w.d.toNat (regsOf n) ++ s.addrRegs i false w.a w.b) (fun i s =>
      match s.checkLanes i .const n .load false false (s.localAddr i w.a w.b) with
      | (t, .trap c v) => (t, .trap c v)
      | (t, .wait) => (t, .wait t.memWait)
      | (t, .ok hs lost) =>
        let d := dieOfCore (s.coreOf i)
        let px := mrPX (s.split i).mr
        if hs.any (fun h => t.homeBusy d false h.pa n (.split i)) then ((fun u : State => (u, .wait u.memWait)) (foldState (hs.filter (fun h => t.homeBusy d false h.pa n (.split i))) (fun h z => z.prompt false h.pa n) t))
        else
          let failed := hs.filterMap (fun h => (t.homeCause h.pa n).map (fun c => (h, c)))
          let u := foldState (failed.take 2) (fun f z => z.recordHome (s.coreOf i) 3 f.2 f.1.pa) t
          match (if px then failed.head? else none) with
          | some f => (u, .trap f.2 (addrVal ((s.wgOf i).cwin + f.1.va) f.1.lane))
          | none =>
            let uni := w.b != 31#5 && ((s.split i).lit.isSome || (s.vsrc i w.a).isUniform)
            loadNow n (if w.k then .sign else .zero) w.d.toNat uni
              (hs.map (fun h => (h.lane, if (t.homeCause h.pa n).isSome then none else some (t.readMem h.leaf.key h.pa n)))) lost i u) i s) s

/-! ## Atomics (R182 to R185) -/

/-- The operation of a class code and an fn (R182); a reserved pair never reaches it. -/
def atomFn (cls f : Nat) : AtomFn :=
  if Nat.ble 6 cls then
    match f with
    | 0 => .exch
    | 1 => .cas
    | _ => .fadd
  else
    match f with
    | 0 => .add
    | 1 => .and
    | 2 => .or
    | 3 => .xor
    | 4 => .umin
    | 5 => .umax
    | 6 => .smin
    | _ => .smax

/-- The value an atomic leaves of n bytes (R183). -/
def atomNew (fn : AtomFn) (n old v cmp : Nat) : Nat :=
  let m := 2 ^ (8 * n)
  let signed (x : Nat) : Int := if Nat.ble (m / 2) x then (x : Int) - (m : Int) else (x : Int)
  match fn with
  | .add => (old + v) % m
  | .and => Nat.land old v
  | .or => Nat.lor old v
  | .xor => Nat.xor old v
  | .umin => min old v
  | .umax => max old v
  | .smin => if signed v < signed old then v else old
  | .smax => if signed old < signed v then v else old
  | .exch => v
  | .cas => if old == cmp then v else old
  | .fadd => (FFmt.fp32.add FpEnv.plain (FFmt.fp32.unpack old) (FFmt.fp32.unpack v)).1

/-- The registers of the data group and those of the result (R182). -/
def atomGroup (fn : AtomFn) (n : Nat) : Nat := if fn == .cas then n / 2 else n / 4

/-- The operand, the compare operand, and whether one is poisoned, as a lane reads them. -/
def atomOperands (fn : AtomFn) (n : Nat) (regs : List PWord) : Nat × Nat × Bool :=
  let num (rs : List PWord) : Nat := natOfBytes (rs.flatMap (fun r => wordBytes r.bits))
  let p := regs.any PWord.isPoison
  if fn == .cas then (num (regs.drop (n / 4)), num (regs.take (n / 4)), p) else (num regs, 0, p)

/-- FENCE.REL as the waits of R187: the target is met, or what the split waits for. -/
def State.fenceWait (s : State) (i scope : Nat) : Option Cond :=
  if s.outstanding (.split i) || (s.split i).awaiting then some (.fence scope none)
  else
    let x := s.split i
    let d := dieOfCore (s.coreOf i)
    let t := match scope with
      | 0 => x.ctl
      | 1 => if (s.wgOf i).fuse then x.ctl else x.ctg
      | 2 => x.ctg
      | _ => x.ctg + s.epsHost d
    if Nat.ble t (s.nowOf i) then none else some (.fence scope (some t))

/-- The drain of CXL posted writes (R187, R210): the proxy writes its dirty lines back to the host. -/
def State.drainCxl (s : State) : State := { s with hlines := s.hlines.map (fun l => { l with dirty := false }) }

/-- The body of ATOM and RED (R183, R184). For an acquire or release form the 0x067 of an unsynchronised die comes before the checks of R171, whose order
with it no rule gives (DESIGN CHOICE, log entry 67); so it does for LD.ACQ. -/
def atomBody (w : AtomF) (ret : Bool) (i : Nat) (s : State) : State × Out :=
  let fn := atomFn w.w.toNat w.f.toNat
  let n := if w.w.toNat % 2 == 1 then 8 else 4
  let k := atomGroup fn n
  let reg := w.d.toNat
  withRegs (groupRegs reg k ++ s.addrRegs i true w.a w.b) (fun i s =>
    if w.o != 0 && s.scopeUnsync (dieOfCore (s.coreOf i)) 2 then (s, .trap 0x067 2)
    else
      match s.checkLanes i .global n .store true true (s.globalAddr i w.a w.b) with
      | (t, .trap c v) => (t, .trap c v)
      | (t, .wait) => (t, .wait t.memWait)
      | (t, .ok hs _) =>
        match s.poisonTrap i reg k hs with
        | some l => (t, .trap 0x066 l)
        | none =>
          if s.unsettled i then (t, .wait .settled)
          else
            match (if w.o.getLsbD 1 then s.fenceWait i 2 else none) with
            | some c => (t, .wait c)
            | none =>
              let send (p : State × List Held) (b : List Hit) : State × List Held :=
                let ls : List LaneReq := b.map (fun h =>
                  let o := atomOperands fn n (s.group i reg k h.lane)
                  { lane := h.lane, va := h.va, pa := h.pa, data := o.1, cmp := o.2.1, poison := o.2.2 })
                let r := { p.1.splitReq i (.atomic fn n (if ret then some reg else none)) b 0 ls with strict := true }
                let (u, id) := (p.1.dropL1 r.l1 r.span).sendMem r
                (u, if ret then p.2 ++ [.await id] else p.2)
              let (u, held) := (blocksOf hs).foldl send (t, [])
              (if hs.isEmpty then u else u.joinL (.split i) (s.nowOf i)
               , .done (if held.isEmpty then [] else .mark (s.split i).pc :: held))) i s

/-- ATOM (R183): it closes its group with an ordering (R184). -/
def execAtom (w : AtomF) (s : State) : Host.Outcome State Fault Refusal := issueWord (w.s || w.o != 0) (atomBody w true) s

/-- RED (R183). -/
def execRed (w : AtomF) (s : State) : Host.Outcome State Fault Refusal := issueWord (w.s || w.o != 0) (atomBody w false) s

/-- ATOMS (R185): lanes in ascending order. -/
def execAtoms (w : AtomsF) (s : State) : Host.Outcome State Fault Refusal :=
  let fn := atomFn w.w.toNat w.f.toNat
  let k := atomGroup fn 4
  let reg := w.d.toNat
  issueWord w.s (fun i s =>
    withRegs (groupRegs reg k ++ s.addrRegs i false w.a w.b) (fun i s =>
      match s.checkLanes i .scratch 4 .store true false (s.localAddr i w.a w.b) with
      | (t, .trap c v) => (t, .trap c v)
      | (t, .wait) => (t, .wait t.memWait)
      | (t, .ok hs _) =>
        match s.poisonTrap i reg k hs with
        | some l => (t, .trap 0x066 l)
        | none =>
          if s.unsettled i then (t, .wait .settled)
          else
            let one (p : State × List (Nat × List PWord)) (h : Hit) : State × List (Nat × List PWord) :=
              let g := p.1.wgIdxOf i
              let o := atomOperands fn 4 (s.group i reg k h.lane)
              let old := natOfBytes ((p.1.wg g).scratchRead h.pa 4)
              let new := atomNew fn 4 old o.1 o.2.1
              let u := if fn == .cas && old != o.2.1 then p.1 else p.1.scratchWrite g h.pa (bytesOfNat 4 new)
              (u, p.2 ++ [(h.lane, [if o.2.2 then .poison else .val (BitVec.ofNat 32 old)])])
            let (u, rows) := hs.foldl one (t, [])
            (if hs.isEmpty then u else u.joinL (.split i) (s.nowOf i)
             , .done (if w.n || rows.isEmpty then [] else loadHeld (s.widthOf i) reg 1 rows))) i s) s

/-! ## Fences and acquires (R186 to R188) -/

/-- FENCE.REL (R187). -/
def execFenceRel (w : FenceF) (s : State) : Host.Outcome State Fault Refusal :=
  issueWord true (fun i s =>
    let c := w.c.toNat
    if s.scopeUnsync (dieOfCore (s.coreOf i)) c then (s, .trap 0x067 c)
    else
      let t := if c == 3 && !s.outstanding (.split i) then s.drainCxl else s
      match t.fenceWait i c with
      | some k => (t, .wait k)
      | none => (t, .done [])) s

/-- FENCE.ACQ (R188). -/
def execFenceAcq (w : FenceF) (s : State) : Host.Outcome State Fault Refusal :=
  issueWord true (fun i s =>
    let c := w.c.toNat
    if s.scopeUnsync (dieOfCore (s.coreOf i)) c then (s, .trap 0x067 c)
    else afterLoads (fun _ s => (s, .done [])) i s) s

/-- LD.ACQ (R188): its group's end waits for it. -/
def execLdAcq (w : LdAcqF) (s : State) : Host.Outcome State Fault Refusal :=
  issueWord true (fun i s =>
    let c := w.c.toNat
    if s.scopeUnsync (dieOfCore (s.coreOf i)) c then (s, .trap 0x067 c)
    else loadBody (4 * 2 ^ w.w.toNat) .zero w.d.toNat w.a w.b 0 (c != 0) i s) s

/-! ## Cache control and prefetch (R189) -/

/-- One block of a cache-control word: `wb` writes dirty bytes back, `inv` drops the copy. -/
def ccBlock (i : Nat) (wb inv : Bool) (h : Hit) (s : State) : State :=
  let core := s.coreOf i
  let l1 := s.l1Core core h.pa
  let block := h.pa / 256
  let t := if wb then s.joinG (.split i) (s.core l1).evw else s
  match t.l1Entry l1 block with
  | none => t
  | some e =>
    let u := if wb && e.dirty != 0 then
        (t.sendMem { t.splitReq i (.writeBack e.dirty e.blockData) [h] 0 [{ lane := h.lane, va := h.va / 256 * 256, pa := block * 256 }] with
          leaf := { h.leaf with key := e.key } }).1
      else t
    if inv then u.setL1 l1 block none
    else if wb && e.dirty != 0 then u.setL1 l1 block (some { e with mode := .untracked 0 })
    else u

/-- A cache-control word: a block with dirty bytes that it writes back is checked, and accepted by its home, as a store is (R189, R239); a helper
lane that fails is left out (R172). -/
def ccBody (w : CcF) (wb inv : Bool) (i : Nat) (s : State) : State × Out :=
  withRegs (s.addrRegs i true w.a w.b) (fun i s =>
    match s.checkLanes i .global 1 .load false false (s.globalAddr i w.a w.b) with
    | (t, .trap c v) => (t, .trap c v)
    | (t, .wait) => (t, .wait t.memWait)
    | (t, .ok hs _) =>
      let core := s.coreOf i
      let dirty (h : Hit) : Bool := match t.l1Entry (t.l1Core core h.pa) (h.pa / 256) with
        | some e => e.dirty != 0
        | none => false
      let hot := if wb then hs.filter dirty else []
      let r := lookupLanes i .store 0 1 true (s.helpersOf i) (hot.map (fun h => (h.lane, h.va))) { s := t, hits := [], poisoned := [], bad := none, later := false }
      match r.bad with
      | some (c, va, l) => (r.s.logXlat core 3 c va, .trap c (addrVal va l))
      | none =>
        if r.later then (r.s.unlogged s, .wait r.s.memWait)
        else if s.unsettled i then (r.s, .wait .settled)
        else
          let ok := (hs.filter (fun h => !r.poisoned.contains h.lane)).map (fun h => (r.hits.find? (fun k => k.lane == h.lane)).getD h)
          (foldState ((blocksOf ok).filterMap List.head?) (ccBlock i wb inv) r.s, .done [])) i s

/-- CC.WB (R189). -/
def execCcWb (w : CcF) (s : State) : Host.Outcome State Fault Refusal := issueWord w.s (ccBody w true false) s

/-- CC.INV (R189). -/
def execCcInv (w : CcF) (s : State) : Host.Outcome State Fault Refusal := issueWord w.s (ccBody w false true) s

/-- CC.WBINV (R189). -/
def execCcWbinv (w : CcF) (s : State) : Host.Outcome State Fault Refusal := issueWord w.s (ccBody w true true) s

/-- Whether a prefetch of a block has nothing to do: dirty bytes are left alone, and a copy of the whole block is there already. -/
def State.prefetched (s : State) (core : Nat) (h : Hit) : Bool :=
  match s.l1Entry (s.l1Core core h.pa) (h.pa / 256) with
  | some e => e.dirty != 0 || s.l1Hit core e { block := h.pa / 256, first := 0, count := 64 } h.leaf
  | none => false

/-- PF (R189): a lane that would fail a check, or whose walk cannot end at once, is dropped; nobody waits for what it sends. -/
def execPf (w : CcF) (s : State) : Host.Outcome State Fault Refusal :=
  issueWord w.s (fun i s =>
    withRegs (s.addrRegs i true w.a w.b) (fun i s =>
      let g := s.wgOf i
      let lanes := (lanesIn (s.widthOf i) (s.execMask i)).map (fun l => (l, s.globalAddr i w.a w.b l))
      let good := (lanes.filter (fun p => (s.earlyCheck i .global 1 p.2 p.1).isNone)).map (fun p => (p.1, p.2.addr))
      let every := onesMask 128
      let r := lookupLanes i .load 0 1 false every good { s := s, hits := [], poisoned := [], bad := none, later := false }
      let send (h : Hit) (t : State) : State :=
        if t.prefetched g.core h then t
        else
          (t.sendMem { t.splitReq i .prefetch [h] 0 [{ lane := h.lane, va := h.va / 256 * 256, pa := h.pa / 256 * 256 }] with party := .device }).1
      (foldState ((blocksOf r.hits).filterMap List.head?) send r.s, .done [])) i s) s

end Sys2Proof.Machine
end

