-- ==== Sys2Proof/Machine/HomeSteps.lean ====
section
/-! DEFINITION. What the homes do on their own (R192 to R196, R203 to R206, R212 to R214): they serve reads, writes and atomics and
answer them, owners release spans, lease records are freed, and an L1 drops a span (R178). -/

namespace Sys2Proof.Machine

/-- A request by its number. -/
def State.memReq (s : State) (id : Nat) : Option MemReq :=
  s.reqs.findSome? (fun q => match q with
    | .mem r => if r.id == id then some r else none
    | _ => none)

/-- Change a request. -/
def State.setReq (s : State) (r : MemReq) : State :=
  { s with reqs := s.reqs.map (fun q => match q with
    | .mem p => if p.id == r.id then .mem r else q
    | q => q) }

/-- The answer of a request reaches a spoke: the register is written and the context goes on (R303, R305). -/
def answerSpoke (p : Party) (id rd v : Nat) (s : State) : State :=
  match p, s.ctxPhase p with
  | .spoke g st, .retest (.answered k) =>
    if k == id then
      (s.setCtxReg p rd (BitVec.ofNat 64 v)).modSpoke g st (fun c => { c with phase := .ready, instret := (c.instret + 1) % 2 ^ 64 })
    else s
  | _, _ => s

/-- A value sign-extended from n bytes to 64 bits. -/
def signExtend64 (n x : Nat) : Nat := if Nat.ble (2 ^ (8 * n - 1)) x then x + (2 ^ 64 - 2 ^ (8 * n)) else x

/-- What an answer does besides its values: the request is gone, and the time it brings joins CT.G. -/
def closeReq (r : MemReq) (t : Nat) (s : State) : State := (s.dropReq r.id).joinG r.party t

/-- The answer to a load (R170, R196, R214): each lane's bytes or its cause. -/
def answerRead (r : MemReq) (v : Nat) (bytes : LaneReq → Nat ⊕ List Byte) (s : State) : State :=
  let got := r.lanes.map (fun l => (l, bytes l))
  let failed := got.filterMap (fun g => match g.2 with
    | .inl c => some (g.1, c)
    | .inr _ => none)
  let t := closeReq r v s
  let t1 := match failed with
    | f :: _ => t.recordHome r.core r.cls f.2 f.1.pa
    | [] => t
  match r.party, r.op with
  | .split i, .load n conv reg =>
    match (if mrPX r.mr then failed.find? (fun f => !(s.helpersOf i).getLsbD f.1.lane) else none) with
    | some f => wordTrap i r.pc r.mr f.2 (addrVal f.1.va f.1.lane) t1
    | none =>
      let rows := helperRows r.mr (s.helpersOf i) <| got.map (fun g => match g.2 with
        | .inl _ => (g.1.lane, List.replicate (regsOf n) PWord.poison, ({} : Flags))
        | .inr bs => let w := loadWords conv r.mr bs; (g.1.lane, w.1.map PWord.val, w.2))
      match loadTrap r.mr (rows.map (fun x => (x.1, x.2.2))) with
      | some val => wordTrap i r.pc r.mr 0x065 val t1
      | none => t1.fill i r.id (loadHeld (s.widthOf i) reg (regsOf n) (rows.map (fun x => (x.1, x.2.1))))
  | .spoke g st, .xload n unsigned rd =>
    match got with
    | (_, .inr bs) :: _ =>
      let x := natOfBytes bs
      answerSpoke (.spoke g st) r.id rd (if unsigned then x else signExtend64 n x) t1
    | (l, .inl c) :: _ => haltCtx (.spoke g st) c r.pc l.va t1
    | [] => t1
  | .spoke g st, .xlr n rd =>
    match got with
    | (l, .inr bs) :: _ =>
      let u := t1.modSpoke g st (fun c =>
        { c with resv := some { scratch := false, addr := l.pa, n := n, time := s.nowCore r.core } })
      answerSpoke (.spoke g st) r.id rd (signExtend64 n (natOfBytes bs)) u
    | (l, .inl c) :: _ => haltCtx (.spoke g st) c r.pc l.va t1
    | [] => t1
  | _, _ => t1

/-- A cause that a lane of a refused load meets when it is walked again (R181, R240): the split or spoke takes it at the word, whose group is still
open; a request nobody waits for is dropped. A translation cause is logged (R246). -/
def failXlat (r : MemReq) (l : LaneReq) (cause : Nat) (s : State) : State :=
  let t := if cause == 0x068 then s.dropReq r.id else (s.dropReq r.id).logXlat r.core r.cls cause l.va
  match r.party with
  | .split i => wordTrap i r.pc r.mr cause (addrVal l.va l.lane) t
  | .spoke g st => haltCtx (.spoke g st) cause r.pc l.va t
  | _ => t

/-- What the lanes of a refused request come to when they are walked again: those with a leaf, the helper lanes that take poison (R172), the lowest
lane that meets a cause, and whether a walk has still to end. -/
structure Rewalked where
  s : State
  lanes : List (LaneReq × Leaf) := []
  poisoned : List Nat := []
  bad : Option (Nat × LaneReq) := none
  later : Bool := false
  deriving DecidableEq, Repr

/-- Translate every lane of a refused request again (R193, R240). -/
def rewalkLanes (r : MemReq) (helpers : Mask) (s : State) : Rewalked :=
  r.lanes.foldl (fun w x =>
    match w.s.translate r.core r.root r.rgen x.va r.acc r.prv with
    | (t, .leaf l) =>
      if !(r.strict && l.m) then { w with s := t, lanes := w.lanes ++ [({ x with pa := l.at x.va }, l)] }
      else if helpers.getLsbD x.lane then { w with s := t, poisoned := w.poisoned ++ [x.lane] }
      else { w with s := t, bad := some (w.bad.getD (0x068, x)) }
    | (t, .fault c) =>
      if helpers.getLsbD x.lane then { w with s := t.logXlat r.core r.cls c x.va, poisoned := w.poisoned ++ [x.lane] }
      else { w with s := t, bad := some (match w.bad with
        | some b => if b.1 == 0x068 then (c, x) else b
        | none => (c, x)) }
    | (t, _) => { w with s := t, later := true }) { s := s }

/-- Send a refused request again, as one request for each block and page that its lanes have reached (R173, R193): they take its place among the
requests and its results, and the helper lanes that have failed take poison. -/
def resend (r : MemReq) (w : Rewalked) : State :=
  let parts := (w.lanes.map (fun p => (p.1.pa / 256, p.2))).eraseDups
  let ids := (List.range parts.length).map (fun k => if k == 0 then r.id else w.s.nextId + (k - 1))
  let reqs := (parts.zip ids).map (fun p =>
    let lanes := (w.lanes.filter (fun x => x.1.pa / 256 == p.1.1 && x.2 == p.1.2)).map Prod.fst
    Req.mem { r with id := p.2, leaf := p.1.2, lanes := lanes, refused := true, l1 := w.s.l1Core r.core ((lanes.map (fun l => l.pa)).headD 0) })
  let t : State := { w.s with
    nextId := w.s.nextId + (parts.length - 1)
    reqs := w.s.reqs.flatMap (fun q => if q.id == r.id then reqs else [q]) }
  match r.party, r.op with
  | .split i, .load n _ reg =>
    let lost := w.poisoned.map (fun l => (l, List.replicate (regsOf n) PWord.poison))
    if parts.length == 1 && lost.isEmpty then stopSweep (t.wgIdxOf i) t
    else t.fill i r.id ((if lost.isEmpty then [] else loadHeld (t.widthOf i) reg (regsOf n) lost) ++ ids.map Held.await)
  | _, _ => t

/-- A refused request is translated again and sent again (R240); one that a software-managed page refuses raises 0x068 there (R181). -/
def rewalk (r : MemReq) (s : State) : State :=
  let helpers := match r.party with
    | .split i => s.helpersOf i
    | _ => 0
  let w := rewalkLanes r helpers (s.dropXlat r.core (fun x => x.leaf == r.leaf))
  if w.later then
    let t := ({ w.s with dies := s.dies }).setReq { r with refused := true }
    match r.party with
    | .split i => stopSweep (t.wgIdxOf i) t
    | _ => t
  else
    match w.bad with
    | some b => failXlat r b.2 b.1 w.s
    | none => resend r w

/-- The requests for one block of one L1 that one read of the home answers (R175). -/
def State.readGroup (s : State) (r : MemReq) : List MemReq :=
  if !r.cacheable then [r]
  else s.reqs.filterMap (fun q =>
    match q with
    | .mem q =>
      if q.id == r.id || (q.merges r && q.fail.isNone && !s.blockedBy q) then some q else none
    | _ => none)

/-- The bytes of an entry with those that an accepted store or write-back will leave over them (R197). -/
def MemReq.over (q : MemReq) (e : L1Entry) : L1Entry :=
  match q.op with
  | .store n => q.lanes.foldl (fun y l => y.patch l.pa (bytesOfNat n l.data)) e
  | .writeBack dirty data => (dirtyRuns dirty data).foldl (fun y b => y.patch (q.span.block * 256 + b.1) b.2) e
  | _ => e

/-- Fill an L1 with a span that a read has brought (R173, R194, R197): the stores the L1 has accepted stand over it, and what the L1 does
not keep a copy of, or has no room for, is not filled. An entry with dirty bytes keeps the page of the store that wrote them. -/
def fillL1 (r : MemReq) (sp : Span) (bs : List Byte) (v : Nat) (expiry : Option Nat) (s : State) : State :=
  let base : L1Entry :=
    { span := sp, mode := .untracked 0, data := bs, home := homeDie sp.base, v := v, key := r.leaf.key, first := r.policy == 2, leaf := r.leaf
      va := (r.lanes.headD { lane := 0, va := 0, pa := 0 }).va, root := r.root, rgen := r.rgen }
  let ws := s.acceptedWrites r.l1 sp
  let seen := ws.foldl (fun x q => q.over x) base
  if r.leaf.m then
    match s.l1Entry r.l1 sp.block with
    | some e =>
      (s.keepL1 r.l1 (if e.isLeased then seen else
        let x : L1Entry := { (seen.patch e.span.base e.data) with mode := e.mode, first := e.first || base.first }
        if e.dirty == 0 then x else { x with leaf := e.leaf, va := e.va, root := e.root, rgen := e.rgen })).1
    | none => (s.keepL1 r.l1 seen).1
  else
    let plain (q : MemReq) : Bool := q.policy == 0 && q.leaf.key == r.leaf.key && (match q.op with
      | .store _ => true
      | _ => false)
    match expiry with
    | some e =>
      if ws.all plain then
        match s.keepL1 r.l1 { seen with mode := .leased e } with
        | (t, true) => t
        | (t, false) => t.dropL1 r.l1 sp
      else s.dropL1 r.l1 sp
    | none => s.dropL1 r.l1 sp

/-- The span that a read fetches: what its group needs, with what the L1 holds of the block in the same way (R173, R175). -/
def State.readSpan (s : State) (r : MemReq) : Span :=
  let need := (s.readGroup r).foldl (fun sp q => sp.union q.span) r.span
  match s.l1Entry r.l1 need.block with
  | some e => if r.cacheable && e.key == r.leaf.key && e.isLeased == !r.leaf.m then need.union e.span else need
  | none => need

/-- HOME_READ (R194): serve a read, or send it back to be translated again. -/
def execHomeRead (id : Nat) (s : State) : Host.Outcome State Fault Refusal :=
  match s.memReq id with
  | none => .next s
  | some r =>
    if r.op.writes || s.blockedBy r then .next s
    else
      match (match r.fail with
        | some c => some c
        | none => s.wholeCause r.pa) with
      | some c => .next (answerRead r (s.failTime r.pa (dieOfCore r.core)) (fun _ => .inl c) s)
      | none =>
        if s.stale r.leaf r.pa then .next (rewalk r s)
        else
          let d := dieOfCore r.core
          let group := s.readGroup r
          let sp := s.readSpan r
          let n := 4 * sp.count
          if s.homeBusy d false sp.base n r.party then .next (s.prompt false sp.base n)
          else
            let v := s.readV sp
            let bad := (granulesOf sp.base n).any (fun g => s.ecc.contains g)
            let (t, expiry) := if r.cacheable && !r.leaf.m then s.grant d sp r.leaf.lease else (s, none)
            let u := if r.cacheable && !(r.leaf.m && bad) then fillL1 r sp (s.readMem r.leaf.key sp.base n) v expiry t
              else t.dropL1 r.l1 sp
            let lane (k : Nat) (l : LaneReq) : Nat ⊕ List Byte :=
              match s.homeCause l.pa k with
              | some c => .inl c
              | none => .inr (s.seenBytes r.l1 r.leaf l.pa k)
            .next (foldState group (fun q z => answerRead q v (lane q.op.bytes) z) u)

/-- A write whose home is gone is dropped: its time is that of the failure, and the cause is recorded (R212, R213). -/
def dropWrite (r : MemReq) (cause : Nat) (s : State) : State :=
  closeReq r (s.failTime r.pa (dieOfCore r.core)) (s.recordHome r.core r.cls cause r.pa)

/-- SC at a home (R307). -/
def storeConditional (r : MemReq) (n rd : Nat) (s : State) : State :=
  let l := r.lanes.headD { lane := 0, va := 0, pa := 0 }
  match r.party with
  | .spoke g st =>
    let held := match (s.spoke g st).resv with
      | some v => !v.scratch && Nat.ble v.addr l.pa && Nat.ble (l.pa + n) (v.addr + v.n) && Nat.blt (s.nowCore r.core) (v.time + 64000)
      | none => false
    let t := s.modSpoke g st (fun c => { c with resv := none })
    if held then
      let w := t.homeStore r.leaf.key l.pa (bytesOfNat n l.data)
      answerSpoke r.party r.id rd 0 (closeReq r w.2 w.1)
    else answerSpoke r.party r.id rd 1 (closeReq r 0 t)
  | _ => s.dropReq r.id

/-- HOME_WRITE (R196): apply a store, a write-back or a store-conditional and return W. The home has compared the generation as the write was
sent (R193), and no generation moves while an accepted write waits (R243; log entry 11). -/
def execHomeWrite (id : Nat) (s : State) : Host.Outcome State Fault Refusal :=
  match s.memReq id with
  | none => .next s
  | some r =>
    let isWrite := match r.op with
      | .store _ | .writeBack _ _ | .xsc _ _ => true
      | _ => false
    if !isWrite || s.blockedBy r then .next s
    else
      match (match r.fail with
        | some c => some c
        | none => s.wholeCause r.pa) with
      | some c =>
        match r.op, r.party with
        | .xsc _ rd, .spoke g st => .next (answerSpoke r.party r.id rd 1 (dropWrite r c (s.modSpoke g st (fun x => { x with resv := none }))))
        | _, _ => .next (dropWrite r c s)
      | none =>
        if s.homeBusy (dieOfCore r.core) true r.pa (4 * r.span.count) r.party then .next (s.prompt true r.pa (4 * r.span.count))
        else
          match r.op with
          | .store n =>
            let w := s.homeStores r.leaf.key (r.lanes.map (fun l => (l.pa, bytesOfNat n l.data)))
            .next (closeReq r w.2 w.1)
          | .writeBack dirty data =>
            let w := s.homeStores r.leaf.key ((dirtyRuns dirty data).map (fun p => (r.span.block * 256 + p.1, p.2)))
            .next (closeReq r w.2 w.1)
          | .xsc n rd => .next (storeConditional r n rd s)
          | _ => .next s

/-- One lane of an atomic at its home (R183): the state, the old value or its cause, and W. An uncorrectable word is left alone (R213). -/
def atomicLane (r : MemReq) (fn : AtomFn) (n : Nat) (l : LaneReq) (s : State) : State × (Nat ⊕ Nat) × Nat :=
  match s.homeCause l.pa n with
  | some c => (s, .inl c, s.failTime l.pa (dieOfCore r.core))
  | none =>
    let old := s.readNat r.leaf.key l.pa n
    let new := atomNew fn n old l.data l.cmp
    if fn == .cas && old != l.cmp then (s, .inr old, s.homeTime l.pa n)
    else let w := s.homeStore r.leaf.key l.pa (bytesOfNat n new); (w.1, .inr old, w.2)

/-- The answer of an atomic (R183, R212 to R214). -/
def answerAtomic (r : MemReq) (got : List (LaneReq × (Nat ⊕ Nat))) (n time : Nat) (s : State) : State :=
  let failed := got.filterMap (fun g => match g.2 with
    | .inl c => some (g.1, c)
    | .inr _ => none)
  let t := closeReq r time s
  let t1 := match failed with
    | f :: _ => t.recordHome r.core r.cls f.2 f.1.pa
    | [] => t
  match r.party, r.op with
  | .split i, .atomic _ _ (some reg) =>
    match (if mrPX r.mr then failed.head? else none) with
    | some f => wordTrap i r.pc r.mr f.2 (addrVal f.1.va f.1.lane) t1
    | none =>
      let rows := got.map (fun g => (g.1.lane, match g.2 with
        | .inl _ => List.replicate (n / 4) PWord.poison
        | .inr old => if g.1.poison then List.replicate (n / 4) .poison
          else (List.range (n / 4)).map (fun j => .val (BitVec.ofNat 32 (old / 2 ^ (32 * j))))))
      t1.fill i r.id (loadHeld (s.widthOf i) reg (n / 4) rows)
  | .spoke g st, .xamo _ _ rd =>
    match got with
    | (_, .inr old) :: _ => answerSpoke (.spoke g st) r.id rd (signExtend64 n old) t1
    | (l, .inl c) :: _ => haltCtx (.spoke g st) c r.pc l.va t1
    | [] => t1
  | _, _ => t1

/-- HOME_ATOMIC (R183): perform an atomic, its lanes in ascending order, and return the old values and W; its generation has been compared as it
was sent. -/
def execHomeAtomic (id : Nat) (s : State) : Host.Outcome State Fault Refusal :=
  match s.memReq id with
  | none => .next s
  | some r =>
    match (match r.op with
      | .atomic fn n _ => some (fn, n)
      | .xamo fn n _ => some (fn, n)
      | _ => none) with
    | none => .next s
    | some (fn, n) =>
      if s.blockedBy r then .next s
      else
        match (match r.fail with
          | some c => some c
          | none => s.wholeCause r.pa) with
        | some c => .next (answerAtomic r (r.lanes.map (fun l => (l, .inl c))) n (s.failTime r.pa (dieOfCore r.core)) s)
        | none =>
          if s.homeBusy (dieOfCore r.core) true r.pa (4 * r.span.count) r.party then .next (s.prompt true r.pa (4 * r.span.count))
          else
            let p := r.lanes.foldl (fun (p : State × List (LaneReq × (Nat ⊕ Nat)) × Nat) l =>
              let q := atomicLane r fn n l p.1
              (q.1, p.2.1 ++ [(l, q.2.1)], max p.2.2 q.2.2)) (s, [], 0)
            .next (answerAtomic r p.2.1 n p.2.2 p.1)

/-- The writes of discarded parties that have been under way for 500 ns (R344). -/
def State.overdue (s : State) : List MemReq :=
  s.reqs.filterMap (fun q => match q with
    | .mem r => if r.op.writes && r.gone.any (fun t => Nat.ble (t + 8000) (s.nowCore r.core)) then some r else none
    | _ => none)

/-- A write of a discarded party is over: its home has applied it by now, or drops it (R344). -/
def settleOrphan (r : MemReq) (s : State) : State :=
  match (match r.op with
    | .atomic _ _ _ | .xamo _ _ _ => execHomeAtomic r.id s
    | _ => execHomeWrite r.id s) with
  | .next t => t.dropReq r.id
  | _ => s.dropReq r.id

/-- What the answers of a word that traps, or of a later one, have brought is discarded (R31). -/
def cutHeld (i pc : Nat) (s : State) : State := s.modSplit i (fun x => { x with held := x.held.takeWhile (fun h => h != .mark pc) })

/-- RESULT_RETURN (R28): every answer of a closed group is back, so its results are written and the split goes on, or takes the cause
that an answer brought. -/
def execResultReturn (i : Nat) (s : State) : Host.Outcome State Fault Refusal :=
  let x := s.split i
  if x.live && x.phase == .parked .group && !x.awaiting then
    match x.pend with
    | some t => .next (enterTrap i t (commitGroup i (cutHeld i t.pc s)))
    | none => .next (commitGroup i s)
  else .next s

/-! ## Owners (R203 to R205) -/

/-- Whether an owner has issued writes to its span that have not been applied. -/
def State.ownerBusy (s : State) (o : Owner) : Bool :=
  match o.agent with
  | .copy k =>
    match s.copies[k]? with
    | some c => c.live && c.flight.any (fun u => u.span.overlaps o.span)
    | none => false
  | _ => false

/-- The completion time of a release reaches the owner (R203). -/
def ownerTime (o : Owner) (c : Nat) (s : State) : State :=
  match o.agent with
  | .copy k =>
    match s.copies[k]? with
    | some x => s.modWg x.wg (fun w =>
        { w with entries := w.entries.modify x.h (fun e => { e with cdone := max e.cdone c }), report := max w.report c })
    | none => s
  | p => s.joinG p c

/-- What the release of a span leaves (R203, R205): C is computed with the latest E over a span that was written. -/
def releaseOf (o : Owner) (s : State) : State :=
  let c := s.releaseTime o
  ownerTime o c (s.stampWL o.span c)

/-- Release one span (R203, R205). -/
def releaseSpan (i : Nat) (s : State) : State :=
  match s.owners[i]? with
  | none => s
  | some o => releaseOf o { s with owners := s.owners.eraseIdx i }

/-- An agent that stops releases its spans at once (R205): those of the owners that a test picks. -/
def releaseAll (p : Owner → Bool) (s : State) : State :=
  foldState (s.owners.filter p) releaseOf { s with owners := s.owners.filter (fun o => !p o) }

/-- SPAN_RELEASE (R203). -/
def execSpanRelease (i : Nat) (s : State) : Host.Outcome State Fault Refusal :=
  match s.owners[i]? with
  | some o => if s.ownerBusy o then .next s else .next (releaseSpan i s)
  | none => .next s

/-- RECALL (R204): the owner releases the span once the writes it has issued to it have been applied. -/
def execRecall (i : Nat) (s : State) : Host.Outcome State Fault Refusal :=
  match s.owners[i]? with
  | some o =>
    let t := if o.recalled then s else pmCount (homeDie o.span.base) 0x07 0 1 s
    if s.ownerBusy o then .next { t with owners := s.owners.set i { o with recalled := true } } else .next (releaseSpan i t)
  | none => .next s

/-- LEASE_RECORD_FREE (R195): a record is freed once neither its expiry nor its completion time lies ahead. -/
def execLeaseRecordFree (i : Nat) (s : State) : Host.Outcome State Fault Refusal :=
  match s.leases[i]? with
  | some l => if Nat.ble (max l.e l.wl) (s.nowDie (homeDie l.span.base)) then .next { s with leases := s.leases.eraseIdx i } else .next s
  | none => .next s

/-- L1_SPAN_DROP (R178): a leased span is dropped at any time; an untracked one is evicted, one allocated under `.ef` before any other, whether this
is leased or not, its dirty bytes written to the home, and EVW keeps the time. -/
def execL1SpanDrop (core i : Nat) (s : State) : Host.Outcome State Fault Refusal :=
  match (s.core core).l1[i]? with
  | none => .next s
  | some e =>
    if e.isLeased || e.first || !(s.core core).l1.any (fun x => x.first) then .next (evict core e s).1 else .next s

end Sys2Proof.Machine
end

