-- ==== Sys2Proof/Machine/TimeWords.lean ====
section
/-! DEFINITION. The words of majors 0x28, 0x29 and 0x2A: time and locality (R226 to R230), completion times and region modes (R207 to
R209), generations and translation (R242 to R244); and the steps of the translation engine (R237, R238). -/

namespace Sys2Proof.Machine

/-! ## Time and locality (R226 to R230) -/

/-- TIME (R227): sampled as the word issues. -/
def execTime (w : SD) (s : State) : Host.Outcome State Fault Refusal :=
  issueWord w.s (fun i s => (s, .done (pairSet w.d.toNat (s.nowOf i)))) s

/-- TWAIT (R228). -/
def execTwait (w : SA) (s : State) : Host.Outcome State Fault Refusal :=
  issueWord true (fun i s =>
    match s.spair i w.a.toNat with
    | none => (s, if mrPX (s.split i).mr then .trap 0x0C1 0 else .done [])
    | some t =>
      if Nat.blt (s.nowOf i + 2 ^ 36) t then (s, .trap 0x0C2 (t % 2 ^ 32))
      else if Nat.blt (s.nowOf i) t then (s, .wait (.time t))
      else (s, .done [])) s

/-- MTEPS (R227). -/
def execMteps (w : MtepsF) (s : State) : Host.Outcome State Fault Refusal :=
  issueWord w.s (fun i s => (s, .done [.sset w.d.toNat (.val (BitVec.ofNat 32 (s.eps (dieOfCore (s.coreOf i)) w.c.toNat)))])) s

/-- The word LOCQ writes for a leaf (R229). -/
def State.locqWord (s : State) (d : Nat) (l : Leaf) (pa : Nat) : Nat :=
  match homeOf pa with
  | .none => 0
  | h =>
    let hd := homeDie pa
    let host := isHost pa
    let lost := !host && (s.die hd).lost.isSome
    let hops := if host || lost then 15 else (s.hops d hd).getD 15
    let slice := match h with
      | .dram _ k => k
      | .host k => k
      | .none => 0
    2 ^ 31 + hops * 2 ^ 20 + host.toNat * 2 ^ 19 + lost.toNat * 2 ^ 18 + l.m.toNat * 2 ^ 17 + l.lease * 2 ^ 15 + slice * 2 ^ 11 + hd * 2 ^ 8

/-- Run a word's lanes in ascending order over the state: each answers a value, or asks to wait. -/
def eachLane (f : Nat → State → State × Option (List PWord)) : List Nat → State → State × Option (List (Nat × List PWord))
  | [], s => (s, some [])
  | l :: ls, s =>
    match f l s with
    | (t, none) => (t, none)
    | (t, some v) =>
      match eachLane f ls t with
      | (u, some vs) => (u, some ((l, v) :: vs))
      | (u, none) => (u, none)

/-- The lowest executing lane whose address pair is poisoned, when MR.PX is set. -/
def State.poisonLane (s : State) (i r : Nat) : Option Nat :=
  if mrPX (s.split i).mr then (lanesIn (s.widthOf i) (s.execMask i)).find? (fun l => (s.vpair i r l).isNone) else none

/-- LOCQ (R229): it makes no access and raises no cause but that of poison. -/
def execLocq (w : VDA) (s : State) : Host.Outcome State Fault Refusal :=
  issueWord w.s (fun i s =>
    withRegs [w.d.toNat, w.a.toNat, w.a.toNat + 1] (fun i s =>
      match s.poisonLane i w.a.toNat with
      | some l => (s, .trap 0x0C1 l)
      | none =>
        let g := s.wgOf i
        let d := dieOfCore g.core
        let lane (l : Nat) (t : State) : State × Option (List PWord) :=
          match t.vpair i w.a.toNat l with
          | none => (t, some [.poison])
          | some va =>
            if Nat.ble (2 ^ 56) va then (t, some [.val 0])
            else
              match t.translate g.core g.troot g.trgen va .load (t.split i).prv with
              | (u, .leaf k) => (u, some [.val (BitVec.ofNat 32 (u.locqWord d k (k.at va)))])
              | (u, .fault c) => (u.logXlat g.core 3 c va, some [.val 0])
              | (u, _) => (u, none)
        match eachLane lane (lanesIn (s.widthOf i) (s.execMask i)) s with
        | (t, some rows) => (t, .done (if rows.isEmpty then [] else loadHeld (s.widthOf i) w.d.toNat 1 rows))
        | (t, none) => (t.unlogged s, .wait t.memWait)) i s) s

/-- LOCQ.SELF (R230). -/
def execLocqSelf (w : SD) (s : State) : Host.Outcome State Fault Refusal :=
  issueWord w.s (fun i s =>
    let core := s.coreOf i
    let d := dieOfCore core
    let site := if (s.split i).prv then siteOfDie s.spare d else 0
    let v := site * 2 ^ 18 + clusterOfCore core * 2 ^ 13 + d * 2 ^ 10 + (s.warpOf i).part * 2 ^ 8 + core
    (s, .done [.sset w.d.toNat (.val (BitVec.ofNat 32 v))])) s

/-! ## Completion times (R207) -/

/-- CTRD waits until every earlier access of the split has returned its time (R207). -/
def ctrdWord (d : Nat) (f : Split → Nat) (s : State) : Host.Outcome State Fault Refusal :=
  issueWord true (fun i s =>
    if s.outstanding (.split i) || (s.split i).awaiting then (s, .wait .returned) else (s, .done (pairSet d (f (s.split i))))) s

/-- CTRD.L (R207). -/
def execCtrdL (w : SD) (s : State) : Host.Outcome State Fault Refusal := ctrdWord w.d.toNat (fun x => x.ctl) s

/-- CTRD.G (R207). -/
def execCtrdG (w : SD) (s : State) : Host.Outcome State Fault Refusal := ctrdWord w.d.toNat (fun x => x.ctg) s

/-- CTJOIN (R207): it takes effect at issue, which is after the loads of its group have met their causes (R31). -/
def execCtjoin (w : SA) (s : State) : Host.Outcome State Fault Refusal :=
  issueWord w.s (fun i s =>
    match s.spair i w.a.toNat with
    | none => (s, if mrPX (s.split i).mr then .trap 0x086 0 else .done [])
    | some t => afterLoads (fun i s => ((s.joinG (.split i) t).joinL (.split i) t, .done [])) i s) s

/-! ## Runs of frames (R208, R243) -/

/-- A run of 64 KiB frames. -/
structure Run where
  base : Nat
  n : Nat
  deriving DecidableEq, Repr

/-- The addresses of a run's frames. -/
def Run.frames (r : Run) : List Nat := (List.range r.n).map (fun k => r.base + k * 65536)

/-- Whether a run holds an address. -/
def Run.has (r : Run) (pa : Nat) : Bool := Nat.ble r.base pa && Nat.blt pa (r.base + r.n * 65536)

/-- The base of a run and whether every part of the operands is as it must be (sB may be a literal, R34); bits [30:16] are the mode and reserved bits. -/
def State.runOf (s : State) (i a : Nat) (b : BitVec 6) : Nat × Option (Run × Bool) :=
  let x := s.split i
  let base := (x.sreg a).bits.toNat + (x.sreg (a + 1)).bits.toNat * 2 ^ 32
  let k := s.sbsrc i b
  let c := k.bits.toNat
  let ok := !(x.sreg a).isPoison && !(x.sreg (a + 1)).isPoison && !k.isPoison && base % 65536 == 0 && Nat.blt base (2 ^ 52) &&
    c / 2 ^ 16 % 2 ^ 15 == 0
  (base, if ok then some ({ base := base, n := c % 2 ^ 16 + 1 }, c / 2 ^ 31 == 1) else none)

/-- The frames of a run whose home is not lost. -/
def State.liveFrames (s : State) (r : Run) : List Nat := r.frames.filter (fun f => isHost f || (s.die (homeDie f)).lost.isNone)

/-- Whether an address of a run lies in a frame whose home is not lost. -/
def State.runLive (s : State) (r : Run) (pa : Nat) : Bool := r.has pa && (isHost pa || (s.die (homeDie pa)).lost.isNone)

/-- Whether something must still happen before the live homes of a run can be swept: a route, an owner's issued writes, a host snoop, or a write
that a home has accepted. -/
def State.runBusy (s : State) (d : Nat) (r : Run) : Bool :=
  (s.liveFrames r).any (fun f => s.noRoute d (homeDie f)) ||
  s.owners.any (fun o => s.runLive r o.span.base && s.ownerBusy o) ||
  s.hheld.any (fun b => s.runLive r (b * 256)) ||
  s.reqs.any (fun q => match q with
    | .mem q => q.op.writes && s.runLive r q.pa
    | _ => false)

/-- What a run that waits asks for: recalls of its owners, back-invalidate snoops of its blocks. -/
def State.promptRun (s : State) (r : Run) : State :=
  let t := foldState (s.owners.filter (fun o => s.runLive r o.span.base && !o.recalled)) (fun o z => pmCount (homeDie o.span.base) 0x07 0 1 z) s
  { t with
    owners := s.owners.map (fun o => if s.runLive r o.span.base then { o with recalled := true } else o)
    hbinv := s.hbinv ++ s.hheld.filter (fun b => s.runLive r (b * 256) && !s.hbinv.contains b)
    stall := .run r.base r.n }

/-- Owners of a run release their spans (R204); those at a lost home keep them. -/
def releaseRun (r : Run) (s : State) : State :=
  (List.range s.owners.length).reverse.foldl (fun t i =>
    match t.owners[i]? with
    | some o => if s.runLive r o.span.base then releaseSpan i t else t
    | none => t) s

/-- The latest E and WL over a run. -/
def State.runTime (s : State) (r : Run) : Nat := s.leases.foldl (fun m l => if r.has l.span.base then max m (max l.e l.wl) else m) 0

/-- Advance the generation of frames; `m` gives the mode they take, or leaves it. -/
def bumpFrames (fs : List Nat) (m : Option Bool) (s : State) : State :=
  foldState fs (fun f t => let g := t.genOf f; t.setGen f ((g.1 + 1) % 2 ^ 16) (m.getD g.2)) s

/-- The sweep of a run in the L1 of one core (R208): its dirty spans are written back, then every span and translation of the run is dropped. The
latest W so far is none once a write-back has been held back. -/
def sweepL1 (r : Run) (core : Nat) (p : State × Option Nat) : State × Option Nat :=
  let q := (p.1.core core).l1.foldl (fun (q : State × Option Nat) e =>
    match q.2 with
    | some w =>
      if r.has e.span.base && e.dirty != 0 then
        match writeBackEntry core e q.1 with
        | (t, .ok v) => (t, some (max w v))
        | (t, _) => (t, none)
      else q
    | none => q) p
  (q.1.modCore core (fun c =>
    { c with l1 := c.l1.filter (fun e => !r.has e.span.base)
             xlat := c.xlat.filter (fun x => !(Nat.blt x.leaf.pa (r.base + r.n * 65536) && Nat.blt r.base (x.leaf.pa + 2 ^ x.leaf.lg))) }), q.2)

/-- Whether a request of a list is an access to a run, or another REGMODE, of which the device runs one at a time (R208). -/
def runInFlight (r : Run) (reqs : List Req) : Bool :=
  reqs.any (fun q => match q with
    | .mem q => r.has q.pa
    | .eng q => q.op == .regmode)

/-- REGMODE at the homes (R208): the sweep is one step, taken once the accesses in flight to the region have returned; else what it waits for is
asked for. Answers T. -/
def regmodeNow (d : Nat) (r : Run) (m : Bool) (before : List Req) (s : State) : State × Option Nat :=
  if s.runBusy d r || runInFlight r before then (s.promptRun r, none)
  else
    match (List.range 128).foldl (fun p c => sweepL1 r c p) (releaseRun r s, some 0) with
    | (t, some w) =>
      let u := bumpFrames (s.liveFrames r) (some m) t
      (u, some (max (max (s.nowDie d) w) (u.runTime r) + s.epsPkg d))
    | (t, none) => ({ s with hreqs := t.hreqs, hbinv := t.hbinv }, none)

/-- Send an operation of the issuing core to be performed once nothing holds it back: the group awaits its result (R139, R209). -/
def sendSys (i d : Nat) (op : EngOp) (vals : List Nat) (s : State) : State × Out :=
  let (id, t) := s.newId
  let x := s.split i
  let core := s.coreOf i
  (t.post (.eng { id := id, party := .split i, core := core, die := dieOfCore core, op := op, d := d, vals := vals, prv := x.prv, pc := x.pc, mr := x.mr }),
   .done [.await id])

/-- REGMODE (R208): past its operand checks it runs to completion at the homes (R209). -/
def execRegmode (w : SDAB) (s : State) : Host.Outcome State Fault Refusal :=
  issueWord true (privileged (fun i s =>
    match s.runOf i w.a.toNat w.b with
    | (base, none) => (s, .trap 0x083 base)
    | (base, some (r, m)) =>
      if r.frames.any (fun f => !isDram f || (m && s.isPool f)) then (s, .trap 0x083 base)
      else if (s.split i).awaiting then (s, .wait .loadsReturned)
      else
        match regmodeNow (dieOfCore (s.coreOf i)) r m s.reqs s with
        | (t, some time) => (t, .done (pairSet w.d.toNat time))
        | (t, none) => sendSys i w.d.toNat .regmode [r.base, r.n, m.toNat] t)) s

/-! ## Generations (R243, R244) -/

/-- The bump of GENINC and GENWAIT over a run: the new state and T (R243). -/
def genBump (d core : Nat) (r : Run) (s : State) : State × Nat :=
  let live := s.liveFrames r
  let t := bumpFrames live none (releaseRun r s)
  let u := match r.frames.find? (fun f => !live.contains f) with
    | some f => t.recordHome core 3 0x081 f
    | none => t
  let e := u.leases.foldl (fun m l =>
    if r.has l.span.base && (isHost l.span.base || (s.die (homeDie l.span.base)).lost.isNone) then max m (max l.e l.wl) else m) 0
  (u, max (s.nowDie d) e + s.epsPkg d)

/-- The checks of GENINC and GENWAIT and what they wait for. -/
def genCheck (a : Nat) (b : BitVec 6) (body : Run → Nat → State → State × Out) (i : Nat) (s : State) : State × Out :=
  match s.runOf i a b with
  | (base, none) => (s, .trap 0x0A6 base)
  | (base, some (r, m)) =>
    if m || r.frames.any (fun f => homeOf f == .none || s.isPool f) then (s, .trap 0x0A6 base)
    else if (s.split i).awaiting then (s, .wait .loadsReturned)
    else if s.runBusy (dieOfCore (s.coreOf i)) r || r.frames.any s.onHold then (s.promptRun r, .wait (.run r.base r.n))
    else body r i s

/-- GENINC (R243). -/
def execGeninc (w : SDAB) (s : State) : Host.Outcome State Fault Refusal :=
  issueWord true (privileged (genCheck w.a.toNat w.b (fun r i s =>
    let q := genBump (dieOfCore (s.coreOf i)) (s.coreOf i) r s
    (q.1, .done (pairSet w.d.toNat q.2))))) s

/-- GENWAIT (R243): the bump, then a wait at its word for T, which is its result. -/
def execGenwait (w : SDAB) (s : State) : Host.Outcome State Fault Refusal :=
  let i := s.who.split
  let g := s.wgIdxOf i
  match privileged (genCheck w.a.toNat w.b (fun r i s =>
      let q := genBump (dieOfCore (s.coreOf i)) (s.coreOf i) r s
      (q.1.modSplit i (fun x => { x with phase := .parked (.genwait q.2 w.d.toNat), woken := false }), .done []))) i s with
  | (t, .done _) => .next (stopSweep g t)
  | (t, .trap c v) => .next (raiseHere i c v t)
  | (t, .wait c) => .next (stopSweep g (parkRetest i c t))

/-- GENRD (R244): the entry of a frame that has no home is no rule's, so its value is free; that of a frame whose home die is lost is read as it stands
(DESIGN CHOICE, log entry 67). -/
def execGenrd (w : SDA) (s : State) : Host.Outcome State Fault Refusal :=
  issueWord w.s (privileged (fun i s =>
    match s.spair i w.a.toNat with
    | none => (s, if mrPX (s.split i).mr then .trap 0x0A7 0 else .done [.sset w.d.toNat .poison])
    | some pa =>
      let known := Nat.blt pa (2 ^ 52) && homeOf pa != .none
      let g := s.genOf pa
      if known then (s, .done [.sset w.d.toNat (.val (BitVec.ofNat 32 (g.2.toNat * 2 ^ 16 + g.1)))])
      else let (k, t) := s.fresh; (t, .done [.sset w.d.toNat (.val (Config.freeWord k))]))) s

/-- The two words XLAT writes (R244). -/
def xlatWords (va : Nat) (r : Nat ⊕ Leaf) : List PWord :=
  match r with
  | .inl c => [.val (BitVec.ofNat 32 c), .val 0]
  | .inr l =>
    let pa := l.at va
    let size := if l.lg == 16 then 0 else if l.lg == 21 then 1 else 2
    [.val (BitVec.ofNat 32 pa),
     .val (BitVec.ofNat 32 (2 ^ 31 + size * 2 ^ 29 + l.u.toNat * 2 ^ 28 + l.x.toNat * 2 ^ 27 + l.w.toNat * 2 ^ 26 + l.m.toNat * 2 ^ 25 +
       l.lease * 2 ^ 23 + pa / 2 ^ 32))]

/-- XLAT (R244). -/
def execXlat (w : VDA) (s : State) : Host.Outcome State Fault Refusal :=
  issueWord w.s (privileged (fun i s =>
    withRegs [w.d.toNat, w.d.toNat + 1, w.a.toNat, w.a.toNat + 1] (fun i s =>
      match s.poisonLane i w.a.toNat with
      | some _ => (s, .trap 0x0A7 0)
      | none =>
        let g := s.wgOf i
        let lane (l : Nat) (t : State) : State × Option (List PWord) :=
          match t.vpair i w.a.toNat l with
          | none => (t, some [.poison, .poison])
          | some va =>
            if Nat.ble (2 ^ 56) va then (t, some (xlatWords va (.inl 0x061)))
            else
              match t.walk (dieOfCore g.core) g.troot g.trgen va with
              | .leaf k =>
                let bad (c : Nat) : State × Option (List PWord) := (t.logXlat g.core 3 c va, some (xlatWords va (.inl c)))
                if !k.allows .load (t.split i).prv then bad 0x0A2 else if !t.keyOn k.key then bad 0x0A5 else (t, some (xlatWords va (.inr k)))
              | .fault c => (t.logXlat g.core 3 c va, some (xlatWords va (.inl c)))
              | .host pa => (t.prompt false pa 16, none)
              | .again _ => (t.stallRetry g.core g.troot g.trgen va .load, none)
        match eachLane lane (lanesIn (s.widthOf i) (s.execMask i)) s with
        | (t, some rows) => (t, .done (if rows.isEmpty then [] else loadHeld (s.widthOf i) w.d.toNat 2 rows))
        | (t, none) => (t.unlogged s, .wait t.memWait)) i s)) s

/-! ## Steps of the translation engine (R237, R238) -/

/-- PAGE_WALK (R237, R238): a walk completes for a core, and its leaf is cached; a fault is not. -/
def execPageWalk (core wg va : Nat) (s : State) : Host.Outcome State Fault Refusal :=
  let g := s.wg wg
  match s.walk (dieOfCore core) g.troot g.trgen va with
  | .leaf l => .next (s.cacheLeaf core g.troot g.trgen va l)
  | .host pa => .next (s.prompt false pa 16)
  | _ => .next s

/-- TRANSLATION_EXPIRY (R238): a cached translation is dropped at an age of 1 ms. -/
def execTranslationExpiry (core i : Nat) (s : State) : Host.Outcome State Fault Refusal :=
  match (s.core core).xlat[i]? with
  | some x =>
    if Nat.ble (x.time + 16000000) (s.nowCore core) then .next (s.modCore core (fun c => { c with xlat := c.xlat.eraseIdx i })) else .next s
  | none => .next s

end Sys2Proof.Machine
end

