-- ==== Sys2Proof/WellFormed.lean ====
section
/-! DEFINITION. Which terms of `Instr` some word encodes: the reserved values of R26, R37, R42 and of each word's own table. -/

namespace Sys2Proof

/-- A register number that names the first of an even pair. -/
def evenReg {n : Nat} (x : BitVec n) : Bool := !x.getLsbD 0

/-- A field below a bound. -/
def below {n : Nat} (x : BitVec n) (k : Nat) : Bool := Nat.blt x.toNat k

/-- R37: at least one update bit, no reserved ET or RM, and zero bits in every group that is not updated. -/
def modeOk (w : ModeF) : Bool :=
  (w.g || w.t || w.m || w.x)
    && (w.g || (w.p == 0 && !w.n)) && (w.t || w.e == 0) && (w.m || (w.r == 0 && !w.a && !w.f))
    && (w.x || (!w.l && w.c == 0)) && below w.e 9 && below w.r 5

/-- R154: no reserved type, and a half selector only beside a 16-bit type. -/
def cvtOk (w : CvtF) : Bool :=
  w.c != 7 && w.e != 7 && (!w.h || !below w.c 3) && (!w.k || !below w.e 3)

/-- R168: the data register group of an access width. -/
def dataOk (width : BitVec 3) (d : BitVec 6) : Bool :=
  match width.toNat with
  | 0 | 1 | 2 => true
  | 3 => evenReg d
  | 4 => d.toNat % 4 == 0
  | _ => false

/-- R167: the scalar base of a global word is even, or absent beside an even address pair. -/
def globalBase (b : BitVec 5) (a : BitVec 6) : Bool :=
  if b == 31 then evenReg a else evenReg b

/-- R282: the layout pair of a copy word. -/
def copyBase (l : BitVec 5) : Bool := evenReg l

/-- R182: the operation classes of ATOM. -/
def atomOk (w f : BitVec 3) : Bool :=
  match w.toNat with
  | 2 | 3 => true
  | 6 => below f 3
  | 7 => below f 2
  | _ => false

/-- R182: RED has neither exch nor cas. -/
def redOk (w f : BitVec 3) : Bool :=
  match w.toNat with
  | 2 | 3 => true
  | 6 => f == 2
  | _ => false

/-- R185: the classes of ATOMS. -/
def atomsOk (w f : BitVec 3) : Bool :=
  match w.toNat with
  | 2 => true
  | 6 => below f 3
  | _ => false

/-- R182: the data group of an atomic. -/
def atomData (w f : BitVec 3) (d : BitVec 6) : Bool :=
  match w.toNat with
  | 3 => evenReg d
  | 6 => f != 1 || evenReg d
  | 7 => if f == 1 then d.toNat % 4 == 0 else evenReg d
  | _ => true

/-- A 3-bit number of the registers x8 to x15 that a 16-bit encoding can name. -/
def rvcReg (x : BitVec 5) : Bool := x.toNat / 8 == 1

/-- RISC-V: the loads of RV64I, and which of them have a 16-bit encoding. -/
def rvLoadOk (r : RvLoad) : Bool :=
  if r.c then
    !r.u && (r.w == 2 || r.w == 3) && r.imm.toNat % (2 ^ r.w.toNat) == 0
      && ((rvcReg r.rd && rvcReg r.rs1 && below r.imm (32 * 2 ^ r.w.toNat))
        || (r.rs1 == 2 && r.rd != 0 && below r.imm (64 * 2 ^ r.w.toNat)))
  else !(r.u && r.w == 3)

/-- RISC-V: the stores of RV64I, and which of them have a 16-bit encoding. -/
def rvStoreOk (r : RvStore) : Bool :=
  if r.c then
    (r.w == 2 || r.w == 3) && r.imm.toNat % (2 ^ r.w.toNat) == 0
      && ((rvcReg r.rs2 && rvcReg r.rs1 && below r.imm (32 * 2 ^ r.w.toNat))
        || (r.rs1 == 2 && below r.imm (64 * 2 ^ r.w.toNat)))
  else true

/-- A signed field that fits `n` bits. -/
def fitsS {m : Nat} (x : BitVec m) (n : Nat) : Bool :=
  decide (-(2 ^ (n - 1) : Int) ≤ x.toInt) && decide (x.toInt < (2 ^ (n - 1) : Int))

/-- RISC-V: the immediates of the 32-bit encodings. -/
def rvImmOk (op : RvImmOp) (imm : BitVec 12) : Bool :=
  match op with
  | .slli | .srli | .srai | .rori | .slliUw => below imm 64
  | .slliw | .srliw | .sraiw | .roriw => below imm 32
  | .addi | .slti | .sltiu | .xori | .ori | .andi | .addiw => true

/-- RISC-V C: the 16-bit encodings of the instructions without a row of their own. -/
def rvcOk : RvOp → Bool
  | .lui rd imm => rd != 2 && imm != 0 && fitsS imm 6
  | .auipc _ _ => false
  | .jal rd off => rd == 0 && fitsS off 12 && evenReg off
  | .jalr rd rs1 imm => (rd == 0 || rd == 1) && rs1 != 0 && imm == 0
  | .branch cond rs1 rs2 off => (cond == .eq || cond == .ne) && rvcReg rs1 && rs2 == 0 && fitsS off 9 && evenReg off
  | .imm op rd rs1 imm =>
    match op with
    | .addi => (rd == rs1 && fitsS imm 6) || (rs1 == 0 && fitsS imm 6)
        || (rd == 2 && rs1 == 2 && imm != 0 && imm.toNat % 16 == 0 && fitsS imm 10)
        || (rvcReg rd && rs1 == 2 && imm != 0 && imm.toNat % 4 == 0 && below imm 1024)
    | .addiw => rd == rs1 && rd != 0 && fitsS imm 6
    | .slli => rd == rs1 && below imm 64
    | .srli | .srai => rd == rs1 && rvcReg rd && below imm 64
    | .andi => rd == rs1 && rvcReg rd && fitsS imm 6
    | _ => false
  | .reg op rd rs1 rs2 =>
    match op with
    | .add => rs2 != 0 && (rd == rs1 || rs1 == 0)
    | .sub | .xor | .or | .and | .subw | .addw => rd == rs1 && rvcReg rd && rvcReg rs2
    | _ => false
  | .un _ _ _ => false

/-- RISC-V: which operations some encoding holds. -/
def rvOpOk (c : Bool) (op : RvOp) : Bool :=
  if c then rvcOk op
  else match op with
    | .imm o _ _ imm => rvImmOk o imm
    | .branch _ _ _ off => evenReg off
    | .jal _ off => evenReg off
    | .lui .. | .auipc .. | .jalr .. | .reg .. | .un .. => true

/-- Well-formed: some word of its stream encodes the instruction (R42). A step that no word encodes is well-formed. A word whose vb names an even pair
(NODE.PAY, TQ.PUSH, RST.B64) is ill-formed with vb = 63, the form of a LIMM consumer: R34 does not say whether one behind a prefix is misuse, and the
model takes it as a consumer, which then raises 0x001 (DESIGN CHOICE, log entry 67). -/
def Instr.wf : Instr → Bool
  | .nop _ => true
  | .hint _ => true
  | .mode w => modeOk w
  | .limm _ => true
  | .bra _ => true
  | .call _ => true
  | .jmp w => evenReg w.a
  | .callr w => evenReg w.a
  | .ret _ => true
  | .exit _ => true
  | .regang w => below w.c 7
  | .regangTimeout _ => true
  | .split w => below w.w 6
  | .fuse w => below w.d 28 && below w.w 7
  | .fuseTimeout _ => true
  | .widthq w => below w.d 28
  | .warpq w => below w.d 28
  | .splitq w => below w.d 28
  | .laneq _ => true
  | .pand _ => true
  | .por _ => true
  | .pxor _ => true
  | .deact _ => true
  | .splitBoost _ => true
  | .barSync w => below w.b 17
  | .barArv w => below w.d 28 && below w.b 17
  | .barWait w => below w.b 17
  | .barCnt w => below w.b 17
  | .barPhq w => below w.d 28 && below w.b 17
  | .barFold w => below w.d 28 && below w.b 17
  | .safe _ _ _ => true
  | .srd w => below w.d 28
  | .swr _ => true
  | .sxch w => below w.d 28
  | .trap _ => true
  | .tret _ => true
  | .add _ => true
  | .sub _ => true
  | .mul _ => true
  | .mulhi _ => true
  | .min _ => true
  | .max _ => true
  | .absdiff _ => true
  | .mad _ => true
  | .abs _ => true
  | .neg _ => true
  | .and _ => true
  | .or _ => true
  | .xor _ => true
  | .andn _ => true
  | .not _ => true
  | .shl _ => true
  | .shr _ => true
  | .popc _ => true
  | .clz _ => true
  | .bitrev _ => true
  | .fext _ => true
  | .fins _ => true
  | .icmp w => below w.r 6
  | .fcmp _ => true
  | .fclass _ => true
  | .fadd _ => true
  | .fsub _ => true
  | .fmul _ => true
  | .fdiv _ => true
  | .fmin _ => true
  | .fmax _ => true
  | .fabs _ => true
  | .fneg _ => true
  | .ffma _ => true
  | .ffms _ => true
  | .ffnma _ => true
  | .ffnms _ => true
  | .rcp _ => true
  | .rsq _ => true
  | .sqrt _ => true
  | .ex2 _ => true
  | .lg2 _ => true
  | .sin _ => true
  | .cos _ => true
  | .tanh _ => true
  | .cvt w => cvtOk w
  | .nenc w => below w.t 7
  | .ndec w => below w.t 7
  | .pack w => below w.w 6
  | .unpack w => below w.w 6
  | .sel _ => true
  | .mov _ => true
  | .movs _ => true
  | .rdlane w => below w.d 28
  | .qxchX1 _ => true
  | .qxchX2 _ => true
  | .qxchX3 _ => true
  | .qxch _ => true
  | .shflFrom _ => true
  | .shflBack _ => true
  | .shflAhead _ => true
  | .shflFlip _ => true
  | .voteAnd _ => true
  | .voteOr _ => true
  | .voteSame _ => true
  | .ballot _ => true
  | .matchAny _ => true
  | .redux _ => true
  | .scan _ => true
  | .sadd w => (below w.b 32 || w.b == 63)
  | .ssub w => (below w.b 32 || w.b == 63)
  | .smul w => (below w.b 32 || w.b == 63)
  | .smulhu w => (below w.b 32 || w.b == 63)
  | .smulhs w => (below w.b 32 || w.b == 63)
  | .sand w => (below w.b 32 || w.b == 63)
  | .sor w => (below w.b 32 || w.b == 63)
  | .sxor w => (below w.b 32 || w.b == 63)
  | .sshl w => (below w.b 32 || w.b == 63)
  | .sshr w => (below w.b 32 || w.b == 63)
  | .ssra w => (below w.b 32 || w.b == 63)
  | .sminu w => (below w.b 32 || w.b == 63)
  | .smaxu w => (below w.b 32 || w.b == 63)
  | .smins w => (below w.b 32 || w.b == 63)
  | .smaxs w => (below w.b 32 || w.b == 63)
  | .sseq w => (below w.b 32 || w.b == 63)
  | .ssltu w => (below w.b 32 || w.b == 63)
  | .sslts w => (below w.b 32 || w.b == 63)
  | .addi _ => true
  | .andi _ => true
  | .ori _ => true
  | .xori _ => true
  | .movi _ => true
  | .saddi _ => true
  | .ld w => dataOk w.w w.d && globalBase w.b w.a && below w.p 3
  | .ldS w => globalBase w.b w.a && below w.p 3
  | .ldF16 w => globalBase w.b w.a && below w.p 3
  | .ldBf16 w => globalBase w.b w.a && below w.p 3
  | .ldE4m3 w => globalBase w.b w.a && below w.p 3
  | .ldE5m2 w => globalBase w.b w.a && below w.p 3
  | .st w => dataOk w.w w.d && globalBase w.b w.a && below w.p 2
  | .stF16 w => globalBase w.b w.a && below w.p 2
  | .stBf16 w => globalBase w.b w.a && below w.p 2
  | .stE4m3 w => globalBase w.b w.a && below w.p 2
  | .stE5m2 w => globalBase w.b w.a && below w.p 2
  | .lds w => dataOk w.w w.d && (!w.k || below w.w 2)
  | .ldsF16 _ => true
  | .ldsBf16 _ => true
  | .sts w => dataOk w.w w.d
  | .stsF16 _ => true
  | .stsBf16 _ => true
  | .ldc w => dataOk w.w w.d && (!w.k || below w.w 2)
  | .atom w => atomOk w.w w.f && atomData w.w w.f w.d && globalBase w.b w.a
  | .red w => redOk w.w w.f && atomData w.w w.f w.d && globalBase w.b w.a && !w.o.getLsbD 0
  | .atoms w => atomsOk w.w w.f && atomData w.w w.f w.d
  | .fenceRel _ => true
  | .fenceAcq _ => true
  | .ldAcq w => globalBase w.b w.a && (w.w == 0 || evenReg w.d)
  | .ccWb w => globalBase w.b w.a
  | .ccInv w => globalBase w.b w.a
  | .ccWbinv w => globalBase w.b w.a
  | .pf w => globalBase w.b w.a
  | .time w => evenReg w.d && below w.d 28
  | .twait w => evenReg w.a && below w.a 28
  | .mteps w => below w.d 28
  | .locq w => evenReg w.a
  | .locqSelf w => below w.d 28
  | .ctrdL w => evenReg w.d && below w.d 28
  | .ctrdG w => evenReg w.d && below w.d 28
  | .ctjoin w => evenReg w.a && below w.a 28
  | .regmode w => evenReg w.d && below w.d 28 && evenReg w.a && below w.a 28 && (below w.b 28 || w.b == 63)
  | .geninc w => evenReg w.d && below w.d 28 && evenReg w.a && below w.a 28 && (below w.b 28 || w.b == 63)
  | .genwait w => evenReg w.d && below w.d 28 && evenReg w.a && below w.a 28 && (below w.b 28 || w.b == 63)
  | .genrd w => evenReg w.a && below w.a 28 && below w.d 28
  | .xlat w => evenReg w.d && evenReg w.a
  | .qpop w => below w.e 28 && (w.t || w.e == 0)
  | .mtrd _ => true
  | .mtwr _ => true
  | .tilestat w => below w.d 28
  | .msig _ => true
  | .mqcnt w => below w.d 28
  | .cpTensor w => copyBase w.l
  | .cpTensorW w => copyBase w.l
  | .cpStore w => copyBase w.l
  | .cpGather w => copyBase w.l
  | .cpMcast w => copyBase w.l && w.m != 0
  | .hbAcq w => below w.d 28
  | .hbWait _ => true
  | .hbRel _ => true
  | .hbState w => below w.d 28
  | .rgNext w => below w.d 28
  | .cpResume _ => true
  | .cpAbort _ => true
  | .cpFrec w => below w.d 28
  | .treeNew w => below w.d 28
  | .treeClone w => below w.d 28
  | .treeRel w => evenReg w.d && below w.d 28
  | .treeRd w => below w.d 28
  | .nodeFork _ => true
  | .nodePrune w => evenReg w.d && below w.d 28
  | .nodeCommit w => evenReg w.d && below w.d 28 && (below w.b 32 || w.b == 63)
  | .nodeRd _ => true
  | .nodePay w => evenReg w.b
  | .kvSlot w => evenReg w.d
  | .kvAppend w => below w.d 28 && (below w.b 32 || w.b == 63)
  | .maskgen _ => true
  | .maskgenS w => evenReg w.d
  | .tqPush w => below w.d 28 && evenReg w.a && below w.b 32 && evenReg w.b
  | .tqPop w => evenReg w.d && below w.d 28 && evenReg w.a
  | .tqSteal w => evenReg w.d && below w.d 28 && evenReg w.a
  | .pqIns w => below w.d 28 && evenReg w.a && (below w.b 32 || w.b == 63)
  | .pqMin w => evenReg w.d && below w.d 28 && (below w.b 32 || w.b == 63)
  | .depDec w => below w.d 28 && evenReg w.a && (below w.b 32 || w.b == 63)
  | .depWait w => evenReg w.a
  | .taskEnd w => below w.d 28 && evenReg w.a
  | .bndMin w => evenReg w.a
  | .bndRd w => evenReg w.d && below w.d 28
  | .bndSet w => evenReg w.a
  | .collAr w => below w.d 28 && evenReg w.a
  | .collAg w => below w.d 28 && evenReg w.a
  | .collRs w => below w.d 28 && evenReg w.a
  | .rldB32 w => evenReg w.a
  | .rldB64 w => evenReg w.d && evenReg w.a
  | .rstB32 w => evenReg w.a
  | .rstB64 w => evenReg w.a && evenReg w.b
  | .l1wbinv w => evenReg w.d && below w.d 28
  | .xlflush w => evenReg w.d && below w.d 28
  | .mnop _ => true
  | .mhint _ => true
  | .mend _ => true
  | .mbr w => below w.n 6 && (w.n != 0 || w.c == 0)
  | .madd _ => true
  | .msub _ => true
  | .mmul _ => true
  | .mand _ => true
  | .mor _ => true
  | .mxor _ => true
  | .mshl _ => true
  | .mshr _ => true
  | .msra _ => true
  | .mminu _ => true
  | .mmaxu _ => true
  | .mseq _ => true
  | .msltu _ => true
  | .mslts _ => true
  | .mmov _ => true
  | .maddi _ => true
  | .mldg _ => true
  | .marv _ => true
  | .mwait _ => true
  | .msync _ => true
  | .mhwait _ => true
  | .mhrel _ => true
  | .mldA _ => true
  | .mldB _ => true
  | .mma _ => true
  | .mclr _ => true
  | .mclrI _ => true
  | .mstat _ => true
  | .mpush _ => true
  | .mst w => below w.r 5
  | .mspec _ => true
  | .mresolve _ => true
  | .mresolveSig _ => true
  | .mcommit _ => true
  | .mlimm _ => true
  | .matrixCommandPerform _ => true
  | .tileRetire _ _ => true
  | .spokeCpTensor w => below w.b 30
  | .spokeCpTensorW w => below w.b 30
  | .spokeCpStore w => below w.b 30
  | .spokeCpGather w => below w.b 30
  | .spokeCpMcast w => below w.b 30
  | .spokeHbAcq _ => true
  | .spokeHbRel _ => true
  | .spokeHbState _ => true
  | .spokeCpResume _ => true
  | .spokeCpAbort _ => true
  | .spokeCpFrec _ => true
  | .spokeRgNext _ => true
  | .spokeRgPeek _ => true
  | .spokeRdmt _ => true
  | .spokeRdeps _ => true
  | .spokeRdctx _ => true
  | .spokeHbWait _ => true
  | .spokeSbarArv _ => true
  | .spokeSbarWait _ => true
  | .spokeSbarSync _ => true
  | .spokeLoad r => rvLoadOk r
  | .spokeStore r => rvStoreOk r
  | .spokeAmo _ => true
  | .spokeLr _ => true
  | .spokeSc _ => true
  | .spokeFence _ => true
  | .spokeFenceI => true
  | .spokeCsrRead r => (r.csr == 0xC00 || r.csr == 0xC01 || r.csr == 0xC02)
  | .spokeWfi => true
  | .spokeEcall => true
  | .spokeEbreak _ => true
  | .spokeOtherInstruction c op => rvOpOk c op
  | .resultReturn _ => true
  | .homeRead _ => true
  | .homeWrite _ => true
  | .homeAtomic _ => true
  | .ownershipRequest _ _ => true
  | .spanRelease _ => true
  | .recallSpan _ => true
  | .leaseRecordFree _ => true
  | .pageWalk _ _ _ => true
  | .translationExpiry _ _ => true
  | .hostSnoop _ => true
  | .hostSnoopAnswer _ => true
  | .cxlCacheResponse _ _ _ => true
  | .cxlCacheTimeout _ => true
  | .hostMemRead _ _ => true
  | .hostMemWrite _ _ => true
  | .hostWriteCompletion _ => true
  | .backInvalidateResponse _ => true
  | .linkDown _ => true
  | .heartbeatSend _ => true
  | .heartbeatReceive _ _ => true
  | .heartbeatTimeout _ => true
  | .syncSend _ => true
  | .syncReceive _ _ _ _ _ => true
  | .servoHoldover _ => true
  | .dieUnsync _ _ => true
  | .dieResync _ => true
  | .ptmExchange _ _ _ _ => true
  | .ptmLost => true
  | .partitionDeclare _ => true
  | .diePartitioned _ => true
  | .timeTargetReached _ => true
  | .opChange _ _ _ _ => true
  | .thermalThrottle _ _ => true
  | .thermalStop _ _ => true
  | .copyUnitRelease _ _ _ => true
  | .copyUnitFault _ _ => true
  | .handleFull _ _ => true
  | .mcastDeliveryAccept _ _ _ => true
  | .treeOpPerform _ => true
  | .maskgenRequest _ => true
  | .nodeSlotFree _ _ => true
  | .treeIdFree _ => true
  | .poolPageLapse _ => true
  | .cancelArrival _ _ => true
  | .cancelKill _ => true
  | .dequeOperation _ => true
  | .depDecrement _ => true
  | .autoEnqueue _ => true
  | .pqRound _ => true
  | .taskGiveBack _ => true
  | .boundUpdate _ _ => true
  | .preemptRequest _ _ => true
  | .forcedStop _ => true
  | .unitSaveDone _ => true
  | .lazyFillDone _ _ => true
  | .qdbWrite _ _ => true
  | .queueEnable _ => true
  | .queueDisable _ => true
  | .queuePreempt _ => true
  | .queueResume _ => true
  | .dispatchPacket _ => true
  | .waitPacket _ => true
  | .signalPacket _ => true
  | .signalValueWrite _ => true
  | .nopPacket _ => true
  | .reservedPacket _ => true
  | .workgroupPlace _ => true
  | .workgroupStart _ => true
  | .launchCompletionSignal _ => true
  | .launchEndSignal _ => true
  | .stealIdleRequest _ => true
  | .stealRequestReceive _ => true
  | .queueStealHandoff _ => true
  | .queueReturnHome _ => true
  | .workgroupSave _ => true
  | .workgroupRestore _ _ => true
  | .collPeerPacket _ _ _ _ => true
  | .collRankComplete _ _ => true
  | .collAbort _ _ => true
  | .collTimeout _ _ => true
  | .remoteAccessTarget _ => true
  | .remoteAccessResponse _ => true
  | .fabricLaneLoss _ _ => true
  | .fabricPortDown _ _ => true
  | .fabricSyncSend _ => true
  | .fabricSyncReceive _ _ _ _ _ => true
  | .keyLoad => true
  | .keyDisable => true
  | .keyDisableComplete => true
  | .lctlWrite _ _ => true
  | .pmctlWrite _ _ => true
  | .pmcntLoRead _ _ => true
  | .registerWrite _ => true
  | .spdmVersion => true
  | .spdmCapabilities => true
  | .spdmAlgorithms => true
  | .spdmDigests => true
  | .spdmCertificate _ _ => true
  | .spdmChallengeAuth _ => true
  | .spdmMeasurements _ _ _ => true
  | .spdmKeyExchange _ => true
  | .ideKm _ => true
  | .ideIntegrityFailure => true
  | .cxlLinkDown => true
  | .coldStart _ => true
  | .warmStart _ => true
  | .cxlHotReset _ => true
  | .ps1Entry => true
  | .ps2Entry => true
  | .ps2Wake _ => true
  | .reservedEncoding _ => true
  | .matrixReservedEncoding _ => true
  | .spokeIllegalInstruction _ => true
  | .eccGranuleError _ _ => true
  | .flitCrcFailure _ => true
  | .fabricPortTrained _ _ _ => true
  | .startComplete => true
  | .powerLoss => true
  | .configurationRequest _ => true
  | .l1SpanDrop _ _ => true

end Sys2Proof
end

