-- ==== Sys2Proof/Decode.lean ====
section
/-! DEFINITION. The decoder of the three instruction streams (R25 to R47), total on any words and any bytes, and the encoder. -/

namespace Sys2Proof

/-- The three instruction streams (R25, R44, R47). -/
inductive Stream where
  | warp | matrix | spoke
  deriving DecidableEq, Repr

/-- Bits lo + n - 1 down to lo of a word. -/
def fld (w : Word) (lo n : Nat) : BitVec n := BitVec.ofNat n (w.toNat / 2 ^ lo)

/-- One bit of a word. -/
def bit (w : Word) (i : Nat) : Bool := w.toNat / 2 ^ i % 2 == 1

/-- The operands of a word of format S0: a word with only the S bit. -/
def S0.take (w : Word) : S0 :=
  { s := bit w 31 }

/-- The word of format S0 whose fixed bits are `base`. -/
def S0.put (base : Nat) (r : S0) : Word :=
  BitVec.ofNat 32 (base + r.s.toNat * 2 ^ 31)

/-- The operands of a word of format Hint: a hint: payload `p`, hint number `k` (R41). -/
def Hint.take (w : Word) : Hint :=
  { s := bit w 31, p := fld w 5 20, k := fld w 0 4 }

/-- The word of format Hint whose fixed bits are `base`. -/
def Hint.put (base : Nat) (r : Hint) : Word :=
  BitVec.ofNat 32 (base + r.s.toNat * 2 ^ 31 + r.p.toNat * 2 ^ 5 + r.k.toNat * 2 ^ 0)

/-- The operands of a word of format ModeF: MODE (R37): the four update bits, then the fields. -/
def ModeF.take (w : Word) : ModeF :=
  { s := bit w 31, g := bit w 24, t := bit w 23, m := bit w 22, x := bit w 21, p := fld w 18 3, n := bit w 17, e := fld w 13 4, r := fld w 10 3, a := bit w 9, f := bit w 8, l := bit w 7, c := fld w 1 6 }

/-- The word of format ModeF whose fixed bits are `base`. -/
def ModeF.put (base : Nat) (r : ModeF) : Word :=
  BitVec.ofNat 32 (base + r.s.toNat * 2 ^ 31 + r.g.toNat * 2 ^ 24 + r.t.toNat * 2 ^ 23 + r.m.toNat * 2 ^ 22 + r.x.toNat * 2 ^ 21 + r.p.toNat * 2 ^ 18 + r.n.toNat * 2 ^ 17 + r.e.toNat * 2 ^ 13 + r.r.toNat * 2 ^ 10 + r.a.toNat * 2 ^ 9 + r.f.toNat * 2 ^ 8 + r.l.toNat * 2 ^ 7 + r.c.toNat * 2 ^ 1)

/-- The operands of a word of format Br: the BR format (R86): predicate, negate, uniform hint, signed word offset. -/
def Br.take (w : Word) : Br :=
  { s := bit w 31, p := fld w 22 3, n := bit w 21, u := bit w 20, o := fld w 0 20 }

/-- The word of format Br whose fixed bits are `base`. -/
def Br.put (base : Nat) (r : Br) : Word :=
  BitVec.ofNat 32 (base + r.s.toNat * 2 ^ 31 + r.p.toNat * 2 ^ 22 + r.n.toNat * 2 ^ 21 + r.u.toNat * 2 ^ 20 + r.o.toNat * 2 ^ 0)

/-- The operands of a word of format SA: one scalar source. -/
def SA.take (w : Word) : SA :=
  { s := bit w 31, a := fld w 13 5 }

/-- The word of format SA whose fixed bits are `base`. -/
def SA.put (base : Nat) (r : SA) : Word :=
  BitVec.ofNat 32 (base + r.s.toNat * 2 ^ 31 + r.a.toNat * 2 ^ 13)

/-- The operands of a word of format SD: one scalar destination. -/
def SD.take (w : Word) : SD :=
  { s := bit w 31, d := fld w 19 5 }

/-- The word of format SD whose fixed bits are `base`. -/
def SD.put (base : Nat) (r : SD) : Word :=
  BitVec.ofNat 32 (base + r.s.toNat * 2 ^ 31 + r.d.toNat * 2 ^ 19)

/-- The operands of a word of format SDA: a scalar destination and a scalar source. -/
def SDA.take (w : Word) : SDA :=
  { s := bit w 31, d := fld w 19 5, a := fld w 13 5 }

/-- The word of format SDA whose fixed bits are `base`. -/
def SDA.put (base : Nat) (r : SDA) : Word :=
  BitVec.ofNat 32 (base + r.s.toNat * 2 ^ 31 + r.d.toNat * 2 ^ 19 + r.a.toNat * 2 ^ 13)

/-- The operands of a word of format SDAB: a scalar destination and two scalar sources: `b` is six bits, since 63 stands for the LIMM literal (R34). -/
def SDAB.take (w : Word) : SDAB :=
  { s := bit w 31, d := fld w 19 5, a := fld w 13 5, b := fld w 7 6 }

/-- The word of format SDAB whose fixed bits are `base`. -/
def SDAB.put (base : Nat) (r : SDAB) : Word :=
  BitVec.ofNat 32 (base + r.s.toNat * 2 ^ 31 + r.d.toNat * 2 ^ 19 + r.a.toNat * 2 ^ 13 + r.b.toNat * 2 ^ 7)

/-- The operands of a word of format RegangF: REGANG (R97): id, trap bit, timeout code. -/
def RegangF.take (w : Word) : RegangF :=
  { s := bit w 31, i := fld w 8 5, t := bit w 7, c := fld w 4 3 }

/-- The word of format RegangF whose fixed bits are `base`. -/
def RegangF.put (base : Nat) (r : RegangF) : Word :=
  BitVec.ofNat 32 (base + r.s.toNat * 2 ^ 31 + r.i.toNat * 2 ^ 8 + r.t.toNat * 2 ^ 7 + r.c.toNat * 2 ^ 4)

/-- The operands of a word of format SplitF: SPLIT (R101): width code. -/
def SplitF.take (w : Word) : SplitF :=
  { s := bit w 31, w := fld w 0 3 }

/-- The word of format SplitF whose fixed bits are `base`. -/
def SplitF.put (base : Nat) (r : SplitF) : Word :=
  BitVec.ofNat 32 (base + r.s.toNat * 2 ^ 31 + r.w.toNat * 2 ^ 0)

/-- The operands of a word of format FuseF: FUSE (R101): scalar destination, width code. -/
def FuseF.take (w : Word) : FuseF :=
  { s := bit w 31, d := fld w 19 5, w := fld w 0 3 }

/-- The word of format FuseF whose fixed bits are `base`. -/
def FuseF.put (base : Nat) (r : FuseF) : Word :=
  BitVec.ofNat 32 (base + r.s.toNat * 2 ^ 31 + r.d.toNat * 2 ^ 19 + r.w.toNat * 2 ^ 0)

/-- The operands of a word of format VD: one vector destination. -/
def VD.take (w : Word) : VD :=
  { s := bit w 31, d := fld w 19 6 }

/-- The word of format VD whose fixed bits are `base`. -/
def VD.put (base : Nat) (r : VD) : Word :=
  BitVec.ofNat 32 (base + r.s.toNat * 2 ^ 31 + r.d.toNat * 2 ^ 19)

/-- The operands of a word of format P3: predicate logic (R107): `x` negates pA, `y` negates pB. -/
def P3.take (w : Word) : P3 :=
  { s := bit w 31, d := fld w 19 3, a := fld w 13 3, b := fld w 7 3, x := bit w 1, y := bit w 0 }

/-- The word of format P3 whose fixed bits are `base`. -/
def P3.put (base : Nat) (r : P3) : Word :=
  BitVec.ofNat 32 (base + r.s.toNat * 2 ^ 31 + r.d.toNat * 2 ^ 19 + r.a.toNat * 2 ^ 13 + r.b.toNat * 2 ^ 7 + r.x.toNat * 2 ^ 1 + r.y.toNat * 2 ^ 0)

/-- The operands of a word of format DeactF: DEACT (R107). -/
def DeactF.take (w : Word) : DeactF :=
  { s := bit w 31, n := bit w 18, a := fld w 13 3 }

/-- The word of format DeactF whose fixed bits are `base`. -/
def DeactF.put (base : Nat) (r : DeactF) : Word :=
  BitVec.ofNat 32 (base + r.s.toNat * 2 ^ 31 + r.n.toNat * 2 ^ 18 + r.a.toNat * 2 ^ 13)

/-- The operands of a word of format BarB: a barrier number (R113). -/
def BarB.take (w : Word) : BarB :=
  { s := bit w 31, b := fld w 13 6 }

/-- The word of format BarB whose fixed bits are `base`. -/
def BarB.put (base : Nat) (r : BarB) : Word :=
  BitVec.ofNat 32 (base + r.s.toNat * 2 ^ 31 + r.b.toNat * 2 ^ 13)

/-- The operands of a word of format BarDB: a scalar destination and a barrier number (R113). -/
def BarDB.take (w : Word) : BarDB :=
  { s := bit w 31, d := fld w 19 5, b := fld w 13 6 }

/-- The word of format BarDB whose fixed bits are `base`. -/
def BarDB.put (base : Nat) (r : BarDB) : Word :=
  BitVec.ofNat 32 (base + r.s.toNat * 2 ^ 31 + r.d.toNat * 2 ^ 19 + r.b.toNat * 2 ^ 13)

/-- The operands of a word of format BarBA: a barrier number and a scalar source (R113). -/
def BarBA.take (w : Word) : BarBA :=
  { s := bit w 31, b := fld w 13 6, a := fld w 7 5 }

/-- The word of format BarBA whose fixed bits are `base`. -/
def BarBA.put (base : Nat) (r : BarBA) : Word :=
  BitVec.ofNat 32 (base + r.s.toNat * 2 ^ 31 + r.b.toNat * 2 ^ 13 + r.a.toNat * 2 ^ 7)

/-- The operands of a word of format BarFoldF: BAR.FOLD (R113). -/
def BarFoldF.take (w : Word) : BarFoldF :=
  { s := bit w 31, d := fld w 19 5, b := fld w 13 6, a := fld w 7 5, o := fld w 0 3 }

/-- The word of format BarFoldF whose fixed bits are `base`. -/
def BarFoldF.put (base : Nat) (r : BarFoldF) : Word :=
  BitVec.ofNat 32 (base + r.s.toNat * 2 ^ 31 + r.d.toNat * 2 ^ 19 + r.b.toNat * 2 ^ 13 + r.a.toNat * 2 ^ 7 + r.o.toNat * 2 ^ 0)

/-- The operands of a word of format SrdF: SRD (R137). -/
def SrdF.take (w : Word) : SrdF :=
  { s := bit w 31, d := fld w 19 5, n := fld w 0 13 }

/-- The word of format SrdF whose fixed bits are `base`. -/
def SrdF.put (base : Nat) (r : SrdF) : Word :=
  BitVec.ofNat 32 (base + r.s.toNat * 2 ^ 31 + r.d.toNat * 2 ^ 19 + r.n.toNat * 2 ^ 0)

/-- The operands of a word of format SwrF: SWR (R137). -/
def SwrF.take (w : Word) : SwrF :=
  { s := bit w 31, a := fld w 13 5, n := fld w 0 13 }

/-- The word of format SwrF whose fixed bits are `base`. -/
def SwrF.put (base : Nat) (r : SwrF) : Word :=
  BitVec.ofNat 32 (base + r.s.toNat * 2 ^ 31 + r.a.toNat * 2 ^ 13 + r.n.toNat * 2 ^ 0)

/-- The operands of a word of format SxchF: SXCH (R137). -/
def SxchF.take (w : Word) : SxchF :=
  { s := bit w 31, d := fld w 19 5, a := fld w 13 5, n := fld w 0 13 }

/-- The word of format SxchF whose fixed bits are `base`. -/
def SxchF.put (base : Nat) (r : SxchF) : Word :=
  BitVec.ofNat 32 (base + r.s.toNat * 2 ^ 31 + r.d.toNat * 2 ^ 19 + r.a.toNat * 2 ^ 13 + r.n.toNat * 2 ^ 0)

/-- The operands of a word of format V3: the V3 format with three vector registers (R25): `x` is La, `y` is Lb. -/
def V3.take (w : Word) : V3 :=
  { s := bit w 31, d := fld w 19 6, a := fld w 13 6, b := fld w 7 6, x := bit w 6, y := bit w 5 }

/-- The word of format V3 whose fixed bits are `base`. -/
def V3.put (base : Nat) (r : V3) : Word :=
  BitVec.ofNat 32 (base + r.s.toNat * 2 ^ 31 + r.d.toNat * 2 ^ 19 + r.a.toNat * 2 ^ 13 + r.b.toNat * 2 ^ 7 + r.x.toNat * 2 ^ 6 + r.y.toNat * 2 ^ 5)

/-- The operands of a word of format V2: a unary V3 word: `x` is La. -/
def V2.take (w : Word) : V2 :=
  { s := bit w 31, d := fld w 19 6, a := fld w 13 6, x := bit w 6 }

/-- The word of format V2 whose fixed bits are `base`. -/
def V2.put (base : Nat) (r : V2) : Word :=
  BitVec.ofNat 32 (base + r.s.toNat * 2 ^ 31 + r.d.toNat * 2 ^ 19 + r.a.toNat * 2 ^ 13 + r.x.toNat * 2 ^ 6)

/-- The operands of a word of format CmpF: a compare (R149, R150): `n` is ANY, `r` the relation. -/
def CmpF.take (w : Word) : CmpF :=
  { s := bit w 31, d := fld w 19 3, a := fld w 13 6, b := fld w 7 6, x := bit w 6, y := bit w 5, n := bit w 3, r := fld w 0 3 }

/-- The word of format CmpF whose fixed bits are `base`. -/
def CmpF.put (base : Nat) (r : CmpF) : Word :=
  BitVec.ofNat 32 (base + r.s.toNat * 2 ^ 31 + r.d.toNat * 2 ^ 19 + r.a.toNat * 2 ^ 13 + r.b.toNat * 2 ^ 7 + r.x.toNat * 2 ^ 6 + r.y.toNat * 2 ^ 5 + r.n.toNat * 2 ^ 3 + r.r.toNat * 2 ^ 0)

/-- The operands of a word of format CvtF: CVT (R154): source type `c`, destination type `e`, HS `h`, HD `k`. -/
def CvtF.take (w : Word) : CvtF :=
  { s := bit w 31, d := fld w 19 6, a := fld w 13 6, c := fld w 10 3, e := fld w 7 3, x := bit w 6, h := bit w 1, k := bit w 0 }

/-- The word of format CvtF whose fixed bits are `base`. -/
def CvtF.put (base : Nat) (r : CvtF) : Word :=
  BitVec.ofNat 32 (base + r.s.toNat * 2 ^ 31 + r.d.toNat * 2 ^ 19 + r.a.toNat * 2 ^ 13 + r.c.toNat * 2 ^ 10 + r.e.toNat * 2 ^ 7 + r.x.toNat * 2 ^ 6 + r.h.toNat * 2 ^ 1 + r.k.toNat * 2 ^ 0)

/-- The operands of a word of format NencF: NENC and NDEC (R155): narrow type `t`. -/
def NencF.take (w : Word) : NencF :=
  { s := bit w 31, d := fld w 19 6, a := fld w 13 6, b := fld w 7 6, x := bit w 6, y := bit w 5, t := fld w 0 3 }

/-- The word of format NencF whose fixed bits are `base`. -/
def NencF.put (base : Nat) (r : NencF) : Word :=
  BitVec.ofNat 32 (base + r.s.toNat * 2 ^ 31 + r.d.toNat * 2 ^ 19 + r.a.toNat * 2 ^ 13 + r.b.toNat * 2 ^ 7 + r.x.toNat * 2 ^ 6 + r.y.toNat * 2 ^ 5 + r.t.toNat * 2 ^ 0)

/-- The operands of a word of format PackF: PACK and UNPACK (R156): `m` is M, `w` the element width code. -/
def PackF.take (w : Word) : PackF :=
  { s := bit w 31, d := fld w 19 6, a := fld w 13 6, m := bit w 7, x := bit w 6, w := fld w 0 3 }

/-- The word of format PackF whose fixed bits are `base`. -/
def PackF.put (base : Nat) (r : PackF) : Word :=
  BitVec.ofNat 32 (base + r.s.toNat * 2 ^ 31 + r.d.toNat * 2 ^ 19 + r.a.toNat * 2 ^ 13 + r.m.toNat * 2 ^ 7 + r.x.toNat * 2 ^ 6 + r.w.toNat * 2 ^ 0)

/-- The operands of a word of format SelF: SEL (R157). -/
def SelF.take (w : Word) : SelF :=
  { s := bit w 31, d := fld w 19 6, a := fld w 13 6, b := fld w 7 6, x := bit w 6, y := bit w 5, p := fld w 0 3 }

/-- The word of format SelF whose fixed bits are `base`. -/
def SelF.put (base : Nat) (r : SelF) : Word :=
  BitVec.ofNat 32 (base + r.s.toNat * 2 ^ 31 + r.d.toNat * 2 ^ 19 + r.a.toNat * 2 ^ 13 + r.b.toNat * 2 ^ 7 + r.x.toNat * 2 ^ 6 + r.y.toNat * 2 ^ 5 + r.p.toNat * 2 ^ 0)

/-- The operands of a word of format MovsF: MOVS (R157). -/
def MovsF.take (w : Word) : MovsF :=
  { s := bit w 31, d := fld w 19 6, a := fld w 13 5 }

/-- The word of format MovsF whose fixed bits are `base`. -/
def MovsF.put (base : Nat) (r : MovsF) : Word :=
  BitVec.ofNat 32 (base + r.s.toNat * 2 ^ 31 + r.d.toNat * 2 ^ 19 + r.a.toNat * 2 ^ 13)

/-- The operands of a word of format RdlaneF: RDLANE (R157). -/
def RdlaneF.take (w : Word) : RdlaneF :=
  { s := bit w 31, d := fld w 19 5, a := fld w 13 6, x := bit w 6 }

/-- The word of format RdlaneF whose fixed bits are `base`. -/
def RdlaneF.put (base : Nat) (r : RdlaneF) : Word :=
  BitVec.ofNat 32 (base + r.s.toNat * 2 ^ 31 + r.d.toNat * 2 ^ 19 + r.a.toNat * 2 ^ 13 + r.x.toNat * 2 ^ 6)

/-- The operands of a word of format V2M: a cross-lane word with one vector source (R162). -/
def V2M.take (w : Word) : V2M :=
  { s := bit w 31, d := fld w 19 6, a := fld w 13 6, x := bit w 6, m := bit w 4 }

/-- The word of format V2M whose fixed bits are `base`. -/
def V2M.put (base : Nat) (r : V2M) : Word :=
  BitVec.ofNat 32 (base + r.s.toNat * 2 ^ 31 + r.d.toNat * 2 ^ 19 + r.a.toNat * 2 ^ 13 + r.x.toNat * 2 ^ 6 + r.m.toNat * 2 ^ 4)

/-- The operands of a word of format V3M: a cross-lane word with two vector sources (R162). -/
def V3M.take (w : Word) : V3M :=
  { s := bit w 31, d := fld w 19 6, a := fld w 13 6, b := fld w 7 6, x := bit w 6, y := bit w 5, m := bit w 4 }

/-- The word of format V3M whose fixed bits are `base`. -/
def V3M.put (base : Nat) (r : V3M) : Word :=
  BitVec.ofNat 32 (base + r.s.toNat * 2 ^ 31 + r.d.toNat * 2 ^ 19 + r.a.toNat * 2 ^ 13 + r.b.toNat * 2 ^ 7 + r.x.toNat * 2 ^ 6 + r.y.toNat * 2 ^ 5 + r.m.toNat * 2 ^ 4)

/-- The operands of a word of format VoteF: a vote (R163). -/
def VoteF.take (w : Word) : VoteF :=
  { s := bit w 31, d := fld w 19 3, a := fld w 13 3, m := bit w 4 }

/-- The word of format VoteF whose fixed bits are `base`. -/
def VoteF.put (base : Nat) (r : VoteF) : Word :=
  BitVec.ofNat 32 (base + r.s.toNat * 2 ^ 31 + r.d.toNat * 2 ^ 19 + r.a.toNat * 2 ^ 13 + r.m.toNat * 2 ^ 4)

/-- The operands of a word of format BallotF: BALLOT (R163). -/
def BallotF.take (w : Word) : BallotF :=
  { s := bit w 31, d := fld w 19 5, a := fld w 13 3, m := bit w 4 }

/-- The word of format BallotF whose fixed bits are `base`. -/
def BallotF.put (base : Nat) (r : BallotF) : Word :=
  BitVec.ofNat 32 (base + r.s.toNat * 2 ^ 31 + r.d.toNat * 2 ^ 19 + r.a.toNat * 2 ^ 13 + r.m.toNat * 2 ^ 4)

/-- The operands of a word of format MatchF: MATCH (R163): `e` names pE. -/
def MatchF.take (w : Word) : MatchF :=
  { s := bit w 31, d := fld w 19 5, a := fld w 13 6, e := fld w 7 3, x := bit w 6, m := bit w 4 }

/-- The word of format MatchF whose fixed bits are `base`. -/
def MatchF.put (base : Nat) (r : MatchF) : Word :=
  BitVec.ofNat 32 (base + r.s.toNat * 2 ^ 31 + r.d.toNat * 2 ^ 19 + r.a.toNat * 2 ^ 13 + r.e.toNat * 2 ^ 7 + r.x.toNat * 2 ^ 6 + r.m.toNat * 2 ^ 4)

/-- The operands of a word of format ReduxF: REDUX and SCAN (R164): operation `o`. -/
def ReduxF.take (w : Word) : ReduxF :=
  { s := bit w 31, d := fld w 19 6, a := fld w 13 6, x := bit w 6, m := bit w 4, o := fld w 0 3 }

/-- The word of format ReduxF whose fixed bits are `base`. -/
def ReduxF.put (base : Nat) (r : ReduxF) : Word :=
  BitVec.ofNat 32 (base + r.s.toNat * 2 ^ 31 + r.d.toNat * 2 ^ 19 + r.a.toNat * 2 ^ 13 + r.x.toNat * 2 ^ 6 + r.m.toNat * 2 ^ 4 + r.o.toNat * 2 ^ 0)

/-- The operands of a word of format Sc3: a scalar word (R159): `b` is six bits, since 63 stands for the LIMM literal. -/
def Sc3.take (w : Word) : Sc3 :=
  { s := bit w 31, d := fld w 19 5, a := fld w 13 5, b := fld w 7 6 }

/-- The word of format Sc3 whose fixed bits are `base`. -/
def Sc3.put (base : Nat) (r : Sc3) : Word :=
  BitVec.ofNat 32 (base + r.s.toNat * 2 ^ 31 + r.d.toNat * 2 ^ 19 + r.a.toNat * 2 ^ 13 + r.b.toNat * 2 ^ 7)

/-- The operands of a word of format VI: the VI format (R158). -/
def VI.take (w : Word) : VI :=
  { s := bit w 31, d := fld w 19 6, a := fld w 13 6, i := fld w 0 13 }

/-- The word of format VI whose fixed bits are `base`. -/
def VI.put (base : Nat) (r : VI) : Word :=
  BitVec.ofNat 32 (base + r.s.toNat * 2 ^ 31 + r.d.toNat * 2 ^ 19 + r.a.toNat * 2 ^ 13 + r.i.toNat * 2 ^ 0)

/-- The operands of a word of format MoviF: MOVI (R158). -/
def MoviF.take (w : Word) : MoviF :=
  { s := bit w 31, d := fld w 19 6, i := fld w 0 13 }

/-- The word of format MoviF whose fixed bits are `base`. -/
def MoviF.put (base : Nat) (r : MoviF) : Word :=
  BitVec.ofNat 32 (base + r.s.toNat * 2 ^ 31 + r.d.toNat * 2 ^ 19 + r.i.toNat * 2 ^ 0)

/-- The operands of a word of format SaddiF: SADDI (R160). -/
def SaddiF.take (w : Word) : SaddiF :=
  { s := bit w 31, d := fld w 19 5, a := fld w 13 5, i := fld w 0 13 }

/-- The word of format SaddiF whose fixed bits are `base`. -/
def SaddiF.put (base : Nat) (r : SaddiF) : Word :=
  BitVec.ofNat 32 (base + r.s.toNat * 2 ^ 31 + r.d.toNat * 2 ^ 19 + r.a.toNat * 2 ^ 13 + r.i.toNat * 2 ^ 0)

/-- The operands of a word of format MemF: the MEM format (R169): data, address vector, scalar base, width, policy. -/
def MemF.take (w : Word) : MemF :=
  { s := bit w 31, d := fld w 19 6, a := fld w 13 6, b := fld w 8 5, w := fld w 5 3, p := fld w 3 2 }

/-- The word of format MemF whose fixed bits are `base`. -/
def MemF.put (base : Nat) (r : MemF) : Word :=
  BitVec.ofNat 32 (base + r.s.toNat * 2 ^ 31 + r.d.toNat * 2 ^ 19 + r.a.toNat * 2 ^ 13 + r.b.toNat * 2 ^ 8 + r.w.toNat * 2 ^ 5 + r.p.toNat * 2 ^ 3)

/-- The operands of a word of format MemW1: LD.S (R169): the width field is 00w. -/
def MemW1.take (w : Word) : MemW1 :=
  { s := bit w 31, d := fld w 19 6, a := fld w 13 6, b := fld w 8 5, w := fld w 5 1, p := fld w 3 2 }

/-- The word of format MemW1 whose fixed bits are `base`. -/
def MemW1.put (base : Nat) (r : MemW1) : Word :=
  BitVec.ofNat 32 (base + r.s.toNat * 2 ^ 31 + r.d.toNat * 2 ^ 19 + r.a.toNat * 2 ^ 13 + r.b.toNat * 2 ^ 8 + r.w.toNat * 2 ^ 5 + r.p.toNat * 2 ^ 3)

/-- The operands of a word of format MemP: a MEM word of fixed width with a policy (R169). -/
def MemP.take (w : Word) : MemP :=
  { s := bit w 31, d := fld w 19 6, a := fld w 13 6, b := fld w 8 5, p := fld w 3 2 }

/-- The word of format MemP whose fixed bits are `base`. -/
def MemP.put (base : Nat) (r : MemP) : Word :=
  BitVec.ofNat 32 (base + r.s.toNat * 2 ^ 31 + r.d.toNat * 2 ^ 19 + r.a.toNat * 2 ^ 13 + r.b.toNat * 2 ^ 8 + r.p.toNat * 2 ^ 3)

/-- The operands of a word of format LdsF: LDS and LDC (R169): `k` is the sign-extending function. -/
def LdsF.take (w : Word) : LdsF :=
  { s := bit w 31, d := fld w 19 6, a := fld w 13 6, b := fld w 8 5, w := fld w 5 3, k := bit w 0 }

/-- The word of format LdsF whose fixed bits are `base`. -/
def LdsF.put (base : Nat) (r : LdsF) : Word :=
  BitVec.ofNat 32 (base + r.s.toNat * 2 ^ 31 + r.d.toNat * 2 ^ 19 + r.a.toNat * 2 ^ 13 + r.b.toNat * 2 ^ 8 + r.w.toNat * 2 ^ 5 + r.k.toNat * 2 ^ 0)

/-- The operands of a word of format MemN: a scratchpad MEM word of fixed width (R169). -/
def MemN.take (w : Word) : MemN :=
  { s := bit w 31, d := fld w 19 6, a := fld w 13 6, b := fld w 8 5 }

/-- The word of format MemN whose fixed bits are `base`. -/
def MemN.put (base : Nat) (r : MemN) : Word :=
  BitVec.ofNat 32 (base + r.s.toNat * 2 ^ 31 + r.d.toNat * 2 ^ 19 + r.a.toNat * 2 ^ 13 + r.b.toNat * 2 ^ 8)

/-- The operands of a word of format StsF: STS (R169). -/
def StsF.take (w : Word) : StsF :=
  { s := bit w 31, d := fld w 19 6, a := fld w 13 6, b := fld w 8 5, w := fld w 5 3 }

/-- The word of format StsF whose fixed bits are `base`. -/
def StsF.put (base : Nat) (r : StsF) : Word :=
  BitVec.ofNat 32 (base + r.s.toNat * 2 ^ 31 + r.d.toNat * 2 ^ 19 + r.a.toNat * 2 ^ 13 + r.b.toNat * 2 ^ 8 + r.w.toNat * 2 ^ 5)

/-- The operands of a word of format AtomF: ATOM and RED (R182): class `w`, ordering `o`, operation `f`. -/
def AtomF.take (w : Word) : AtomF :=
  { s := bit w 31, d := fld w 19 6, a := fld w 13 6, b := fld w 8 5, w := fld w 5 3, o := fld w 3 2, f := fld w 0 3 }

/-- The word of format AtomF whose fixed bits are `base`. -/
def AtomF.put (base : Nat) (r : AtomF) : Word :=
  BitVec.ofNat 32 (base + r.s.toNat * 2 ^ 31 + r.d.toNat * 2 ^ 19 + r.a.toNat * 2 ^ 13 + r.b.toNat * 2 ^ 8 + r.w.toNat * 2 ^ 5 + r.o.toNat * 2 ^ 3 + r.f.toNat * 2 ^ 0)

/-- The operands of a word of format AtomsF: ATOMS (R185): class `w`, no-return bit `n`, operation `f`. -/
def AtomsF.take (w : Word) : AtomsF :=
  { s := bit w 31, d := fld w 19 6, a := fld w 13 6, b := fld w 8 5, w := fld w 5 3, n := bit w 3, f := fld w 0 3 }

/-- The word of format AtomsF whose fixed bits are `base`. -/
def AtomsF.put (base : Nat) (r : AtomsF) : Word :=
  BitVec.ofNat 32 (base + r.s.toNat * 2 ^ 31 + r.d.toNat * 2 ^ 19 + r.a.toNat * 2 ^ 13 + r.b.toNat * 2 ^ 8 + r.w.toNat * 2 ^ 5 + r.n.toNat * 2 ^ 3 + r.f.toNat * 2 ^ 0)

/-- The operands of a word of format FenceF: a fence (R186): scope `c`. -/
def FenceF.take (w : Word) : FenceF :=
  { s := bit w 31, c := fld w 3 2 }

/-- The word of format FenceF whose fixed bits are `base`. -/
def FenceF.put (base : Nat) (r : FenceF) : Word :=
  BitVec.ofNat 32 (base + r.s.toNat * 2 ^ 31 + r.c.toNat * 2 ^ 3)

/-- The operands of a word of format LdAcqF: LD.ACQ (R186): the width field is 01w, scope `c`. -/
def LdAcqF.take (w : Word) : LdAcqF :=
  { s := bit w 31, d := fld w 19 6, a := fld w 13 6, b := fld w 8 5, w := fld w 5 1, c := fld w 3 2 }

/-- The word of format LdAcqF whose fixed bits are `base`. -/
def LdAcqF.put (base : Nat) (r : LdAcqF) : Word :=
  BitVec.ofNat 32 (base + r.s.toNat * 2 ^ 31 + r.d.toNat * 2 ^ 19 + r.a.toNat * 2 ^ 13 + r.b.toNat * 2 ^ 8 + r.w.toNat * 2 ^ 5 + r.c.toNat * 2 ^ 3)

/-- The operands of a word of format CcF: cache control and prefetch (R186). -/
def CcF.take (w : Word) : CcF :=
  { s := bit w 31, a := fld w 13 6, b := fld w 8 5 }

/-- The word of format CcF whose fixed bits are `base`. -/
def CcF.put (base : Nat) (r : CcF) : Word :=
  BitVec.ofNat 32 (base + r.s.toNat * 2 ^ 31 + r.a.toNat * 2 ^ 13 + r.b.toNat * 2 ^ 8)

/-- The operands of a word of format MtepsF: MTEPS (R226): scope `c`. -/
def MtepsF.take (w : Word) : MtepsF :=
  { s := bit w 31, d := fld w 19 5, c := fld w 0 2 }

/-- The word of format MtepsF whose fixed bits are `base`. -/
def MtepsF.put (base : Nat) (r : MtepsF) : Word :=
  BitVec.ofNat 32 (base + r.s.toNat * 2 ^ 31 + r.d.toNat * 2 ^ 19 + r.c.toNat * 2 ^ 0)

/-- The operands of a word of format VDA: a vector destination and a vector source. -/
def VDA.take (w : Word) : VDA :=
  { s := bit w 31, d := fld w 19 6, a := fld w 13 6 }

/-- The word of format VDA whose fixed bits are `base`. -/
def VDA.put (base : Nat) (r : VDA) : Word :=
  BitVec.ofNat 32 (base + r.s.toNat * 2 ^ 31 + r.d.toNat * 2 ^ 19 + r.a.toNat * 2 ^ 13)

/-- The operands of a word of format QpopF: QPOP (R264): `e` is sD, `t` is T. -/
def QpopF.take (w : Word) : QpopF :=
  { s := bit w 31, d := fld w 19 6, e := fld w 13 5, t := bit w 0 }

/-- The word of format QpopF whose fixed bits are `base`. -/
def QpopF.put (base : Nat) (r : QpopF) : Word :=
  BitVec.ofNat 32 (base + r.s.toNat * 2 ^ 31 + r.d.toNat * 2 ^ 19 + r.e.toNat * 2 ^ 13 + r.t.toNat * 2 ^ 0)

/-- The operands of a word of format MtrF: MTRD and MTWR (R269): tile `t`. -/
def MtrF.take (w : Word) : MtrF :=
  { s := bit w 31, d := fld w 19 6, a := fld w 13 6, x := bit w 6, t := fld w 0 4 }

/-- The word of format MtrF whose fixed bits are `base`. -/
def MtrF.put (base : Nat) (r : MtrF) : Word :=
  BitVec.ofNat 32 (base + r.s.toNat * 2 ^ 31 + r.d.toNat * 2 ^ 19 + r.a.toNat * 2 ^ 13 + r.x.toNat * 2 ^ 6 + r.t.toNat * 2 ^ 0)

/-- The operands of a word of format TilestatF: TILESTAT (R270). -/
def TilestatF.take (w : Word) : TilestatF :=
  { s := bit w 31, d := fld w 19 5, t := fld w 13 4 }

/-- The word of format TilestatF whose fixed bits are `base`. -/
def TilestatF.put (base : Nat) (r : TilestatF) : Word :=
  BitVec.ofNat 32 (base + r.s.toNat * 2 ^ 31 + r.d.toNat * 2 ^ 19 + r.t.toNat * 2 ^ 13)

/-- The operands of a word of format MsigF: MSIG (R270). -/
def MsigF.take (w : Word) : MsigF :=
  { s := bit w 31, k := fld w 19 2, a := fld w 13 5 }

/-- The word of format MsigF whose fixed bits are `base`. -/
def MsigF.put (base : Nat) (r : MsigF) : Word :=
  BitVec.ofNat 32 (base + r.s.toNat * 2 ^ 31 + r.k.toNat * 2 ^ 19 + r.a.toNat * 2 ^ 13)

/-- The operands of a word of format CpF: a copy word (R282): handle register `h`, coordinates `c`, layout scalar `l`. -/
def CpF.take (w : Word) : CpF :=
  { s := bit w 31, h := fld w 19 6, c := fld w 13 6, l := fld w 8 5 }

/-- The word of format CpF whose fixed bits are `base`. -/
def CpF.put (base : Nat) (r : CpF) : Word :=
  BitVec.ofNat 32 (base + r.s.toNat * 2 ^ 31 + r.h.toNat * 2 ^ 19 + r.c.toNat * 2 ^ 13 + r.l.toNat * 2 ^ 8)

/-- The operands of a word of format CpMF: CP.MCAST (R282): mask `m`. -/
def CpMF.take (w : Word) : CpMF :=
  { s := bit w 31, h := fld w 19 6, c := fld w 13 6, l := fld w 8 5, m := fld w 4 4 }

/-- The word of format CpMF whose fixed bits are `base`. -/
def CpMF.put (base : Nat) (r : CpMF) : Word :=
  BitVec.ofNat 32 (base + r.s.toNat * 2 ^ 31 + r.h.toNat * 2 ^ 19 + r.c.toNat * 2 ^ 13 + r.l.toNat * 2 ^ 8 + r.m.toNat * 2 ^ 4)

/-- The operands of a word of format RgF: RG.NEXT (R291). -/
def RgF.take (w : Word) : RgF :=
  { s := bit w 31, d := fld w 19 5, a := fld w 13 5, c := bit w 7 }

/-- The word of format RgF whose fixed bits are `base`. -/
def RgF.put (base : Nat) (r : RgF) : Word :=
  BitVec.ofNat 32 (base + r.s.toNat * 2 ^ 31 + r.d.toNat * 2 ^ 19 + r.a.toNat * 2 ^ 13 + r.c.toNat * 2 ^ 7)

/-- The operands of a word of format FrecF: CP.FREC (R295). -/
def FrecF.take (w : Word) : FrecF :=
  { s := bit w 31, d := fld w 19 5, a := fld w 13 5, k := fld w 7 4 }

/-- The word of format FrecF whose fixed bits are `base`. -/
def FrecF.put (base : Nat) (r : FrecF) : Word :=
  BitVec.ofNat 32 (base + r.s.toNat * 2 ^ 31 + r.d.toNat * 2 ^ 19 + r.a.toNat * 2 ^ 13 + r.k.toNat * 2 ^ 7)

/-- The operands of a word of format TreeRdF: TREE.RD (R331). -/
def TreeRdF.take (w : Word) : TreeRdF :=
  { s := bit w 31, d := fld w 19 5, a := fld w 13 5, k := fld w 7 3 }

/-- The word of format TreeRdF whose fixed bits are `base`. -/
def TreeRdF.put (base : Nat) (r : TreeRdF) : Word :=
  BitVec.ofNat 32 (base + r.s.toNat * 2 ^ 31 + r.d.toNat * 2 ^ 19 + r.a.toNat * 2 ^ 13 + r.k.toNat * 2 ^ 7)

/-- The operands of a word of format V3N: a V3 word with three vector registers and no last-use bits (R331, R351). -/
def V3N.take (w : Word) : V3N :=
  { s := bit w 31, d := fld w 19 6, a := fld w 13 6, b := fld w 7 6 }

/-- The word of format V3N whose fixed bits are `base`. -/
def V3N.put (base : Nat) (r : V3N) : Word :=
  BitVec.ofNat 32 (base + r.s.toNat * 2 ^ 31 + r.d.toNat * 2 ^ 19 + r.a.toNat * 2 ^ 13 + r.b.toNat * 2 ^ 7)

/-- The operands of a word of format NodeRdF: NODE.RD (R331). -/
def NodeRdF.take (w : Word) : NodeRdF :=
  { s := bit w 31, d := fld w 19 6, a := fld w 13 6, k := fld w 7 4 }

/-- The word of format NodeRdF whose fixed bits are `base`. -/
def NodeRdF.put (base : Nat) (r : NodeRdF) : Word :=
  BitVec.ofNat 32 (base + r.s.toNat * 2 ^ 31 + r.d.toNat * 2 ^ 19 + r.a.toNat * 2 ^ 13 + r.k.toNat * 2 ^ 7)

/-- The operands of a word of format VAB: two vector sources and no destination. -/
def VAB.take (w : Word) : VAB :=
  { s := bit w 31, a := fld w 13 6, b := fld w 7 6 }

/-- The word of format VAB whose fixed bits are `base`. -/
def VAB.put (base : Nat) (r : VAB) : Word :=
  BitVec.ofNat 32 (base + r.s.toNat * 2 ^ 31 + r.a.toNat * 2 ^ 13 + r.b.toNat * 2 ^ 7)

/-- The operands of a word of format SDB: a scalar destination and the scalar source `b`, six bits as in `SDAB`. -/
def SDB.take (w : Word) : SDB :=
  { s := bit w 31, d := fld w 19 5, b := fld w 7 6 }

/-- The word of format SDB whose fixed bits are `base`. -/
def SDB.put (base : Nat) (r : SDB) : Word :=
  BitVec.ofNat 32 (base + r.s.toNat * 2 ^ 31 + r.d.toNat * 2 ^ 19 + r.b.toNat * 2 ^ 7)

/-- The operands of a word of format BndAF: BND.MIN and BND.SET (R377). -/
def BndAF.take (w : Word) : BndAF :=
  { s := bit w 31, a := fld w 13 5, k := fld w 7 3 }

/-- The word of format BndAF whose fixed bits are `base`. -/
def BndAF.put (base : Nat) (r : BndAF) : Word :=
  BitVec.ofNat 32 (base + r.s.toNat * 2 ^ 31 + r.a.toNat * 2 ^ 13 + r.k.toNat * 2 ^ 7)

/-- The operands of a word of format BndDF: BND.RD (R377). -/
def BndDF.take (w : Word) : BndDF :=
  { s := bit w 31, d := fld w 19 5, k := fld w 7 3 }

/-- The word of format BndDF whose fixed bits are `base`. -/
def BndDF.put (base : Nat) (r : BndDF) : Word :=
  BitVec.ofNat 32 (base + r.s.toNat * 2 ^ 31 + r.d.toNat * 2 ^ 19 + r.k.toNat * 2 ^ 7)

/-- The operands of a word of format MbrF: the MB format (R44): register `c`, condition `n`, signed word offset. -/
def MbrF.take (w : Word) : MbrF :=
  { s := bit w 31, c := fld w 21 4, n := fld w 18 3, o := fld w 0 18 }

/-- The word of format MbrF whose fixed bits are `base`. -/
def MbrF.put (base : Nat) (r : MbrF) : Word :=
  BitVec.ofNat 32 (base + r.s.toNat * 2 ^ 31 + r.c.toNat * 2 ^ 21 + r.n.toNat * 2 ^ 18 + r.o.toNat * 2 ^ 0)

/-- The operands of a word of format Mg3: the MG format with three sequencer registers (R44). -/
def Mg3.take (w : Word) : Mg3 :=
  { s := bit w 31, d := fld w 21 4, a := fld w 17 4, b := fld w 13 4 }

/-- The word of format Mg3 whose fixed bits are `base`. -/
def Mg3.put (base : Nat) (r : Mg3) : Word :=
  BitVec.ofNat 32 (base + r.s.toNat * 2 ^ 31 + r.d.toNat * 2 ^ 21 + r.a.toNat * 2 ^ 17 + r.b.toNat * 2 ^ 13)

/-- The operands of a word of format Mg2: the MG format with a destination and one source. -/
def Mg2.take (w : Word) : Mg2 :=
  { s := bit w 31, d := fld w 21 4, a := fld w 17 4 }

/-- The word of format Mg2 whose fixed bits are `base`. -/
def Mg2.put (base : Nat) (r : Mg2) : Word :=
  BitVec.ofNat 32 (base + r.s.toNat * 2 ^ 31 + r.d.toNat * 2 ^ 21 + r.a.toNat * 2 ^ 17)

/-- The operands of a word of format MiF: the MI format (R44). -/
def MiF.take (w : Word) : MiF :=
  { s := bit w 31, d := fld w 21 4, a := fld w 17 4, i := fld w 0 17 }

/-- The word of format MiF whose fixed bits are `base`. -/
def MiF.put (base : Nat) (r : MiF) : Word :=
  BitVec.ofNat 32 (base + r.s.toNat * 2 ^ 31 + r.d.toNat * 2 ^ 21 + r.a.toNat * 2 ^ 17 + r.i.toNat * 2 ^ 0)

/-- The operands of a word of format MDB: MARV (R267): `b` is the barrier number minus 1. -/
def MDB.take (w : Word) : MDB :=
  { s := bit w 31, d := fld w 21 4, b := fld w 13 4 }

/-- The word of format MDB whose fixed bits are `base`. -/
def MDB.put (base : Nat) (r : MDB) : Word :=
  BitVec.ofNat 32 (base + r.s.toNat * 2 ^ 31 + r.d.toNat * 2 ^ 21 + r.b.toNat * 2 ^ 13)

/-- The operands of a word of format MAB: MWAIT (R267). -/
def MAB.take (w : Word) : MAB :=
  { s := bit w 31, a := fld w 17 4, b := fld w 13 4 }

/-- The word of format MAB whose fixed bits are `base`. -/
def MAB.put (base : Nat) (r : MAB) : Word :=
  BitVec.ofNat 32 (base + r.s.toNat * 2 ^ 31 + r.a.toNat * 2 ^ 17 + r.b.toNat * 2 ^ 13)

/-- The operands of a word of format MB1: MSYNC (R267). -/
def MB1.take (w : Word) : MB1 :=
  { s := bit w 31, b := fld w 13 4 }

/-- The word of format MB1 whose fixed bits are `base`. -/
def MB1.put (base : Nat) (r : MB1) : Word :=
  BitVec.ofNat 32 (base + r.s.toNat * 2 ^ 31 + r.b.toNat * 2 ^ 13)

/-- The operands of a word of format MA1: a handle word of the sequencer (R268). -/
def MA1.take (w : Word) : MA1 :=
  { s := bit w 31, a := fld w 17 4 }

/-- The word of format MA1 whose fixed bits are `base`. -/
def MA1.put (base : Nat) (r : MA1) : Word :=
  BitVec.ofNat 32 (base + r.s.toNat * 2 ^ 31 + r.a.toNat * 2 ^ 17)

/-- The operands of a word of format MldaF: MLD.A (R256): `x` is D, `k` the slot, `f` the format. -/
def MldaF.take (w : Word) : MldaF :=
  { s := bit w 31, x := bit w 23, k := fld w 21 2, a := fld w 17 4, b := fld w 13 4, f := fld w 3 5 }

/-- The word of format MldaF whose fixed bits are `base`. -/
def MldaF.put (base : Nat) (r : MldaF) : Word :=
  BitVec.ofNat 32 (base + r.s.toNat * 2 ^ 31 + r.x.toNat * 2 ^ 23 + r.k.toNat * 2 ^ 21 + r.a.toNat * 2 ^ 17 + r.b.toNat * 2 ^ 13 + r.f.toNat * 2 ^ 3)

/-- The operands of a word of format Mab: MLD.B (R256). -/
def Mab.take (w : Word) : Mab :=
  { s := bit w 31, a := fld w 17 4, b := fld w 13 4 }

/-- The word of format Mab whose fixed bits are `base`. -/
def Mab.put (base : Nat) (r : Mab) : Word :=
  BitVec.ofNat 32 (base + r.s.toNat * 2 ^ 31 + r.a.toNat * 2 ^ 17 + r.b.toNat * 2 ^ 13)

/-- The operands of a word of format MmaF: MMA (R256): tile `t`, slot `k`, window register `b`, formats `g` (B) and `f` (A), fresh bit `z`. -/
def MmaF.take (w : Word) : MmaF :=
  { s := bit w 31, t := fld w 21 4, k := fld w 17 2, b := fld w 13 4, g := fld w 8 5, f := fld w 3 5, z := bit w 0 }

/-- The word of format MmaF whose fixed bits are `base`. -/
def MmaF.put (base : Nat) (r : MmaF) : Word :=
  BitVec.ofNat 32 (base + r.s.toNat * 2 ^ 31 + r.t.toNat * 2 ^ 21 + r.k.toNat * 2 ^ 17 + r.b.toNat * 2 ^ 13 + r.g.toNat * 2 ^ 8 + r.f.toNat * 2 ^ 3 + r.z.toNat * 2 ^ 0)

/-- The operands of a word of format MT1: a tile (R255). -/
def MT1.take (w : Word) : MT1 :=
  { s := bit w 31, t := fld w 21 4 }

/-- The word of format MT1 whose fixed bits are `base`. -/
def MT1.put (base : Nat) (r : MT1) : Word :=
  BitVec.ofNat 32 (base + r.s.toNat * 2 ^ 31 + r.t.toNat * 2 ^ 21)

/-- The operands of a word of format MstatF: MSTAT (R255). -/
def MstatF.take (w : Word) : MstatF :=
  { s := bit w 31, t := fld w 21 4, d := fld w 17 4 }

/-- The word of format MstatF whose fixed bits are `base`. -/
def MstatF.put (base : Nat) (r : MstatF) : Word :=
  BitVec.ofNat 32 (base + r.s.toNat * 2 ^ 31 + r.t.toNat * 2 ^ 21 + r.d.toNat * 2 ^ 17)

/-- The operands of a word of format MpushF: MPUSH (R256). -/
def MpushF.take (w : Word) : MpushF :=
  { s := bit w 31, t := fld w 21 4, a := fld w 17 4, b := fld w 13 4, c := bit w 0 }

/-- The word of format MpushF whose fixed bits are `base`. -/
def MpushF.put (base : Nat) (r : MpushF) : Word :=
  BitVec.ofNat 32 (base + r.s.toNat * 2 ^ 31 + r.t.toNat * 2 ^ 21 + r.a.toNat * 2 ^ 17 + r.b.toNat * 2 ^ 13 + r.c.toNat * 2 ^ 0)

/-- The operands of a word of format MstF: MST (R256): rounding `r`, saturation `x`, format `f`, clear bit `c`. -/
def MstF.take (w : Word) : MstF :=
  { s := bit w 31, t := fld w 21 4, a := fld w 17 4, b := fld w 13 4, r := fld w 10 3, x := bit w 9, f := fld w 3 5, c := bit w 0 }

/-- The word of format MstF whose fixed bits are `base`. -/
def MstF.put (base : Nat) (r : MstF) : Word :=
  BitVec.ofNat 32 (base + r.s.toNat * 2 ^ 31 + r.t.toNat * 2 ^ 21 + r.a.toNat * 2 ^ 17 + r.b.toNat * 2 ^ 13 + r.r.toNat * 2 ^ 10 + r.x.toNat * 2 ^ 9 + r.f.toNat * 2 ^ 3 + r.c.toNat * 2 ^ 0)

/-- The operands of a word of format MspecF: MSPEC (R256): shadow `u`, target `t`. -/
def MspecF.take (w : Word) : MspecF :=
  { s := bit w 31, u := fld w 21 4, t := fld w 17 4, z := bit w 0 }

/-- The word of format MspecF whose fixed bits are `base`. -/
def MspecF.put (base : Nat) (r : MspecF) : Word :=
  BitVec.ofNat 32 (base + r.s.toNat * 2 ^ 31 + r.u.toNat * 2 ^ 21 + r.t.toNat * 2 ^ 17 + r.z.toNat * 2 ^ 0)

/-- The operands of a word of format MresSigF: MRESOLVE.SIG (R272). -/
def MresSigF.take (w : Word) : MresSigF :=
  { s := bit w 31, d := fld w 21 4, a := fld w 17 4, k := fld w 13 2 }

/-- The word of format MresSigF whose fixed bits are `base`. -/
def MresSigF.put (base : Nat) (r : MresSigF) : Word :=
  BitVec.ofNat 32 (base + r.s.toNat * 2 ^ 31 + r.d.toNat * 2 ^ 21 + r.a.toNat * 2 ^ 17 + r.k.toNat * 2 ^ 13)

/-- The operands of a word of format McommitF: MCOMMIT (R256). -/
def McommitF.take (w : Word) : McommitF :=
  { s := bit w 31, t := fld w 21 4, a := fld w 17 4 }

/-- The word of format McommitF whose fixed bits are `base`. -/
def McommitF.put (base : Nat) (r : McommitF) : Word :=
  BitVec.ofNat 32 (base + r.s.toNat * 2 ^ 31 + r.t.toNat * 2 ^ 21 + r.a.toNat * 2 ^ 17)

/-- The operands of a word of format RvAB: spoke word with two sources (R308). -/
def RvAB.take (w : Word) : RvAB :=
  { b := fld w 20 5, a := fld w 15 5 }

/-- The word of format RvAB whose fixed bits are `base`. -/
def RvAB.put (base : Nat) (r : RvAB) : Word :=
  BitVec.ofNat 32 (base + r.b.toNat * 2 ^ 20 + r.a.toNat * 2 ^ 15)

/-- The operands of a word of format RvDA: spoke word with a destination and a source (R308). -/
def RvDA.take (w : Word) : RvDA :=
  { a := fld w 15 5, d := fld w 7 5 }

/-- The word of format RvDA whose fixed bits are `base`. -/
def RvDA.put (base : Nat) (r : RvDA) : Word :=
  BitVec.ofNat 32 (base + r.a.toNat * 2 ^ 15 + r.d.toNat * 2 ^ 7)

/-- The operands of a word of format RvA: spoke word with one source (R308). -/
def RvA.take (w : Word) : RvA :=
  { a := fld w 15 5 }

/-- The word of format RvA whose fixed bits are `base`. -/
def RvA.put (base : Nat) (r : RvA) : Word :=
  BitVec.ofNat 32 (base + r.a.toNat * 2 ^ 15)

/-- The operands of a word of format RvDAB: spoke word with a destination and two sources (R308). -/
def RvDAB.take (w : Word) : RvDAB :=
  { b := fld w 20 5, a := fld w 15 5, d := fld w 7 5 }

/-- The word of format RvDAB whose fixed bits are `base`. -/
def RvDAB.put (base : Nat) (r : RvDAB) : Word :=
  BitVec.ofNat 32 (base + r.b.toNat * 2 ^ 20 + r.a.toNat * 2 ^ 15 + r.d.toNat * 2 ^ 7)

/-- The operands of a word of format RvRing: spoke ring word (R311): cursor `c`. -/
def RvRing.take (w : Word) : RvRing :=
  { c := bit w 20, a := fld w 15 5, d := fld w 7 5 }

/-- The word of format RvRing whose fixed bits are `base`. -/
def RvRing.put (base : Nat) (r : RvRing) : Word :=
  BitVec.ofNat 32 (base + r.c.toNat * 2 ^ 20 + r.a.toNat * 2 ^ 15 + r.d.toNat * 2 ^ 7)

/-- The operands of a word of format RvD: spoke word with one destination (R312). -/
def RvD.take (w : Word) : RvD :=
  { d := fld w 7 5 }

/-- The word of format RvD whose fixed bits are `base`. -/
def RvD.put (base : Nat) (r : RvD) : Word :=
  BitVec.ofNat 32 (base + r.d.toNat * 2 ^ 7)

/-- An R-type word of RISC-V. -/
def Rv.r (op f3 f7 rd rs1 rs2 : Nat) : Word :=
  BitVec.ofNat 32 (op + rd * 2 ^ 7 + f3 * 2 ^ 12 + rs1 * 2 ^ 15 + rs2 * 2 ^ 20 + f7 * 2 ^ 25)

/-- An I-type word of RISC-V. -/
def Rv.i (op f3 rd rs1 imm : Nat) : Word :=
  BitVec.ofNat 32 (op + rd * 2 ^ 7 + f3 * 2 ^ 12 + rs1 * 2 ^ 15 + imm * 2 ^ 20)

/-- A 32-bit RISC-V load. -/
def Rv.putLoad (r : RvLoad) : Word :=
  Rv.i 0x03 (r.w.toNat + r.u.toNat * 4) r.rd.toNat r.rs1.toNat r.imm.toNat

/-- A 32-bit RISC-V store. -/
def Rv.putStore (r : RvStore) : Word :=
  Rv.r 0x23 r.w.toNat (r.imm.toNat / 32) (r.imm.toNat % 32) r.rs1.toNat r.rs2.toNat

/-- The funct5 of an AMO. -/
def Rv.amoCode : AmoOp → Nat
  | .add => 0 | .swap => 1 | .xor => 4 | .or => 8 | .and => 12 | .min => 16 | .max => 20 | .minu => 24 | .maxu => 28

/-- A word of the AMO opcode. -/
def Rv.amoWord (f5 rd rs1 rs2 : Nat) (aq rl dbl : Bool) : Word :=
  Rv.r 0x2F (2 + dbl.toNat) (f5 * 4 + aq.toNat * 2 + rl.toNat) rd rs1 rs2

/-- A 32-bit AMO. -/
def Rv.putAmo (r : RvAmo) : Word :=
  Rv.amoWord (Rv.amoCode r.op) r.rd.toNat r.rs1.toNat r.rs2.toNat r.aq r.rl r.dbl

/-- LR. -/
def Rv.putLr (r : RvLr) : Word := Rv.amoWord 2 r.rd.toNat r.rs1.toNat 0 r.aq r.rl r.dbl

/-- SC. -/
def Rv.putSc (r : RvSc) : Word := Rv.amoWord 3 r.rd.toNat r.rs1.toNat r.rs2.toNat r.aq r.rl r.dbl

/-- FENCE. -/
def Rv.putFence (r : RvFence) : Word :=
  Rv.i 0x0F 0 r.rd.toNat r.rs1.toNat (r.fm.toNat * 256 + r.pred.toNat * 16 + r.succ.toNat)

/-- A CSR read (R303). -/
def Rv.putCsr (r : RvCsr) : Word := Rv.i 0x73 (2 + r.clear.toNat) r.rd.toNat 0 r.csr.toNat

/-- The funct3 of a branch. -/
def Rv.condCode : RvCond → Nat
  | .eq => 0 | .ne => 1 | .lt => 4 | .ge => 5 | .ltu => 6 | .geu => 7

/-- Opcode, funct3 and the fixed upper immediate bits of a register-immediate operation. -/
def Rv.immCode : RvImmOp → Nat × Nat × Nat
  | .addi => (0x13, 0, 0) | .slti => (0x13, 2, 0) | .sltiu => (0x13, 3, 0) | .xori => (0x13, 4, 0)
  | .ori => (0x13, 6, 0) | .andi => (0x13, 7, 0) | .slli => (0x13, 1, 0) | .srli => (0x13, 5, 0)
  | .srai => (0x13, 5, 0x400) | .rori => (0x13, 5, 0x600) | .addiw => (0x1B, 0, 0) | .slliw => (0x1B, 1, 0)
  | .srliw => (0x1B, 5, 0) | .sraiw => (0x1B, 5, 0x400) | .roriw => (0x1B, 5, 0x600) | .slliUw => (0x1B, 1, 0x080)

/-- Opcode, funct3 and funct7 of a register-register operation. -/
def Rv.regCode : RvRegOp → Nat × Nat × Nat
  | .add => (0x33, 0, 0) | .sub => (0x33, 0, 0x20) | .sll => (0x33, 1, 0) | .slt => (0x33, 2, 0)
  | .sltu => (0x33, 3, 0) | .xor => (0x33, 4, 0) | .srl => (0x33, 5, 0) | .sra => (0x33, 5, 0x20)
  | .or => (0x33, 6, 0) | .and => (0x33, 7, 0)
  | .addw => (0x3B, 0, 0) | .subw => (0x3B, 0, 0x20) | .sllw => (0x3B, 1, 0) | .srlw => (0x3B, 5, 0)
  | .sraw => (0x3B, 5, 0x20)
  | .mul => (0x33, 0, 1) | .mulh => (0x33, 1, 1) | .mulhsu => (0x33, 2, 1) | .mulhu => (0x33, 3, 1)
  | .div => (0x33, 4, 1) | .divu => (0x33, 5, 1) | .rem => (0x33, 6, 1) | .remu => (0x33, 7, 1)
  | .mulw => (0x3B, 0, 1) | .divw => (0x3B, 4, 1) | .divuw => (0x3B, 5, 1) | .remw => (0x3B, 6, 1)
  | .remuw => (0x3B, 7, 1)
  | .sh1add => (0x33, 2, 0x10) | .sh2add => (0x33, 4, 0x10) | .sh3add => (0x33, 6, 0x10)
  | .addUw => (0x3B, 0, 4) | .sh1addUw => (0x3B, 2, 0x10) | .sh2addUw => (0x3B, 4, 0x10)
  | .sh3addUw => (0x3B, 6, 0x10)
  | .andn => (0x33, 7, 0x20) | .orn => (0x33, 6, 0x20) | .xnor => (0x33, 4, 0x20)
  | .min => (0x33, 4, 5) | .minu => (0x33, 5, 5) | .max => (0x33, 6, 5) | .maxu => (0x33, 7, 5)
  | .rol => (0x33, 1, 0x30) | .ror => (0x33, 5, 0x30) | .rolw => (0x3B, 1, 0x30) | .rorw => (0x3B, 5, 0x30)

/-- Opcode, funct3 and the twelve upper bits of a unary operation. -/
def Rv.unCode : RvUnOp → Nat × Nat × Nat
  | .clz => (0x13, 1, 0x600) | .ctz => (0x13, 1, 0x601) | .cpop => (0x13, 1, 0x602)
  | .clzw => (0x1B, 1, 0x600) | .ctzw => (0x1B, 1, 0x601) | .cpopw => (0x1B, 1, 0x602)
  | .sextB => (0x13, 1, 0x604) | .sextH => (0x13, 1, 0x605) | .zextH => (0x3B, 4, 0x080)
  | .orcB => (0x13, 5, 0x287) | .rev8 => (0x13, 5, 0x6B8)

/-- The 32-bit encoding of an instruction without a row of its own. -/
def Rv.putOp : RvOp → Word
  | .lui rd imm => BitVec.ofNat 32 (0x37 + rd.toNat * 2 ^ 7 + imm.toNat * 2 ^ 12)
  | .auipc rd imm => BitVec.ofNat 32 (0x17 + rd.toNat * 2 ^ 7 + imm.toNat * 2 ^ 12)
  | .jal rd off =>
    let n := off.toNat
    BitVec.ofNat 32 (0x6F + rd.toNat * 2 ^ 7 + n / 2 ^ 12 % 256 * 2 ^ 12 + n / 2 ^ 11 % 2 * 2 ^ 20
      + n / 2 % 1024 * 2 ^ 21 + n / 2 ^ 20 % 2 * 2 ^ 31)
  | .jalr rd rs1 imm => Rv.i 0x67 0 rd.toNat rs1.toNat imm.toNat
  | .branch cond rs1 rs2 off =>
    let n := off.toNat
    BitVec.ofNat 32 (0x63 + n / 2 ^ 11 % 2 * 2 ^ 7 + n / 2 % 16 * 2 ^ 8 + Rv.condCode cond * 2 ^ 12 + rs1.toNat * 2 ^ 15
      + rs2.toNat * 2 ^ 20 + n / 2 ^ 5 % 64 * 2 ^ 25 + n / 2 ^ 12 % 2 * 2 ^ 31)
  | .imm op rd rs1 imm =>
    let c := Rv.immCode op
    Rv.i c.1 c.2.1 rd.toNat rs1.toNat (imm.toNat + c.2.2)
  | .reg op rd rs1 rs2 =>
    let c := Rv.regCode op
    Rv.r c.1 c.2.1 c.2.2 rd.toNat rs1.toNat rs2.toNat
  | .un op rd rs1 =>
    let c := Rv.unCode op
    Rv.i c.1 c.2.1 rd.toNat rs1.toNat c.2.2

/-- The AMO of a funct5. -/
def Rv.amoOf : Nat → Option AmoOp
  | 0 => some .add | 1 => some .swap | 4 => some .xor | 8 => some .or | 12 => some .and | 16 => some .min
  | 20 => some .max | 24 => some .minu | 28 => some .maxu | _ => none

/-- The condition of a branch funct3. -/
def Rv.condOf : Nat → Option RvCond
  | 0 => some .eq | 1 => some .ne | 4 => some .lt | 5 => some .ge | 6 => some .ltu | 7 => some .geu | _ => none

/-- The register-register operations, in one list. -/
def Rv.regOps : List RvRegOp :=
  [.add, .sub, .sll, .slt, .sltu, .xor, .srl, .sra, .or, .and, .addw, .subw, .sllw, .srlw, .sraw,
   .mul, .mulh, .mulhsu, .mulhu, .div, .divu, .rem, .remu, .mulw, .divw, .divuw, .remw, .remuw]
  ++ [.sh1add, .sh2add, .sh3add, .addUw, .sh1addUw, .sh2addUw, .sh3addUw,
   .andn, .orn, .xnor, .min, .minu, .max, .maxu, .rol, .ror, .rolw, .rorw]

/-- The unary operations, in one list. -/
def Rv.unOps : List RvUnOp :=
  [.clz, .ctz, .cpop, .clzw, .ctzw, .cpopw, .sextB, .sextH, .zextH, .orcB, .rev8]

/-- The register-immediate operation of an opcode, a funct3 and the upper immediate bits. -/
def Rv.immOf (op f3 imm : Nat) : Option (RvImmOp × Nat) :=
  if op == 0x13 then
    match f3 with
    | 0 => some (.addi, imm) | 2 => some (.slti, imm) | 3 => some (.sltiu, imm) | 4 => some (.xori, imm)
    | 6 => some (.ori, imm) | 7 => some (.andi, imm)
    | 1 => if imm / 64 == 0 then some (.slli, imm % 64) else none
    | _ =>
      match imm / 64 with
      | 0 => some (.srli, imm % 64) | 16 => some (.srai, imm % 64) | 24 => some (.rori, imm % 64) | _ => none
  else
    match f3 with
    | 0 => some (.addiw, imm)
    | 1 => if imm / 32 == 0 then some (.slliw, imm % 32) else if imm / 64 == 2 then some (.slliUw, imm % 64) else none
    | 5 =>
      match imm / 32 with
      | 0 => some (.srliw, imm % 32) | 32 => some (.sraiw, imm % 32) | 48 => some (.roriw, imm % 32) | _ => none
    | _ => none

/-- A 32-bit RISC-V encoding outside the device's extension (R47, R303); `none` when it is illegal. -/
noncomputable def Rv.decode32 (w : Word) : Option Instr :=
  let n := w.toNat
  let op := n % 128
  let rd := fld w 7 5
  let f3 := n / 2 ^ 12 % 8
  let rs1 := fld w 15 5
  let rs2 := fld w 20 5
  let f7 := n / 2 ^ 25
  let imm := n / 2 ^ 20
  let other (o : RvOp) : Option Instr := some (.spokeOtherInstruction false o)
  match op with
  | 0x37 => other (.lui rd (fld w 12 20))
  | 0x17 => other (.auipc rd (fld w 12 20))
  | 0x6F => other (.jal rd (BitVec.ofNat 21 (n / 2 ^ 21 % 1024 * 2 + n / 2 ^ 20 % 2 * 2 ^ 11 + n / 2 ^ 12 % 256 * 2 ^ 12 + n / 2 ^ 31 * 2 ^ 20)))
  | 0x67 => if f3 == 0 then other (.jalr rd rs1 (fld w 20 12)) else none
  | 0x63 =>
    match Rv.condOf f3 with
    | some c => other (.branch c rs1 rs2 (BitVec.ofNat 13 (n / 2 ^ 8 % 16 * 2 + n / 2 ^ 25 % 64 * 2 ^ 5 + n / 2 ^ 7 % 2 * 2 ^ 11 + n / 2 ^ 31 * 2 ^ 12)))
    | none => none
  | 0x03 => if f3 == 7 then none else some (.spokeLoad { c := false, rd := rd, rs1 := rs1, imm := fld w 20 12, w := fld w 12 2, u := bit w 14 })
  | 0x23 => if f3 ≥ 4 then none else some (.spokeStore { c := false, rs1 := rs1, rs2 := rs2, imm := BitVec.ofNat 12 (f7 * 32 + rd.toNat), w := fld w 12 2 })
  | 0x13 | 0x1B =>
    match Rv.unOps.find? (fun u => Rv.unCode u == (op, f3, imm)) with
    | some u => other (.un u rd rs1)
    | none =>
      match Rv.immOf op f3 imm with
      | some (o, v) => other (.imm o rd rs1 (BitVec.ofNat 12 v))
      | none => none
  | 0x33 | 0x3B =>
    if (op, f3, imm) == Rv.unCode .zextH then other (.un .zextH rd rs1)
    else
      match Rv.regOps.find? (fun o => Rv.regCode o == (op, f3, f7)) with
      | some o => other (.reg o rd rs1 rs2)
      | none => none
  | 0x0F =>
    if f3 == 0 then some (.spokeFence { fm := fld w 28 4, pred := fld w 24 4, succ := fld w 20 4, rs1 := rs1, rd := rd })
    else if f3 == 1 then some .spokeFenceI else none
  | 0x2F =>
    if f3 == 2 || f3 == 3 then
      let dbl := f3 == 3
      let aq := bit w 26
      let rl := bit w 25
      if f7 / 4 == 2 then (if rs2 == 0 then some (.spokeLr { rd := rd, rs1 := rs1, aq := aq, rl := rl, dbl := dbl }) else none)
      else if f7 / 4 == 3 then some (.spokeSc { rd := rd, rs1 := rs1, rs2 := rs2, aq := aq, rl := rl, dbl := dbl })
      else
        match Rv.amoOf (f7 / 4) with
        | some o => some (.spokeAmo { op := o, rd := rd, rs1 := rs1, rs2 := rs2, aq := aq, rl := rl, dbl := dbl })
        | none => none
    else none
  | 0x73 =>
    if n == 0x73 then some .spokeEcall
    else if n == 0x00100073 then some (.spokeEbreak false)
    else if n == 0x10500073 then some .spokeWfi
    else if (f3 == 2 || f3 == 3) && rs1 == 0 && (imm == 0xC00 || imm == 0xC01 || imm == 0xC02) then
      some (.spokeCsrRead { clear := f3 == 3, rd := rd, csr := fld w 20 12 })
    else none
  | _ => none

/-- The registers x8 to x15 of a 3-bit field. -/
def Rv.cReg (n lo : Nat) : BitVec 5 := BitVec.ofNat 5 (n / 2 ^ lo % 8 + 8)

/-- The signed 6-bit immediate of a 16-bit encoding, as n bits. -/
def Rv.cImm6 (n w : Nat) : BitVec w := (BitVec.ofNat 6 (n / 4 % 32 + n / 2 ^ 12 % 2 * 32)).signExtend w

/-- A 16-bit RISC-V encoding (RV64C); `none` when it is illegal. -/
noncomputable def Rv.decodeC (h : BitVec 16) : Option Instr :=
  let n := h.toNat
  let rd := BitVec.ofNat 5 (n / 2 ^ 7)
  let rs2 := BitVec.ofNat 5 (n / 2 ^ 2)
  let r7 := Rv.cReg n 7
  let r2 := Rv.cReg n 2
  let sh := BitVec.ofNat 12 (n / 4 % 32 + n / 2 ^ 12 % 2 * 32)
  let offW := BitVec.ofNat 12 (n / 2 ^ 6 % 2 * 4 + n / 2 ^ 10 % 8 * 8 + n / 2 ^ 5 % 2 * 64)
  let offD := BitVec.ofNat 12 (n / 2 ^ 10 % 8 * 8 + n / 2 ^ 5 % 4 * 64)
  let other (o : RvOp) : Option Instr := some (.spokeOtherInstruction true o)
  match n % 4 + 4 * (n / 2 ^ 13) with
  | 0 =>
    let imm := n / 2 ^ 6 % 2 * 4 + n / 2 ^ 5 % 2 * 8 + n / 2 ^ 11 % 4 * 16 + n / 2 ^ 7 % 16 * 64
    if imm == 0 then none else other (.imm .addi r2 2 (BitVec.ofNat 12 imm))
  | 8 => some (.spokeLoad { c := true, rd := r2, rs1 := r7, imm := offW, w := 2, u := false })
  | 12 => some (.spokeLoad { c := true, rd := r2, rs1 := r7, imm := offD, w := 3, u := false })
  | 24 => some (.spokeStore { c := true, rs1 := r7, rs2 := r2, imm := offW, w := 2 })
  | 28 => some (.spokeStore { c := true, rs1 := r7, rs2 := r2, imm := offD, w := 3 })
  | 1 => other (.imm .addi rd rd (Rv.cImm6 n 12))
  | 5 => if rd == 0 then none else other (.imm .addiw rd rd (Rv.cImm6 n 12))
  | 9 => other (.imm .addi rd 0 (Rv.cImm6 n 12))
  | 13 =>
    if n / 4 % 32 + n / 2 ^ 12 % 2 == 0 then none
    else if rd == 2 then
      other (.imm .addi 2 2 ((BitVec.ofNat 10 (n / 2 ^ 6 % 2 * 16 + n / 2 ^ 2 % 2 * 32 + n / 2 ^ 5 % 2 * 64 + n / 2 ^ 3 % 4 * 128 + n / 2 ^ 12 % 2 * 512)).signExtend 12))
    else other (.lui rd (Rv.cImm6 n 20))
  | 17 =>
    match n / 2 ^ 10 % 4 with
    | 0 => other (.imm .srli r7 r7 sh)
    | 1 => other (.imm .srai r7 r7 sh)
    | 2 => other (.imm .andi r7 r7 (Rv.cImm6 n 12))
    | _ =>
      match n / 2 ^ 5 % 4 + 4 * (n / 2 ^ 12 % 2) with
      | 0 => other (.reg .sub r7 r7 r2)
      | 1 => other (.reg .xor r7 r7 r2)
      | 2 => other (.reg .or r7 r7 r2)
      | 3 => other (.reg .and r7 r7 r2)
      | 4 => other (.reg .subw r7 r7 r2)
      | 5 => other (.reg .addw r7 r7 r2)
      | _ => none
  | 21 =>
    other (.jal 0 ((BitVec.ofNat 12 (n / 2 ^ 3 % 8 * 2 + n / 2 ^ 11 % 2 * 16 + n / 2 ^ 2 % 2 * 32 + n / 2 ^ 7 % 2 * 64
      + n / 2 ^ 6 % 2 * 128 + n / 2 ^ 9 % 4 * 256 + n / 2 ^ 8 % 2 * 1024 + n / 2 ^ 12 % 2 * 2048)).signExtend 21))
  | 25 => other (.branch .eq r7 0 (cBranch n))
  | 29 => other (.branch .ne r7 0 (cBranch n))
  | 2 => other (.imm .slli rd rd sh)
  | 10 =>
    if rd == 0 then none
    else some (.spokeLoad { c := true, rd := rd, rs1 := 2, imm := BitVec.ofNat 12 (n / 2 ^ 4 % 8 * 4 + n / 2 ^ 12 % 2 * 32 + n / 2 ^ 2 % 4 * 64), w := 2, u := false })
  | 14 =>
    if rd == 0 then none
    else some (.spokeLoad { c := true, rd := rd, rs1 := 2, imm := BitVec.ofNat 12 (n / 2 ^ 5 % 4 * 8 + n / 2 ^ 12 % 2 * 32 + n / 2 ^ 2 % 8 * 64), w := 3, u := false })
  | 18 =>
    if n / 2 ^ 12 % 2 == 0 then
      if rs2 == 0 then (if rd == 0 then none else other (.jalr 0 rd 0))
      else other (.reg .add rd 0 rs2)
    else if rs2 == 0 then (if rd == 0 then some (.spokeEbreak true) else other (.jalr 1 rd 0))
    else other (.reg .add rd rd rs2)
  | 26 => some (.spokeStore { c := true, rs1 := 2, rs2 := rs2, imm := BitVec.ofNat 12 (n / 2 ^ 9 % 16 * 4 + n / 2 ^ 7 % 4 * 64), w := 2 })
  | 30 => some (.spokeStore { c := true, rs1 := 2, rs2 := rs2, imm := BitVec.ofNat 12 (n / 2 ^ 10 % 8 * 8 + n / 2 ^ 7 % 8 * 64), w := 3 })
  | _ => none
where
  /-- The branch offset of C.BEQZ and C.BNEZ. -/
  cBranch (n : Nat) : BitVec 13 :=
    (BitVec.ofNat 9 (n / 2 ^ 3 % 4 * 2 + n / 2 ^ 10 % 4 * 8 + n / 2 ^ 2 % 2 * 32 + n / 2 ^ 5 % 2 * 64 + n / 2 ^ 6 % 2 * 128
      + n / 2 ^ 12 % 2 * 256)).signExtend 13

/-- The bits of a 16-bit load or store whose registers are both x8 to x15. -/
def Rv.cMem (f3 w imm ra rb : Nat) : Nat :=
  f3 * 2 ^ 13 + ra % 8 * 2 ^ 7 + rb % 8 * 2 ^ 2 + imm / 8 % 8 * 2 ^ 10
    + (if w == 2 then imm / 4 % 2 * 2 ^ 6 + imm / 64 % 2 * 2 ^ 5 else imm / 64 % 4 * 2 ^ 5)

/-- A 6-bit immediate of a 16-bit encoding. -/
def Rv.cPut6 (imm : Nat) : Nat := imm % 32 * 4 + imm / 32 % 2 * 2 ^ 12

/-- The 16-bit encoding of an instruction without a row of its own. -/
def Rv.cOp : RvOp → Option Nat
  | .lui rd imm => some (1 + 3 * 2 ^ 13 + rd.toNat * 2 ^ 7 + Rv.cPut6 imm.toNat)
  | .auipc _ _ => none
  | .jal _ off =>
    let o := off.toNat
    some (1 + 5 * 2 ^ 13 + o / 2 % 8 * 2 ^ 3 + o / 16 % 2 * 2 ^ 11 + o / 32 % 2 * 2 ^ 2 + o / 64 % 2 * 2 ^ 7 + o / 128 % 2 * 2 ^ 6
      + o / 256 % 4 * 2 ^ 9 + o / 1024 % 2 * 2 ^ 8 + o / 2048 % 2 * 2 ^ 12)
  | .jalr rd rs1 _ => some (2 + 4 * 2 ^ 13 + rs1.toNat * 2 ^ 7 + (if rd == 1 then 2 ^ 12 else 0))
  | .branch cond rs1 _ off =>
    let o := off.toNat
    some (1 + (if cond == .eq then 6 else 7) * 2 ^ 13 + rs1.toNat % 8 * 2 ^ 7 + o / 2 % 4 * 2 ^ 3 + o / 8 % 4 * 2 ^ 10 + o / 32 % 2 * 2 ^ 2
      + o / 64 % 2 * 2 ^ 5 + o / 128 % 2 * 2 ^ 6 + o / 256 % 2 * 2 ^ 12)
  | .imm op rd rs1 imm =>
    let v := imm.toNat
    match op with
    | .addi =>
      if rd == rs1 && fitsS imm 6 then some (1 + rd.toNat * 2 ^ 7 + Rv.cPut6 v)
      else if rs1 == 0 then some (1 + 2 * 2 ^ 13 + rd.toNat * 2 ^ 7 + Rv.cPut6 v)
      else if rd == 2 then
        some (1 + 3 * 2 ^ 13 + 2 * 2 ^ 7 + v / 16 % 2 * 2 ^ 6 + v / 32 % 2 * 2 ^ 2 + v / 64 % 2 * 2 ^ 5 + v / 128 % 4 * 2 ^ 3 + v / 512 % 2 * 2 ^ 12)
      else
        some (rd.toNat % 8 * 2 ^ 2 + v / 4 % 2 * 2 ^ 6 + v / 8 % 2 * 2 ^ 5 + v / 16 % 4 * 2 ^ 11 + v / 64 % 16 * 2 ^ 7)
    | .addiw => some (1 + 1 * 2 ^ 13 + rd.toNat * 2 ^ 7 + Rv.cPut6 v)
    | .slli => some (2 + rd.toNat * 2 ^ 7 + Rv.cPut6 v)
    | .srli => some (1 + 4 * 2 ^ 13 + rd.toNat % 8 * 2 ^ 7 + Rv.cPut6 v)
    | .srai => some (1 + 4 * 2 ^ 13 + 2 ^ 10 + rd.toNat % 8 * 2 ^ 7 + Rv.cPut6 v)
    | .andi => some (1 + 4 * 2 ^ 13 + 2 * 2 ^ 10 + rd.toNat % 8 * 2 ^ 7 + Rv.cPut6 v)
    | _ => none
  | .reg op rd rs1 rs2 =>
    let alu (k : Nat) : Option Nat := some (1 + 4 * 2 ^ 13 + 3 * 2 ^ 10 + rd.toNat % 8 * 2 ^ 7 + rs2.toNat % 8 * 2 ^ 2 + k % 4 * 2 ^ 5 + k / 4 * 2 ^ 12)
    match op with
    | .add => some (2 + 4 * 2 ^ 13 + rd.toNat * 2 ^ 7 + rs2.toNat * 2 ^ 2 + (if rs1 == 0 then 0 else 2 ^ 12))
    | .sub => alu 0
    | .xor => alu 1
    | .or => alu 2
    | .and => alu 3
    | .subw => alu 4
    | .addw => alu 5
    | _ => none
  | .un _ _ _ => none

/-- The 16-bit encoding of an instruction that is marked as one. -/
def Rv.encodeC : Instr → Option (BitVec 16)
  | .spokeLoad r =>
    let n := r.imm.toNat
    if r.rs1 == 2 then
      some (BitVec.ofNat 16 (2 + (r.w.toNat) * 2 ^ 13 + r.rd.toNat * 2 ^ 7 + n / 32 % 2 * 2 ^ 12
        + (if r.w == 2 then n / 4 % 8 * 2 ^ 4 + n / 64 % 4 * 2 ^ 2 else n / 8 % 4 * 2 ^ 5 + n / 64 % 8 * 2 ^ 2)))
    else some (BitVec.ofNat 16 (Rv.cMem r.w.toNat r.w.toNat n r.rs1.toNat r.rd.toNat))
  | .spokeStore r =>
    let n := r.imm.toNat
    if r.rs1 == 2 then
      some (BitVec.ofNat 16 (2 + (r.w.toNat + 4) * 2 ^ 13 + r.rs2.toNat * 2 ^ 2
        + (if r.w == 2 then n / 4 % 16 * 2 ^ 9 + n / 64 % 4 * 2 ^ 7 else n / 8 % 8 * 2 ^ 10 + n / 64 % 8 * 2 ^ 7)))
    else some (BitVec.ofNat 16 (Rv.cMem (r.w.toNat + 4) r.w.toNat n r.rs1.toNat r.rs2.toNat))
  | .spokeEbreak true => some 0x9002#16
  | .spokeOtherInstruction true op =>
    match Rv.cOp op with
    | some n => some (BitVec.ofNat 16 n)
    | none => none
  | _ => none

/-- The instruction word of a word of the warp stream, the matrix stream or the spokes' 32-bit encodings; a step that no word
encodes has none. -/
def encodeWord : Instr → Option Word
  | .nop w => some (w.put 0x00000000)
  | .hint w => some (w.put 0x00000010)
  | .mode w => some (w.put 0x02000000)
  | .limm _ => some 0x7E000000#32
  | .bra w => some (w.put 0x04000000)
  | .call w => some (w.put 0x06000000)
  | .jmp w => some (w.put 0x08000000)
  | .callr w => some (w.put 0x08000001)
  | .ret w => some (w.put 0x08000002)
  | .exit w => some (w.put 0x08000003)
  | .regang w => some (w.put 0x0a000000)
  | .regangTimeout _ => none
  | .split w => some (w.put 0x0c000000)
  | .fuse w => some (w.put 0x0c000008)
  | .fuseTimeout _ => none
  | .widthq w => some (w.put 0x0c000010)
  | .warpq w => some (w.put 0x0c000011)
  | .splitq w => some (w.put 0x0c000012)
  | .laneq w => some (w.put 0x0c000013)
  | .pand w => some (w.put 0x0e000000)
  | .por w => some (w.put 0x0e000004)
  | .pxor w => some (w.put 0x0e000008)
  | .deact w => some (w.put 0x0e000010)
  | .splitBoost _ => none
  | .barSync w => some (w.put 0x10000000)
  | .barArv w => some (w.put 0x10000001)
  | .barWait w => some (w.put 0x10000002)
  | .barCnt w => some (w.put 0x10000003)
  | .barPhq w => some (w.put 0x10000004)
  | .barFold w => some (w.put 0x10000008)
  | .safe s _ _ => some (BitVec.ofNat 32 (0x12000000 + s.toNat * 2 ^ 31))
  | .srd w => some (w.put 0x15000000)
  | .swr w => some (w.put 0x14040000)
  | .sxch w => some (w.put 0x15040000)
  | .trap w => some (w.put 0x16000000)
  | .tret w => some (w.put 0x16000001)
  | .add w => some (w.put 0x18000000)
  | .sub w => some (w.put 0x18000001)
  | .mul w => some (w.put 0x18000002)
  | .mulhi w => some (w.put 0x18000003)
  | .min w => some (w.put 0x18000004)
  | .max w => some (w.put 0x18000005)
  | .absdiff w => some (w.put 0x18000006)
  | .mad w => some (w.put 0x18000007)
  | .abs w => some (w.put 0x18000008)
  | .neg w => some (w.put 0x18000009)
  | .and w => some (w.put 0x1a000000)
  | .or w => some (w.put 0x1a000001)
  | .xor w => some (w.put 0x1a000002)
  | .andn w => some (w.put 0x1a000003)
  | .not w => some (w.put 0x1a000004)
  | .shl w => some (w.put 0x1a000005)
  | .shr w => some (w.put 0x1a000006)
  | .popc w => some (w.put 0x1a000007)
  | .clz w => some (w.put 0x1a000008)
  | .bitrev w => some (w.put 0x1a000009)
  | .fext w => some (w.put 0x1a00000a)
  | .fins w => some (w.put 0x1a00000b)
  | .icmp w => some (w.put 0x1c000000)
  | .fcmp w => some (w.put 0x1e000000)
  | .fclass w => some (w.put 0x1e000010)
  | .fadd w => some (w.put 0x20000000)
  | .fsub w => some (w.put 0x20000001)
  | .fmul w => some (w.put 0x20000002)
  | .fdiv w => some (w.put 0x20000003)
  | .fmin w => some (w.put 0x20000004)
  | .fmax w => some (w.put 0x20000005)
  | .fabs w => some (w.put 0x20000006)
  | .fneg w => some (w.put 0x20000007)
  | .ffma w => some (w.put 0x22000000)
  | .ffms w => some (w.put 0x22000001)
  | .ffnma w => some (w.put 0x22000002)
  | .ffnms w => some (w.put 0x22000003)
  | .rcp w => some (w.put 0x24000000)
  | .rsq w => some (w.put 0x24000001)
  | .sqrt w => some (w.put 0x24000002)
  | .ex2 w => some (w.put 0x24000003)
  | .lg2 w => some (w.put 0x24000004)
  | .sin w => some (w.put 0x24000005)
  | .cos w => some (w.put 0x24000006)
  | .tanh w => some (w.put 0x24000007)
  | .cvt w => some (w.put 0x26000000)
  | .nenc w => some (w.put 0x28000000)
  | .ndec w => some (w.put 0x28000008)
  | .pack w => some (w.put 0x28000010)
  | .unpack w => some (w.put 0x28000018)
  | .sel w => some (w.put 0x2a000000)
  | .mov w => some (w.put 0x2a000008)
  | .movs w => some (w.put 0x2a000009)
  | .rdlane w => some (w.put 0x2a00000a)
  | .qxchX1 w => some (w.put 0x2c000000)
  | .qxchX2 w => some (w.put 0x2c000001)
  | .qxchX3 w => some (w.put 0x2c000002)
  | .qxch w => some (w.put 0x2c000003)
  | .shflFrom w => some (w.put 0x2c000004)
  | .shflBack w => some (w.put 0x2c000005)
  | .shflAhead w => some (w.put 0x2c000006)
  | .shflFlip w => some (w.put 0x2c000007)
  | .voteAnd w => some (w.put 0x2e000000)
  | .voteOr w => some (w.put 0x2e000001)
  | .voteSame w => some (w.put 0x2e000002)
  | .ballot w => some (w.put 0x2e000003)
  | .matchAny w => some (w.put 0x2e000004)
  | .redux w => some (w.put 0x30000000)
  | .scan w => some (w.put 0x30000008)
  | .sadd w => some (w.put 0x32000000)
  | .ssub w => some (w.put 0x32000001)
  | .smul w => some (w.put 0x32000002)
  | .smulhu w => some (w.put 0x32000003)
  | .smulhs w => some (w.put 0x32000004)
  | .sand w => some (w.put 0x32000005)
  | .sor w => some (w.put 0x32000006)
  | .sxor w => some (w.put 0x32000007)
  | .sshl w => some (w.put 0x32000008)
  | .sshr w => some (w.put 0x32000009)
  | .ssra w => some (w.put 0x3200000a)
  | .sminu w => some (w.put 0x3200000b)
  | .smaxu w => some (w.put 0x3200000c)
  | .smins w => some (w.put 0x3200000d)
  | .smaxs w => some (w.put 0x3200000e)
  | .sseq w => some (w.put 0x3200000f)
  | .ssltu w => some (w.put 0x32000010)
  | .sslts w => some (w.put 0x32000011)
  | .addi w => some (w.put 0x34000000)
  | .andi w => some (w.put 0x36000000)
  | .ori w => some (w.put 0x38000000)
  | .xori w => some (w.put 0x3a000000)
  | .movi w => some (w.put 0x3c000000)
  | .saddi w => some (w.put 0x3e000000)
  | .ld w => some (w.put 0x40000000)
  | .ldS w => some (w.put 0x40000001)
  | .ldF16 w => some (w.put 0x40000022)
  | .ldBf16 w => some (w.put 0x40000023)
  | .ldE4m3 w => some (w.put 0x40000004)
  | .ldE5m2 w => some (w.put 0x40000005)
  | .st w => some (w.put 0x42000000)
  | .stF16 w => some (w.put 0x42000021)
  | .stBf16 w => some (w.put 0x42000022)
  | .stE4m3 w => some (w.put 0x42000003)
  | .stE5m2 w => some (w.put 0x42000004)
  | .lds w => some (w.put 0x44000000)
  | .ldsF16 w => some (w.put 0x44000022)
  | .ldsBf16 w => some (w.put 0x44000023)
  | .sts w => some (w.put 0x44000004)
  | .stsF16 w => some (w.put 0x44000025)
  | .stsBf16 w => some (w.put 0x44000026)
  | .ldc w => some (w.put 0x46000000)
  | .atom w => some (w.put 0x48000000)
  | .red w => some (w.put 0x4a000000)
  | .atoms w => some (w.put 0x4c000000)
  | .fenceRel w => some (w.put 0x4e000000)
  | .fenceAcq w => some (w.put 0x4e000001)
  | .ldAcq w => some (w.put 0x4e000042)
  | .ccWb w => some (w.put 0x4e000003)
  | .ccInv w => some (w.put 0x4e000004)
  | .ccWbinv w => some (w.put 0x4e000005)
  | .pf w => some (w.put 0x4e000006)
  | .time w => some (w.put 0x50000000)
  | .twait w => some (w.put 0x50000001)
  | .mteps w => some (w.put 0x50000004)
  | .locq w => some (w.put 0x50000008)
  | .locqSelf w => some (w.put 0x50000009)
  | .ctrdL w => some (w.put 0x52000000)
  | .ctrdG w => some (w.put 0x52000001)
  | .ctjoin w => some (w.put 0x52000002)
  | .regmode w => some (w.put 0x52000003)
  | .geninc w => some (w.put 0x54000000)
  | .genwait w => some (w.put 0x54000001)
  | .genrd w => some (w.put 0x54000002)
  | .xlat w => some (w.put 0x54000003)
  | .qpop w => some (w.put 0x56000000)
  | .mtrd w => some (w.put 0x58000000)
  | .mtwr w => some (w.put 0x58000010)
  | .tilestat w => some (w.put 0x5a000000)
  | .msig w => some (w.put 0x5a000001)
  | .mqcnt w => some (w.put 0x5a000002)
  | .cpTensor w => some (w.put 0x5c000000)
  | .cpTensorW w => some (w.put 0x5c000008)
  | .cpStore w => some (w.put 0x5c000001)
  | .cpGather w => some (w.put 0x5c000002)
  | .cpMcast w => some (w.put 0x5e000000)
  | .hbAcq w => some (w.put 0x60000000)
  | .hbWait w => some (w.put 0x60000001)
  | .hbRel w => some (w.put 0x60000002)
  | .hbState w => some (w.put 0x60000003)
  | .rgNext w => some (w.put 0x60000004)
  | .cpResume w => some (w.put 0x62000000)
  | .cpAbort w => some (w.put 0x62000001)
  | .cpFrec w => some (w.put 0x62000002)
  | .treeNew w => some (w.put 0x64000000)
  | .treeClone w => some (w.put 0x64000001)
  | .treeRel w => some (w.put 0x64000002)
  | .treeRd w => some (w.put 0x64000003)
  | .nodeFork w => some (w.put 0x66000000)
  | .nodePrune w => some (w.put 0x66000001)
  | .nodeCommit w => some (w.put 0x66000002)
  | .nodeRd w => some (w.put 0x66000003)
  | .nodePay w => some (w.put 0x66000004)
  | .kvSlot w => some (w.put 0x68000000)
  | .kvAppend w => some (w.put 0x68000001)
  | .maskgen w => some (w.put 0x68000010)
  | .maskgenS w => some (w.put 0x68000011)
  | .tqPush w => some (w.put 0x6a000000)
  | .tqPop w => some (w.put 0x6a000001)
  | .tqSteal w => some (w.put 0x6a000002)
  | .pqIns w => some (w.put 0x6a000003)
  | .pqMin w => some (w.put 0x6a000004)
  | .depDec w => some (w.put 0x6a000005)
  | .depWait w => some (w.put 0x6a000006)
  | .taskEnd w => some (w.put 0x6a000007)
  | .bndMin w => some (w.put 0x6c000000)
  | .bndRd w => some (w.put 0x6c000001)
  | .bndSet w => some (w.put 0x6c000002)
  | .collAr w => some (w.put 0x6e000000)
  | .collAg w => some (w.put 0x6e000001)
  | .collRs w => some (w.put 0x6e000002)
  | .rldB32 w => some (w.put 0x6e000004)
  | .rldB64 w => some (w.put 0x6e000005)
  | .rstB32 w => some (w.put 0x6e000006)
  | .rstB64 w => some (w.put 0x6e000007)
  | .l1wbinv w => some (w.put 0x7c000000)
  | .xlflush w => some (w.put 0x7c000001)
  | .mnop w => some (w.put 0x00000000)
  | .mhint w => some (w.put 0x00000010)
  | .mend w => some (w.put 0x02000000)
  | .mbr w => some (w.put 0x04000000)
  | .madd w => some (w.put 0x06000000)
  | .msub w => some (w.put 0x06000001)
  | .mmul w => some (w.put 0x06000002)
  | .mand w => some (w.put 0x06000003)
  | .mor w => some (w.put 0x06000004)
  | .mxor w => some (w.put 0x06000005)
  | .mshl w => some (w.put 0x06000006)
  | .mshr w => some (w.put 0x06000007)
  | .msra w => some (w.put 0x06000008)
  | .mminu w => some (w.put 0x06000009)
  | .mmaxu w => some (w.put 0x0600000a)
  | .mseq w => some (w.put 0x0600000b)
  | .msltu w => some (w.put 0x0600000c)
  | .mslts w => some (w.put 0x0600000d)
  | .mmov w => some (w.put 0x0600000e)
  | .maddi w => some (w.put 0x08000000)
  | .mldg w => some (w.put 0x0a000000)
  | .marv w => some (w.put 0x0c000000)
  | .mwait w => some (w.put 0x0c000001)
  | .msync w => some (w.put 0x0c000002)
  | .mhwait w => some (w.put 0x0e000000)
  | .mhrel w => some (w.put 0x0e000001)
  | .mldA w => some (w.put 0x10000000)
  | .mldB w => some (w.put 0x12000000)
  | .mma w => some (w.put 0x14000000)
  | .mclr w => some (w.put 0x16000000)
  | .mclrI w => some (w.put 0x16000001)
  | .mstat w => some (w.put 0x16000002)
  | .mpush w => some (w.put 0x18000000)
  | .mst w => some (w.put 0x1a000000)
  | .mspec w => some (w.put 0x1c000000)
  | .mresolve w => some (w.put 0x1e000000)
  | .mresolveSig w => some (w.put 0x1e000001)
  | .mcommit w => some (w.put 0x20000000)
  | .mlimm _ => some 0x7E000000#32
  | .matrixCommandPerform _ => none
  | .tileRetire _ _ => none
  | .spokeCpTensor w => some (w.put 0x0000000b)
  | .spokeCpTensorW w => some (w.put 0x0200000b)
  | .spokeCpStore w => some (w.put 0x0400000b)
  | .spokeCpGather w => some (w.put 0x0600000b)
  | .spokeCpMcast w => some (w.put 0x0800000b)
  | .spokeHbAcq w => some (w.put 0x0000100b)
  | .spokeHbRel w => some (w.put 0x0200100b)
  | .spokeHbState w => some (w.put 0x0400100b)
  | .spokeCpResume w => some (w.put 0x0600100b)
  | .spokeCpAbort w => some (w.put 0x0800100b)
  | .spokeCpFrec w => some (w.put 0x0a00100b)
  | .spokeRgNext w => some (w.put 0x0000200b)
  | .spokeRgPeek w => some (w.put 0x0020200b)
  | .spokeRdmt w => some (w.put 0x0000300b)
  | .spokeRdeps w => some (w.put 0x0010300b)
  | .spokeRdctx w => some (w.put 0x0020300b)
  | .spokeHbWait w => some (w.put 0x0000002b)
  | .spokeSbarArv w => some (w.put 0x0000102b)
  | .spokeSbarWait w => some (w.put 0x0200102b)
  | .spokeSbarSync w => some (w.put 0x0400102b)
  | .spokeLoad r => if r.c then none else some (Rv.putLoad r)
  | .spokeStore r => if r.c then none else some (Rv.putStore r)
  | .spokeAmo r => some (Rv.putAmo r)
  | .spokeLr r => some (Rv.putLr r)
  | .spokeSc r => some (Rv.putSc r)
  | .spokeFence r => some (Rv.putFence r)
  | .spokeFenceI => some 0x0000100F#32
  | .spokeCsrRead r => some (Rv.putCsr r)
  | .spokeWfi => some 0x10500073#32
  | .spokeEcall => some 0x00000073#32
  | .spokeEbreak c => if c then none else some 0x00100073#32
  | .spokeOtherInstruction c op => if c then none else some (Rv.putOp op)
  | .resultReturn _ => none
  | .homeRead _ => none
  | .homeWrite _ => none
  | .homeAtomic _ => none
  | .ownershipRequest _ _ => none
  | .spanRelease _ => none
  | .recallSpan _ => none
  | .leaseRecordFree _ => none
  | .pageWalk _ _ _ => none
  | .translationExpiry _ _ => none
  | .hostSnoop _ => none
  | .hostSnoopAnswer _ => none
  | .cxlCacheResponse _ _ _ => none
  | .cxlCacheTimeout _ => none
  | .hostMemRead _ _ => none
  | .hostMemWrite _ _ => none
  | .hostWriteCompletion _ => none
  | .backInvalidateResponse _ => none
  | .linkDown _ => none
  | .heartbeatSend _ => none
  | .heartbeatReceive _ _ => none
  | .heartbeatTimeout _ => none
  | .syncSend _ => none
  | .syncReceive _ _ _ _ _ => none
  | .servoHoldover _ => none
  | .dieUnsync _ _ => none
  | .dieResync _ => none
  | .ptmExchange _ _ _ _ => none
  | .ptmLost => none
  | .partitionDeclare _ => none
  | .diePartitioned _ => none
  | .timeTargetReached _ => none
  | .opChange _ _ _ _ => none
  | .thermalThrottle _ _ => none
  | .thermalStop _ _ => none
  | .copyUnitRelease _ _ _ => none
  | .copyUnitFault _ _ => none
  | .handleFull _ _ => none
  | .mcastDeliveryAccept _ _ _ => none
  | .treeOpPerform _ => none
  | .maskgenRequest _ => none
  | .nodeSlotFree _ _ => none
  | .treeIdFree _ => none
  | .poolPageLapse _ => none
  | .cancelArrival _ _ => none
  | .cancelKill _ => none
  | .dequeOperation _ => none
  | .depDecrement _ => none
  | .autoEnqueue _ => none
  | .pqRound _ => none
  | .taskGiveBack _ => none
  | .boundUpdate _ _ => none
  | .preemptRequest _ _ => none
  | .forcedStop _ => none
  | .unitSaveDone _ => none
  | .lazyFillDone _ _ => none
  | .qdbWrite _ _ => none
  | .queueEnable _ => none
  | .queueDisable _ => none
  | .queuePreempt _ => none
  | .queueResume _ => none
  | .dispatchPacket _ => none
  | .waitPacket _ => none
  | .signalPacket _ => none
  | .signalValueWrite _ => none
  | .nopPacket _ => none
  | .reservedPacket _ => none
  | .workgroupPlace _ => none
  | .workgroupStart _ => none
  | .launchCompletionSignal _ => none
  | .launchEndSignal _ => none
  | .stealIdleRequest _ => none
  | .stealRequestReceive _ => none
  | .queueStealHandoff _ => none
  | .queueReturnHome _ => none
  | .workgroupSave _ => none
  | .workgroupRestore _ _ => none
  | .collPeerPacket _ _ _ _ => none
  | .collRankComplete _ _ => none
  | .collAbort _ _ => none
  | .collTimeout _ _ => none
  | .remoteAccessTarget _ => none
  | .remoteAccessResponse _ => none
  | .fabricLaneLoss _ _ => none
  | .fabricPortDown _ _ => none
  | .fabricSyncSend _ => none
  | .fabricSyncReceive _ _ _ _ _ => none
  | .keyLoad => none
  | .keyDisable => none
  | .keyDisableComplete => none
  | .lctlWrite _ _ => none
  | .pmctlWrite _ _ => none
  | .pmcntLoRead _ _ => none
  | .registerWrite _ => none
  | .spdmVersion => none
  | .spdmCapabilities => none
  | .spdmAlgorithms => none
  | .spdmDigests => none
  | .spdmCertificate _ _ => none
  | .spdmChallengeAuth _ => none
  | .spdmMeasurements _ _ _ => none
  | .spdmKeyExchange _ => none
  | .ideKm _ => none
  | .ideIntegrityFailure => none
  | .cxlLinkDown => none
  | .coldStart _ => none
  | .warmStart _ => none
  | .cxlHotReset _ => none
  | .ps1Entry => none
  | .ps2Entry => none
  | .ps2Wake _ => none
  | .reservedEncoding w => some w
  | .matrixReservedEncoding w => some w
  | .spokeIllegalInstruction w => some w
  | .eccGranuleError _ _ => none
  | .flitCrcFailure _ => none
  | .fabricPortTrained _ _ _ => none
  | .startComplete => none
  | .powerLoss => none
  | .configurationRequest _ => none
  | .l1SpanDrop _ _ => none

/-- The bytes of an instruction as its stream stores them (R7, R34, R122): the word, then the literal or the two data words;
a 16-bit spoke encoding is two bytes. -/
def encode (i : Instr) : List Byte :=
  match encodeWord i with
  | some w =>
    wordBytes w ++
      (match i with
      | .limm l => wordBytes l
      | .mlimm l => wordBytes l
      | .safe _ lo hi => wordBytes lo ++ wordBytes hi
      | _ => [])
  | none =>
    match Rv.encodeC i with
    | some h => bytesOfNat 2 h.toNat
    | none => []

/-- The warp instruction that a word's major opcode and function number name (R39); `x` and `y` are the two words after it. -/
noncomputable def candidateWarp (w x y : Word) : Option Instr :=
  match w.toNat / 2 ^ 25 % 64 with
  | 0 =>
    match w.toNat % 32 with
    | 0 => some (.nop (.take w))
    | 16 | 17 | 18 | 19 | 20 | 21 | 22 | 23 | 24 | 25 | 26 | 27 | 28 | 29 | 30 | 31 => some (.hint (.take w))
    | _ => none
  | 1 => some (.mode (.take w))
  | 2 => some (.bra (.take w))
  | 3 => some (.call (.take w))
  | 4 =>
    match w.toNat % 32 with
    | 0 => some (.jmp (.take w))
    | 1 => some (.callr (.take w))
    | 2 => some (.ret (.take w))
    | 3 => some (.exit (.take w))
    | _ => none
  | 5 => some (.regang (.take w))
  | 6 =>
    match w.toNat % 32 with
    | 0 | 1 | 2 | 3 | 4 | 5 | 6 | 7 => some (.split (.take w))
    | 8 | 9 | 10 | 11 | 12 | 13 | 14 | 15 => some (.fuse (.take w))
    | 16 => some (.widthq (.take w))
    | 17 => some (.warpq (.take w))
    | 18 => some (.splitq (.take w))
    | 19 => some (.laneq (.take w))
    | _ => none
  | 7 =>
    match w.toNat % 32 with
    | 0 | 1 | 2 | 3 => some (.pand (.take w))
    | 4 | 5 | 6 | 7 => some (.por (.take w))
    | 8 | 9 | 10 | 11 => some (.pxor (.take w))
    | 16 => some (.deact (.take w))
    | _ => none
  | 8 =>
    match w.toNat % 32 with
    | 0 => some (.barSync (.take w))
    | 1 => some (.barArv (.take w))
    | 2 => some (.barWait (.take w))
    | 3 => some (.barCnt (.take w))
    | 4 => some (.barPhq (.take w))
    | 8 | 9 | 10 | 11 | 12 | 13 | 14 | 15 => some (.barFold (.take w))
    | _ => none
  | 9 => some (.safe (bit w 31) x y)
  | 10 => some (if bit w 18 then (if bit w 24 then .sxch (.take w) else .swr (.take w)) else .srd (.take w))
  | 11 =>
    match w.toNat % 32 with
    | 0 => some (.trap (.take w))
    | 1 => some (.tret (.take w))
    | _ => none
  | 12 =>
    match w.toNat % 32 with
    | 0 => some (.add (.take w))
    | 1 => some (.sub (.take w))
    | 2 => some (.mul (.take w))
    | 3 => some (.mulhi (.take w))
    | 4 => some (.min (.take w))
    | 5 => some (.max (.take w))
    | 6 => some (.absdiff (.take w))
    | 7 => some (.mad (.take w))
    | 8 => some (.abs (.take w))
    | 9 => some (.neg (.take w))
    | _ => none
  | 13 =>
    match w.toNat % 32 with
    | 0 => some (.and (.take w))
    | 1 => some (.or (.take w))
    | 2 => some (.xor (.take w))
    | 3 => some (.andn (.take w))
    | 4 => some (.not (.take w))
    | 5 => some (.shl (.take w))
    | 6 => some (.shr (.take w))
    | 7 => some (.popc (.take w))
    | 8 => some (.clz (.take w))
    | 9 => some (.bitrev (.take w))
    | 10 => some (.fext (.take w))
    | 11 => some (.fins (.take w))
    | _ => none
  | 14 => some (.icmp (.take w))
  | 15 =>
    match w.toNat % 32 with
    | 0 | 1 | 2 | 3 | 4 | 5 | 6 | 7 | 8 | 9 | 10 | 11 | 12 | 13 | 14 | 15 => some (.fcmp (.take w))
    | 16 => some (.fclass (.take w))
    | _ => none
  | 16 =>
    match w.toNat % 32 with
    | 0 => some (.fadd (.take w))
    | 1 => some (.fsub (.take w))
    | 2 => some (.fmul (.take w))
    | 3 => some (.fdiv (.take w))
    | 4 => some (.fmin (.take w))
    | 5 => some (.fmax (.take w))
    | 6 => some (.fabs (.take w))
    | 7 => some (.fneg (.take w))
    | _ => none
  | 17 =>
    match w.toNat % 32 with
    | 0 => some (.ffma (.take w))
    | 1 => some (.ffms (.take w))
    | 2 => some (.ffnma (.take w))
    | 3 => some (.ffnms (.take w))
    | _ => none
  | 18 =>
    match w.toNat % 32 with
    | 0 => some (.rcp (.take w))
    | 1 => some (.rsq (.take w))
    | 2 => some (.sqrt (.take w))
    | 3 => some (.ex2 (.take w))
    | 4 => some (.lg2 (.take w))
    | 5 => some (.sin (.take w))
    | 6 => some (.cos (.take w))
    | 7 => some (.tanh (.take w))
    | _ => none
  | 19 => some (.cvt (.take w))
  | 20 =>
    match w.toNat % 32 with
    | 0 | 1 | 2 | 3 | 4 | 5 | 6 | 7 => some (.nenc (.take w))
    | 8 | 9 | 10 | 11 | 12 | 13 | 14 | 15 => some (.ndec (.take w))
    | 16 | 17 | 18 | 19 | 20 | 21 | 22 | 23 => some (.pack (.take w))
    | 24 | 25 | 26 | 27 | 28 | 29 | 30 | 31 => some (.unpack (.take w))
    | _ => none
  | 21 =>
    match w.toNat % 32 with
    | 0 | 1 | 2 | 3 | 4 | 5 | 6 | 7 => some (.sel (.take w))
    | 8 => some (.mov (.take w))
    | 9 => some (.movs (.take w))
    | 10 => some (.rdlane (.take w))
    | _ => none
  | 22 =>
    match w.toNat % 32 with
    | 0 | 16 => some (.qxchX1 (.take w))
    | 1 | 17 => some (.qxchX2 (.take w))
    | 2 | 18 => some (.qxchX3 (.take w))
    | 3 | 19 => some (.qxch (.take w))
    | 4 | 20 => some (.shflFrom (.take w))
    | 5 | 21 => some (.shflBack (.take w))
    | 6 | 22 => some (.shflAhead (.take w))
    | 7 | 23 => some (.shflFlip (.take w))
    | _ => none
  | 23 =>
    match w.toNat % 32 with
    | 0 | 16 => some (.voteAnd (.take w))
    | 1 | 17 => some (.voteOr (.take w))
    | 2 | 18 => some (.voteSame (.take w))
    | 3 | 19 => some (.ballot (.take w))
    | 4 | 20 => some (.matchAny (.take w))
    | _ => none
  | 24 =>
    match w.toNat % 32 with
    | 0 | 1 | 2 | 3 | 4 | 5 | 6 | 7 | 16 | 17 | 18 | 19 | 20 | 21 | 22 | 23 => some (.redux (.take w))
    | 8 | 9 | 10 | 11 | 12 | 13 | 14 | 15 | 24 | 25 | 26 | 27 | 28 | 29 | 30 | 31 => some (.scan (.take w))
    | _ => none
  | 25 =>
    match w.toNat % 32 with
    | 0 => some (.sadd (.take w))
    | 1 => some (.ssub (.take w))
    | 2 => some (.smul (.take w))
    | 3 => some (.smulhu (.take w))
    | 4 => some (.smulhs (.take w))
    | 5 => some (.sand (.take w))
    | 6 => some (.sor (.take w))
    | 7 => some (.sxor (.take w))
    | 8 => some (.sshl (.take w))
    | 9 => some (.sshr (.take w))
    | 10 => some (.ssra (.take w))
    | 11 => some (.sminu (.take w))
    | 12 => some (.smaxu (.take w))
    | 13 => some (.smins (.take w))
    | 14 => some (.smaxs (.take w))
    | 15 => some (.sseq (.take w))
    | 16 => some (.ssltu (.take w))
    | 17 => some (.sslts (.take w))
    | _ => none
  | 26 => some (.addi (.take w))
  | 27 => some (.andi (.take w))
  | 28 => some (.ori (.take w))
  | 29 => some (.xori (.take w))
  | 30 => some (.movi (.take w))
  | 31 => some (.saddi (.take w))
  | 32 =>
    match w.toNat % 8 with
    | 0 => some (.ld (.take w))
    | 1 => some (.ldS (.take w))
    | 2 => some (.ldF16 (.take w))
    | 3 => some (.ldBf16 (.take w))
    | 4 => some (.ldE4m3 (.take w))
    | 5 => some (.ldE5m2 (.take w))
    | _ => none
  | 33 =>
    match w.toNat % 8 with
    | 0 => some (.st (.take w))
    | 1 => some (.stF16 (.take w))
    | 2 => some (.stBf16 (.take w))
    | 3 => some (.stE4m3 (.take w))
    | 4 => some (.stE5m2 (.take w))
    | _ => none
  | 34 =>
    match w.toNat % 8 with
    | 0 | 1 => some (.lds (.take w))
    | 2 => some (.ldsF16 (.take w))
    | 3 => some (.ldsBf16 (.take w))
    | 4 => some (.sts (.take w))
    | 5 => some (.stsF16 (.take w))
    | 6 => some (.stsBf16 (.take w))
    | _ => none
  | 35 => some (.ldc (.take w))
  | 36 => some (.atom (.take w))
  | 37 => some (.red (.take w))
  | 38 => some (.atoms (.take w))
  | 39 =>
    match w.toNat % 8 with
    | 0 => some (.fenceRel (.take w))
    | 1 => some (.fenceAcq (.take w))
    | 2 => some (.ldAcq (.take w))
    | 3 => some (.ccWb (.take w))
    | 4 => some (.ccInv (.take w))
    | 5 => some (.ccWbinv (.take w))
    | 6 => some (.pf (.take w))
    | _ => none
  | 40 =>
    match w.toNat % 32 with
    | 0 => some (.time (.take w))
    | 1 => some (.twait (.take w))
    | 4 | 5 | 6 | 7 => some (.mteps (.take w))
    | 8 => some (.locq (.take w))
    | 9 => some (.locqSelf (.take w))
    | _ => none
  | 41 =>
    match w.toNat % 32 with
    | 0 => some (.ctrdL (.take w))
    | 1 => some (.ctrdG (.take w))
    | 2 => some (.ctjoin (.take w))
    | 3 => some (.regmode (.take w))
    | _ => none
  | 42 =>
    match w.toNat % 32 with
    | 0 => some (.geninc (.take w))
    | 1 => some (.genwait (.take w))
    | 2 => some (.genrd (.take w))
    | 3 => some (.xlat (.take w))
    | _ => none
  | 43 => some (.qpop (.take w))
  | 44 =>
    match w.toNat % 32 with
    | 0 | 1 | 2 | 3 | 4 | 5 | 6 | 7 | 8 | 9 | 10 | 11 | 12 | 13 | 14 | 15 => some (.mtrd (.take w))
    | 16 | 17 | 18 | 19 | 20 | 21 | 22 | 23 | 24 | 25 | 26 | 27 | 28 | 29 | 30 | 31 => some (.mtwr (.take w))
    | _ => none
  | 45 =>
    match w.toNat % 32 with
    | 0 => some (.tilestat (.take w))
    | 1 => some (.msig (.take w))
    | 2 => some (.mqcnt (.take w))
    | _ => none
  | 46 =>
    match w.toNat % 16 with
    | 0 => some (.cpTensor (.take w))
    | 1 => some (.cpStore (.take w))
    | 2 => some (.cpGather (.take w))
    | 8 => some (.cpTensorW (.take w))
    | _ => none
  | 47 => some (.cpMcast (.take w))
  | 48 =>
    match w.toNat % 32 with
    | 0 => some (.hbAcq (.take w))
    | 1 => some (.hbWait (.take w))
    | 2 => some (.hbRel (.take w))
    | 3 => some (.hbState (.take w))
    | 4 => some (.rgNext (.take w))
    | _ => none
  | 49 =>
    match w.toNat % 32 with
    | 0 => some (.cpResume (.take w))
    | 1 => some (.cpAbort (.take w))
    | 2 => some (.cpFrec (.take w))
    | _ => none
  | 50 =>
    match w.toNat % 32 with
    | 0 => some (.treeNew (.take w))
    | 1 => some (.treeClone (.take w))
    | 2 => some (.treeRel (.take w))
    | 3 => some (.treeRd (.take w))
    | _ => none
  | 51 =>
    match w.toNat % 32 with
    | 0 => some (.nodeFork (.take w))
    | 1 => some (.nodePrune (.take w))
    | 2 => some (.nodeCommit (.take w))
    | 3 => some (.nodeRd (.take w))
    | 4 => some (.nodePay (.take w))
    | _ => none
  | 52 =>
    match w.toNat % 32 with
    | 0 => some (.kvSlot (.take w))
    | 1 => some (.kvAppend (.take w))
    | 16 => some (.maskgen (.take w))
    | 17 => some (.maskgenS (.take w))
    | _ => none
  | 53 =>
    match w.toNat % 32 with
    | 0 => some (.tqPush (.take w))
    | 1 => some (.tqPop (.take w))
    | 2 => some (.tqSteal (.take w))
    | 3 => some (.pqIns (.take w))
    | 4 => some (.pqMin (.take w))
    | 5 => some (.depDec (.take w))
    | 6 => some (.depWait (.take w))
    | 7 => some (.taskEnd (.take w))
    | _ => none
  | 54 =>
    match w.toNat % 32 with
    | 0 => some (.bndMin (.take w))
    | 1 => some (.bndRd (.take w))
    | 2 => some (.bndSet (.take w))
    | _ => none
  | 55 =>
    match w.toNat % 32 with
    | 0 => some (.collAr (.take w))
    | 1 => some (.collAg (.take w))
    | 2 => some (.collRs (.take w))
    | 4 => some (.rldB32 (.take w))
    | 5 => some (.rldB64 (.take w))
    | 6 => some (.rstB32 (.take w))
    | 7 => some (.rstB64 (.take w))
    | _ => none
  | 62 =>
    match w.toNat % 32 with
    | 0 => some (.l1wbinv (.take w))
    | 1 => some (.xlflush (.take w))
    | _ => none
  | 63 => some (.limm x)
  | _ => none

/-- The matrix instruction that a word's major opcode and function number name (R45); `x` is the word after it. -/
noncomputable def candidateMatrix (w x : Word) : Option Instr :=
  match w.toNat / 2 ^ 25 % 64 with
  | 0 =>
    match w.toNat % 32 with
    | 0 => some (.mnop (.take w))
    | 16 | 17 | 18 | 19 | 20 | 21 | 22 | 23 | 24 | 25 | 26 | 27 | 28 | 29 | 30 | 31 => some (.mhint (.take w))
    | _ => none
  | 1 => some (.mend (.take w))
  | 2 => some (.mbr (.take w))
  | 3 =>
    match w.toNat % 32 with
    | 0 => some (.madd (.take w))
    | 1 => some (.msub (.take w))
    | 2 => some (.mmul (.take w))
    | 3 => some (.mand (.take w))
    | 4 => some (.mor (.take w))
    | 5 => some (.mxor (.take w))
    | 6 => some (.mshl (.take w))
    | 7 => some (.mshr (.take w))
    | 8 => some (.msra (.take w))
    | 9 => some (.mminu (.take w))
    | 10 => some (.mmaxu (.take w))
    | 11 => some (.mseq (.take w))
    | 12 => some (.msltu (.take w))
    | 13 => some (.mslts (.take w))
    | 14 => some (.mmov (.take w))
    | _ => none
  | 4 => some (.maddi (.take w))
  | 5 => some (.mldg (.take w))
  | 6 =>
    match w.toNat % 32 with
    | 0 => some (.marv (.take w))
    | 1 => some (.mwait (.take w))
    | 2 => some (.msync (.take w))
    | _ => none
  | 7 =>
    match w.toNat % 32 with
    | 0 => some (.mhwait (.take w))
    | 1 => some (.mhrel (.take w))
    | _ => none
  | 8 => some (.mldA (.take w))
  | 9 => some (.mldB (.take w))
  | 10 => some (.mma (.take w))
  | 11 =>
    match w.toNat % 8 with
    | 0 => some (.mclr (.take w))
    | 1 => some (.mclrI (.take w))
    | 2 => some (.mstat (.take w))
    | _ => none
  | 12 => some (.mpush (.take w))
  | 13 => some (.mst (.take w))
  | 14 => some (.mspec (.take w))
  | 15 =>
    match w.toNat % 32 with
    | 0 => some (.mresolve (.take w))
    | 1 => some (.mresolveSig (.take w))
    | _ => none
  | 16 => some (.mcommit (.take w))
  | 63 => some (.mlimm x)
  | _ => none

/-- The word of the extension that a spoke word's opcode, funct3 and function bits name (R308). -/
noncomputable def candidateSpoke (w : Word) : Option Instr :=
  let n := w.toNat
  let f7 := n / 2 ^ 25
  match n % 128, n / 2 ^ 12 % 8 with
  | 0x0B, 0 =>
    match f7 with
    | 0 => some (.spokeCpTensor (.take w))
    | 1 => some (.spokeCpTensorW (.take w))
    | 2 => some (.spokeCpStore (.take w))
    | 3 => some (.spokeCpGather (.take w))
    | 4 => some (.spokeCpMcast (.take w))
    | _ => none
  | 0x0B, 1 =>
    match f7 with
    | 0 => some (.spokeHbAcq (.take w))
    | 1 => some (.spokeHbRel (.take w))
    | 2 => some (.spokeHbState (.take w))
    | 3 => some (.spokeCpResume (.take w))
    | 4 => some (.spokeCpAbort (.take w))
    | 5 => some (.spokeCpFrec (.take w))
    | _ => none
  | 0x0B, 2 => if bit w 21 then some (.spokeRgPeek (.take w)) else some (.spokeRgNext (.take w))
  | 0x0B, 3 =>
    match n / 2 ^ 20 with
    | 0 => some (.spokeRdmt (.take w))
    | 1 => some (.spokeRdeps (.take w))
    | 2 => some (.spokeRdctx (.take w))
    | _ => none
  | 0x2B, 0 => some (.spokeHbWait (.take w))
  | 0x2B, 1 =>
    match f7 with
    | 0 => some (.spokeSbarArv (.take w))
    | 1 => some (.spokeSbarWait (.take w))
    | 2 => some (.spokeSbarSync (.take w))
    | _ => none
  | _, _ => none

/-- The field that a LIMM literal replaces (R34): vb where it names a vector or scalar source, the address vector of a MEM word. -/
def Instr.litField : Instr → Option (BitVec 6)
  | .add w => some w.b
  | .sub w => some w.b
  | .mul w => some w.b
  | .mulhi w => some w.b
  | .min w => some w.b
  | .max w => some w.b
  | .absdiff w => some w.b
  | .mad w => some w.b
  | .and w => some w.b
  | .or w => some w.b
  | .xor w => some w.b
  | .andn w => some w.b
  | .shl w => some w.b
  | .shr w => some w.b
  | .fext w => some w.b
  | .fins w => some w.b
  | .icmp w => some w.b
  | .fcmp w => some w.b
  | .fadd w => some w.b
  | .fsub w => some w.b
  | .fmul w => some w.b
  | .fdiv w => some w.b
  | .fmin w => some w.b
  | .fmax w => some w.b
  | .ffma w => some w.b
  | .ffms w => some w.b
  | .ffnma w => some w.b
  | .ffnms w => some w.b
  | .nenc w => some w.b
  | .ndec w => some w.b
  | .sel w => some w.b
  | .qxch w => some w.b
  | .shflFrom w => some w.b
  | .shflBack w => some w.b
  | .shflAhead w => some w.b
  | .shflFlip w => some w.b
  | .sadd w => some w.b
  | .ssub w => some w.b
  | .smul w => some w.b
  | .smulhu w => some w.b
  | .smulhs w => some w.b
  | .sand w => some w.b
  | .sor w => some w.b
  | .sxor w => some w.b
  | .sshl w => some w.b
  | .sshr w => some w.b
  | .ssra w => some w.b
  | .sminu w => some w.b
  | .smaxu w => some w.b
  | .smins w => some w.b
  | .smaxs w => some w.b
  | .sseq w => some w.b
  | .ssltu w => some w.b
  | .sslts w => some w.b
  | .ld w => some w.a
  | .ldS w => some w.a
  | .ldF16 w => some w.a
  | .ldBf16 w => some w.a
  | .ldE4m3 w => some w.a
  | .ldE5m2 w => some w.a
  | .st w => some w.a
  | .stF16 w => some w.a
  | .stBf16 w => some w.a
  | .stE4m3 w => some w.a
  | .stE5m2 w => some w.a
  | .lds w => some w.a
  | .ldsF16 w => some w.a
  | .ldsBf16 w => some w.a
  | .sts w => some w.a
  | .stsF16 w => some w.a
  | .stsBf16 w => some w.a
  | .ldc w => some w.a
  | .atom w => some w.a
  | .red w => some w.a
  | .atoms w => some w.a
  | .ldAcq w => some w.a
  | .ccWb w => some w.a
  | .ccInv w => some w.a
  | .ccWbinv w => some w.a
  | .pf w => some w.a
  | .regmode w => some w.b
  | .geninc w => some w.b
  | .genwait w => some w.b
  | .nodeFork w => some w.b
  | .nodeCommit w => some w.b
  | .nodePay w => some w.b
  | .kvSlot w => some w.b
  | .kvAppend w => some w.b
  | .maskgen w => some w.b
  | .maskgenS w => some w.b
  | .tqPush w => some w.b
  | .pqIns w => some w.b
  | .pqMin w => some w.b
  | .depDec w => some w.b
  | .rstB32 w => some w.b
  | .rstB64 w => some w.b
  | _ => none

/-- Whether the word takes the literal in place of a scalar source, whose field 63 means nothing without one (R159). -/
def Instr.litScalar : Instr → Bool
  | .sadd w => w.b == 63
  | .ssub w => w.b == 63
  | .smul w => w.b == 63
  | .smulhu w => w.b == 63
  | .smulhs w => w.b == 63
  | .sand w => w.b == 63
  | .sor w => w.b == 63
  | .sxor w => w.b == 63
  | .sshl w => w.b == 63
  | .sshr w => w.b == 63
  | .ssra w => w.b == 63
  | .sminu w => w.b == 63
  | .smaxu w => w.b == 63
  | .smins w => w.b == 63
  | .smaxs w => w.b == 63
  | .sseq w => w.b == 63
  | .ssltu w => w.b == 63
  | .sslts w => w.b == 63
  | .regmode w => w.b == 63
  | .geninc w => w.b == 63
  | .genwait w => w.b == 63
  | .nodeCommit w => w.b == 63
  | .kvAppend w => w.b == 63
  | .tqPush w => w.b == 63
  | .pqIns w => w.b == 63
  | .pqMin w => w.b == 63
  | .depDec w => w.b == 63
  | _ => false

/-- A candidate is the word's instruction when its encoding is the word, so that every bit that must be zero is, and it is
well-formed (R26, R42). -/
def accept (w : Word) (c : Option Instr) : Option Instr :=
  match c with
  | some i => if encodeWord i == some w && i.wf then some i else none
  | none => none

/-- The functions of a three-source major whose b field is not a source, so that a literal cannot stand in for it (R34, from the
operand columns of the table). -/
def notLiteral : List (Nat × List Nat) :=
  [(0, [0, 16, 17, 18, 19, 20, 21, 22, 23, 24, 25, 26, 27, 28, 29, 30, 31]), (4, [0, 1, 2, 3]), (6, List.range 20),
   (7, List.range 12 ++ [16]), (8, List.range 5 ++ [8, 9, 10, 11, 12, 13, 14, 15]), (11, [0, 1]), (12, [8, 9]),
   (13, [4, 7, 8, 9]), (14, []), (15, [16]), (16, [6, 7]), (17, []), (18, List.range 8), (19, List.range 32),
   (20, [16, 17, 18, 19, 20, 21, 22, 23, 24, 25, 26, 27, 28, 29, 30, 31]), (21, [8, 9, 10]), (22, [0, 1, 2, 16, 17, 18])]
  ++ [(23, [0, 1, 2, 3, 4, 16, 17, 18, 19, 20]), (24, List.range 32), (25, []), (40, [0, 1, 4, 5, 6, 7, 8, 9]),
   (41, [0, 1, 2]), (42, [2, 3]), (43, List.range 32), (44, List.range 32), (45, [0, 1, 2]), (48, [0, 1, 2, 3, 4]),
   (49, [0, 1, 2]), (50, [0, 1, 2, 3]), (51, [1, 3]), (52, []), (53, [1, 2, 6, 7]), (54, [0, 1, 2]), (55, [0, 1, 2, 4, 5]),
   (62, [0, 1])]

/-- R34: whether the word after a prefix and its literal may take the literal. -/
def limmConsumer (w : Word) : Bool :=
  let m := w.toNat / 2 ^ 25 % 64
  let fn := w.toNat % 32
  if Nat.ble 0x20 m && Nat.ble m 0x26 then fld w 13 6 == 63
  else if m == 0x27 then
    fld w 13 6 == 63 && [2, 3, 4, 5, 6].contains (fn % 8)
  else
    match notLiteral.lookup m with
    | some fns => fld w 7 6 == 63 && !bit w 5 && !fns.contains fn
    | none => false

/-- The warp word `w`, with the two words after it, as the instruction the warp stream reads (R39, R42); `lit` when a LIMM prefix
stands before it. Every word outside the table is the reserved encoding. -/
noncomputable def decodeWarp (lit : Bool) (w x y : Word) : Instr :=
  match accept w (candidateWarp w x y) with
  | some i => if i.litScalar && !lit then .reservedEncoding w else i
  | none => .reservedEncoding w

/-- R252: whether the matrix word after a prefix and its literal may take the literal. -/
def mlimmConsumer (w : Word) : Bool :=
  let m := w.toNat / 2 ^ 25 % 64
  fld w 13 4 == 15
    && ((m == 0x03 && w.toNat % 32 != 14) || m == 0x08 || m == 0x09 || m == 0x0A || m == 0x0C || m == 0x0D)

/-- The matrix word `w`, with the word after it (R45, R46). -/
noncomputable def decodeMatrix (w x : Word) : Instr :=
  match accept w (candidateMatrix w x) with
  | some i => i
  | none => .matrixReservedEncoding w

/-- A 32-bit word of a spoke (R47). -/
noncomputable def decodeSpoke32 (w : Word) : Instr :=
  match accept w (candidateSpoke w) with
  | some i => i
  | none =>
    match Rv.decode32 w with
    | some i => i
    | none => .spokeIllegalInstruction w

/-- A spoke encoding: 16 bits unless the two low bits are both set. -/
noncomputable def decodeSpoke (w : Word) : Instr :=
  if w.toNat % 4 == 3 then decodeSpoke32 w
  else
    match Rv.decodeC (fld w 0 16) with
    | some i => i
    | none => .spokeIllegalInstruction (BitVec.ofNat 32 (w.toNat % 2 ^ 16))

/-- How many bytes an instruction takes in its stream. -/
def Instr.size : Instr → Nat
  | .limm _ => 8
  | .mlimm _ => 8
  | .safe _ _ _ => 12
  | .spokeLoad r => if r.c then 2 else 4
  | .spokeStore r => if r.c then 2 else 4
  | .spokeEbreak c => if c then 2 else 4
  | .spokeOtherInstruction c _ => if c then 2 else 4
  | .spokeIllegalInstruction w => if w.toNat % 4 == 3 then 4 else 2
  | _ => 4

/-- Why bytes decode to no instruction. -/
inductive Reject where
  | truncated
  deriving DecidableEq, Repr

/-- The little-endian word at the head of a list of bytes, absent bytes read as zero. -/
def headWord (bs : List Byte) : Word := BitVec.ofNat 32 (natOfBytes (bs.take 4))

/-- Decode the instruction at the head of a list of bytes, and the bytes after it. Total: too few bytes are rejected by name, and
every other string of bytes is an instruction, a reserved encoding among them (R42, R46, R47). -/
noncomputable def decode (st : Stream) (lit : Bool) (bs : List Byte) : Except Reject (Instr × List Byte) :=
  let w := headWord bs
  let x := headWord (bs.drop 4)
  let y := headWord (bs.drop 8)
  let i := match st with
    | .warp => decodeWarp lit w x y
    | .matrix => decodeMatrix w x
    | .spoke => decodeSpoke w
  if bs.length < i.size then .error .truncated else .ok (i, bs.drop i.size)

/-- Whether an instruction is one stream's reserved encoding. -/
def Instr.isReserved : Instr → Bool
  | .reservedEncoding _ => true
  | .matrixReservedEncoding _ => true
  | .spokeIllegalInstruction _ => true
  | _ => false

/-- How many bits of its 32-bit word the table fixes for an instruction. -/
def Instr.fixedBits : Instr → Nat
  | .nop _ => 31
  | .hint _ => 7
  | .mode _ => 7
  | .limm _ => 32
  | .bra _ => 6
  | .call _ => 6
  | .jmp _ => 26
  | .callr _ => 26
  | .ret _ => 31
  | .exit _ => 31
  | .regang _ => 22
  | .regangTimeout _ => 0
  | .split _ => 28
  | .fuse _ => 23
  | .fuseTimeout _ => 0
  | .widthq _ => 26
  | .warpq _ => 26
  | .splitq _ => 26
  | .laneq _ => 25
  | .pand _ => 20
  | .por _ => 20
  | .pxor _ => 20
  | .deact _ => 27
  | .splitBoost _ => 0
  | .barSync _ => 25
  | .barArv _ => 20
  | .barWait _ => 20
  | .barCnt _ => 20
  | .barPhq _ => 20
  | .barFold _ => 12
  | .safe _ _ _ => 31
  | .srd _ => 13
  | .swr _ => 13
  | .sxch _ => 8
  | .trap _ => 26
  | .tret _ => 31
  | .add _ => 11
  | .sub _ => 11
  | .mul _ => 11
  | .mulhi _ => 11
  | .min _ => 11
  | .max _ => 11
  | .absdiff _ => 11
  | .mad _ => 11
  | .abs _ => 18
  | .neg _ => 18
  | .and _ => 11
  | .or _ => 11
  | .xor _ => 11
  | .andn _ => 11
  | .not _ => 18
  | .shl _ => 11
  | .shr _ => 11
  | .popc _ => 18
  | .clz _ => 18
  | .bitrev _ => 18
  | .fext _ => 11
  | .fins _ => 11
  | .icmp _ => 10
  | .fcmp _ => 10
  | .fclass _ => 18
  | .fadd _ => 11
  | .fsub _ => 11
  | .fmul _ => 11
  | .fdiv _ => 11
  | .fmin _ => 11
  | .fmax _ => 11
  | .fabs _ => 18
  | .fneg _ => 18
  | .ffma _ => 11
  | .ffms _ => 11
  | .ffnma _ => 11
  | .ffnms _ => 11
  | .rcp _ => 18
  | .rsq _ => 18
  | .sqrt _ => 18
  | .ex2 _ => 18
  | .lg2 _ => 18
  | .sin _ => 18
  | .cos _ => 18
  | .tanh _ => 18
  | .cvt _ => 10
  | .nenc _ => 8
  | .ndec _ => 8
  | .pack _ => 14
  | .unpack _ => 14
  | .sel _ => 8
  | .mov _ => 18
  | .movs _ => 20
  | .rdlane _ => 19
  | .qxchX1 _ => 17
  | .qxchX2 _ => 17
  | .qxchX3 _ => 17
  | .qxch _ => 10
  | .shflFrom _ => 10
  | .shflBack _ => 10
  | .shflAhead _ => 10
  | .shflFlip _ => 10
  | .voteAnd _ => 24
  | .voteOr _ => 24
  | .voteSame _ => 24
  | .ballot _ => 22
  | .matchAny _ => 15
  | .redux _ => 14
  | .scan _ => 14
  | .sadd _ => 15
  | .ssub _ => 15
  | .smul _ => 15
  | .smulhu _ => 15
  | .smulhs _ => 15
  | .sand _ => 15
  | .sor _ => 15
  | .sxor _ => 15
  | .sshl _ => 15
  | .sshr _ => 15
  | .ssra _ => 15
  | .sminu _ => 15
  | .smaxu _ => 15
  | .smins _ => 15
  | .smaxs _ => 15
  | .sseq _ => 15
  | .ssltu _ => 15
  | .sslts _ => 15
  | .addi _ => 6
  | .andi _ => 6
  | .ori _ => 6
  | .xori _ => 6
  | .movi _ => 12
  | .saddi _ => 8
  | .ld _ => 9
  | .ldS _ => 11
  | .ldF16 _ => 12
  | .ldBf16 _ => 12
  | .ldE4m3 _ => 12
  | .ldE5m2 _ => 12
  | .st _ => 9
  | .stF16 _ => 12
  | .stBf16 _ => 12
  | .stE4m3 _ => 12
  | .stE5m2 _ => 12
  | .lds _ => 10
  | .ldsF16 _ => 14
  | .ldsBf16 _ => 14
  | .sts _ => 11
  | .stsF16 _ => 14
  | .stsBf16 _ => 14
  | .ldc _ => 10
  | .atom _ => 6
  | .red _ => 6
  | .atoms _ => 7
  | .fenceRel _ => 29
  | .fenceAcq _ => 29
  | .ldAcq _ => 11
  | .ccWb _ => 20
  | .ccInv _ => 20
  | .ccWbinv _ => 20
  | .pf _ => 20
  | .time _ => 26
  | .twait _ => 26
  | .mteps _ => 24
  | .locq _ => 19
  | .locqSelf _ => 26
  | .ctrdL _ => 26
  | .ctrdG _ => 26
  | .ctjoin _ => 26
  | .regmode _ => 15
  | .geninc _ => 15
  | .genwait _ => 15
  | .genrd _ => 21
  | .xlat _ => 19
  | .qpop _ => 19
  | .mtrd _ => 14
  | .mtwr _ => 14
  | .tilestat _ => 22
  | .msig _ => 24
  | .mqcnt _ => 26
  | .cpTensor _ => 14
  | .cpTensorW _ => 14
  | .cpStore _ => 14
  | .cpGather _ => 14
  | .cpMcast _ => 10
  | .hbAcq _ => 21
  | .hbWait _ => 26
  | .hbRel _ => 26
  | .hbState _ => 21
  | .rgNext _ => 20
  | .cpResume _ => 26
  | .cpAbort _ => 26
  | .cpFrec _ => 17
  | .treeNew _ => 21
  | .treeClone _ => 21
  | .treeRel _ => 21
  | .treeRd _ => 18
  | .nodeFork _ => 13
  | .nodePrune _ => 21
  | .nodeCommit _ => 15
  | .nodeRd _ => 15
  | .nodePay _ => 19
  | .kvSlot _ => 13
  | .kvAppend _ => 15
  | .maskgen _ => 13
  | .maskgenS _ => 13
  | .tqPush _ => 15
  | .tqPop _ => 21
  | .tqSteal _ => 21
  | .pqIns _ => 15
  | .pqMin _ => 20
  | .depDec _ => 15
  | .depWait _ => 26
  | .taskEnd _ => 21
  | .bndMin _ => 23
  | .bndRd _ => 23
  | .bndSet _ => 23
  | .collAr _ => 21
  | .collAg _ => 21
  | .collRs _ => 21
  | .rldB32 _ => 19
  | .rldB64 _ => 19
  | .rstB32 _ => 19
  | .rstB64 _ => 19
  | .l1wbinv _ => 26
  | .xlflush _ => 26
  | .mnop _ => 31
  | .mhint _ => 7
  | .mend _ => 31
  | .mbr _ => 6
  | .madd _ => 19
  | .msub _ => 19
  | .mmul _ => 19
  | .mand _ => 19
  | .mor _ => 19
  | .mxor _ => 19
  | .mshl _ => 19
  | .mshr _ => 19
  | .msra _ => 19
  | .mminu _ => 19
  | .mmaxu _ => 19
  | .mseq _ => 19
  | .msltu _ => 19
  | .mslts _ => 19
  | .mmov _ => 23
  | .maddi _ => 6
  | .mldg _ => 6
  | .marv _ => 23
  | .mwait _ => 23
  | .msync _ => 27
  | .mhwait _ => 27
  | .mhrel _ => 27
  | .mldA _ => 15
  | .mldB _ => 23
  | .mma _ => 10
  | .mclr _ => 27
  | .mclrI _ => 27
  | .mstat _ => 23
  | .mpush _ => 18
  | .mst _ => 9
  | .mspec _ => 22
  | .mresolve _ => 19
  | .mresolveSig _ => 21
  | .mcommit _ => 23
  | .mlimm _ => 32
  | .matrixCommandPerform _ => 0
  | .tileRetire _ _ => 0
  | .spokeCpTensor _ => 22
  | .spokeCpTensorW _ => 22
  | .spokeCpStore _ => 22
  | .spokeCpGather _ => 22
  | .spokeCpMcast _ => 22
  | .spokeHbAcq _ => 22
  | .spokeHbRel _ => 27
  | .spokeHbState _ => 22
  | .spokeCpResume _ => 27
  | .spokeCpAbort _ => 27
  | .spokeCpFrec _ => 17
  | .spokeRgNext _ => 21
  | .spokeRgPeek _ => 21
  | .spokeRdmt _ => 27
  | .spokeRdeps _ => 27
  | .spokeRdctx _ => 27
  | .spokeHbWait _ => 27
  | .spokeSbarArv _ => 22
  | .spokeSbarWait _ => 22
  | .spokeSbarSync _ => 27
  | .spokeLoad _ => 0
  | .spokeStore _ => 0
  | .spokeAmo _ => 0
  | .spokeLr _ => 0
  | .spokeSc _ => 0
  | .spokeFence _ => 0
  | .spokeFenceI => 0
  | .spokeCsrRead _ => 0
  | .spokeWfi => 32
  | .spokeEcall => 0
  | .spokeEbreak _ => 0
  | .spokeOtherInstruction _ _ => 0
  | .resultReturn _ => 0
  | .homeRead _ => 0
  | .homeWrite _ => 0
  | .homeAtomic _ => 0
  | .ownershipRequest _ _ => 0
  | .spanRelease _ => 0
  | .recallSpan _ => 0
  | .leaseRecordFree _ => 0
  | .pageWalk _ _ _ => 0
  | .translationExpiry _ _ => 0
  | .hostSnoop _ => 0
  | .hostSnoopAnswer _ => 0
  | .cxlCacheResponse _ _ _ => 0
  | .cxlCacheTimeout _ => 0
  | .hostMemRead _ _ => 0
  | .hostMemWrite _ _ => 0
  | .hostWriteCompletion _ => 0
  | .backInvalidateResponse _ => 0
  | .linkDown _ => 0
  | .heartbeatSend _ => 0
  | .heartbeatReceive _ _ => 0
  | .heartbeatTimeout _ => 0
  | .syncSend _ => 0
  | .syncReceive _ _ _ _ _ => 0
  | .servoHoldover _ => 0
  | .dieUnsync _ _ => 0
  | .dieResync _ => 0
  | .ptmExchange _ _ _ _ => 0
  | .ptmLost => 0
  | .partitionDeclare _ => 0
  | .diePartitioned _ => 0
  | .timeTargetReached _ => 0
  | .opChange _ _ _ _ => 0
  | .thermalThrottle _ _ => 0
  | .thermalStop _ _ => 0
  | .copyUnitRelease _ _ _ => 0
  | .copyUnitFault _ _ => 0
  | .handleFull _ _ => 0
  | .mcastDeliveryAccept _ _ _ => 0
  | .treeOpPerform _ => 0
  | .maskgenRequest _ => 0
  | .nodeSlotFree _ _ => 0
  | .treeIdFree _ => 0
  | .poolPageLapse _ => 0
  | .cancelArrival _ _ => 0
  | .cancelKill _ => 0
  | .dequeOperation _ => 0
  | .depDecrement _ => 0
  | .autoEnqueue _ => 0
  | .pqRound _ => 0
  | .taskGiveBack _ => 0
  | .boundUpdate _ _ => 0
  | .preemptRequest _ _ => 0
  | .forcedStop _ => 0
  | .unitSaveDone _ => 0
  | .lazyFillDone _ _ => 0
  | .qdbWrite _ _ => 0
  | .queueEnable _ => 0
  | .queueDisable _ => 0
  | .queuePreempt _ => 0
  | .queueResume _ => 0
  | .dispatchPacket _ => 0
  | .waitPacket _ => 0
  | .signalPacket _ => 0
  | .signalValueWrite _ => 0
  | .nopPacket _ => 0
  | .reservedPacket _ => 0
  | .workgroupPlace _ => 0
  | .workgroupStart _ => 0
  | .launchCompletionSignal _ => 0
  | .launchEndSignal _ => 0
  | .stealIdleRequest _ => 0
  | .stealRequestReceive _ => 0
  | .queueStealHandoff _ => 0
  | .queueReturnHome _ => 0
  | .workgroupSave _ => 0
  | .workgroupRestore _ _ => 0
  | .collPeerPacket _ _ _ _ => 0
  | .collRankComplete _ _ => 0
  | .collAbort _ _ => 0
  | .collTimeout _ _ => 0
  | .remoteAccessTarget _ => 0
  | .remoteAccessResponse _ => 0
  | .fabricLaneLoss _ _ => 0
  | .fabricPortDown _ _ => 0
  | .fabricSyncSend _ => 0
  | .fabricSyncReceive _ _ _ _ _ => 0
  | .keyLoad => 0
  | .keyDisable => 0
  | .keyDisableComplete => 0
  | .lctlWrite _ _ => 0
  | .pmctlWrite _ _ => 0
  | .pmcntLoRead _ _ => 0
  | .registerWrite _ => 0
  | .spdmVersion => 0
  | .spdmCapabilities => 0
  | .spdmAlgorithms => 0
  | .spdmDigests => 0
  | .spdmCertificate _ _ => 0
  | .spdmChallengeAuth _ => 0
  | .spdmMeasurements _ _ _ => 0
  | .spdmKeyExchange _ => 0
  | .ideKm _ => 0
  | .ideIntegrityFailure => 0
  | .cxlLinkDown => 0
  | .coldStart _ => 0
  | .warmStart _ => 0
  | .cxlHotReset _ => 0
  | .ps1Entry => 0
  | .ps2Entry => 0
  | .ps2Wake _ => 0
  | .reservedEncoding _ => 0
  | .matrixReservedEncoding _ => 0
  | .spokeIllegalInstruction _ => 17
  | .eccGranuleError _ _ => 0
  | .flitCrcFailure _ => 0
  | .fabricPortTrained _ _ _ => 0
  | .startComplete => 0
  | .powerLoss => 0
  | .configurationRequest _ => 0
  | .l1SpanDrop _ _ => 0

/-- The instruction of a table row's word. The three streams overlap, and a row's number does not name its stream: of the streams
that accept the word, the one whose encoding fixes the most bits is taken, and of equals the warp stream, then the spokes, then
the matrix stream (DESIGN CHOICE, log entry 2). The words above `nbits` are zero. -/
noncomputable def decodeTableWord (nbits w : Nat) : Option Instr :=
  let bs := bytesOfNat 12 (w % 2 ^ nbits)
  let pick (st : Stream) : Option Instr :=
    match decode st false bs with
    | .ok (i, _) => if i.isReserved || i.size * 8 < nbits then none else some i
    | .error _ => none
  let better (a b : Option Instr) : Option Instr :=
    match a, b with
    | some x, some y => if Nat.ble y.fixedBits x.fixedBits then some x else some y
    | some x, none => some x
    | none, y => y
  better (better (pick .warp) (pick .spoke)) (pick .matrix)

end Sys2Proof
end

