-- ==== Sys2Proof/Machine/WarpSeq.lean ====
section
/-! DEFINITION. The warp sequencer (R81 to R107) and the words of majors 0x00, 0x01 and 0x3F: fetch, branches and divergence, exit,
reconvergence, SPLIT and FUSE, predicate logic. -/

namespace Sys2Proof.Machine

/-! ## Memory that the hardware reaches by virtual address -/

/-- Resolve a virtual address for an access that the hardware makes at once: a refused generation is walked again (R240). -/
def State.resolve (s : State) (core root rgen va n : Nat) (a : Acc) (prv : Bool) (agent : Party) : State × Got Leaf :=
  let wr := a == .store
  let after (t : State) (l : Leaf) : State × Got Leaf :=
    if t.onHold (l.at va) || t.homeBusy (dieOfCore core) wr (l.at va) n agent then (t.prompt wr (l.at va) n, .later) else (t, .ok l)
  match s.translate core root rgen va a prv with
  | (t, .fault c) => (t, .bad c)
  | (t, .leaf l) =>
    if t.stale l (l.at va) then
      match (t.dropXlat core (fun x => x.leaf == l)).translate core root rgen va a prv with
      | (u, .leaf k) => if u.stale k (k.at va) then (u.stallRetry core root rgen va a, .later) else after u k
      | (u, .fault c) => (u, .bad c)
      | (u, _) => (u, .later)
    else after t l
  | (t, _) => (t, .later)

/-- Read bytes within one block by virtual address for a workgroup; `cls` is the class of the engine that a failure is recorded under (R214,
R246). -/
def State.vaRead (s : State) (g va n : Nat) (prv : Bool) (agent : Party) (cls : Nat) : State × Got (List Byte) :=
  let w := s.wg g
  match s.resolve w.core w.troot w.trgen va n .load prv agent with
  | (t, .ok l) =>
    let pa := l.at va
    match t.homeCause pa n with
    | some c => (t.recordHome w.core cls c pa, .bad c)
    | none => (t, .ok (t.readMem l.key pa n))
  | (t, .bad c) => (t.logXlat w.core cls c va, .bad c)
  | (t, .later) => (t, .later)

/-- Write bytes within one block by virtual address for a workgroup; a copy in the L1 keeps up with it. Answers W. -/
def State.vaWrite (s : State) (g va : Nat) (bs : List Byte) (prv : Bool) (agent : Party) (cls : Nat) : State × Got Nat :=
  let w := s.wg g
  match s.resolve w.core w.troot w.trgen va bs.length .store prv agent with
  | (t, .ok l) =>
    let pa := l.at va
    match t.homeCause pa bs.length with
    | some 0x082 | none =>
      let r := (t.patchL1 (t.l1Core w.core pa) pa bs).homeStore l.key pa bs
      (r.1, .ok r.2)
    | some c => (t.recordHome w.core cls c pa, .bad c)
  | (t, .bad c) => (t.logXlat w.core cls c va, .bad c)
  | (t, .later) => (t, .later)

/-- Fetch a word of a stream for a workgroup (R25, R239): a poisoned fetch reads as the pattern of R33, and its cause is recorded. After a write
of code R58 allows the old word or the new one; the model brings what the home holds (DESIGN CHOICE, log entry 53). -/
def State.fetchWord (s : State) (g va : Nat) (prv : Bool) (cls : Nat) : State × Got Word :=
  let w := s.wg g
  if Nat.ble (2 ^ 56) va then (s.logXlat w.core cls 0x0A1 va, .bad 0x0A1)
  else
    match s.resolve w.core w.troot w.trgen va 4 .fetch prv .device with
    | (t, .ok l) =>
      let pa := l.at va
      match t.homeCause pa 4 with
      | some c => (t.recordHome w.core cls c pa, .ok poisonPattern)
      | none => (t, .ok (BitVec.ofNat 32 (t.readNat l.key pa 4)))
    | (t, .bad c) => (t.logXlat w.core cls c va, .bad c)
    | (t, .later) => (t, .later)

/-! ## Words that act on the split itself -/

/-- What a control word comes to: the new state, a trap with the spill address that faulted (R95) and what the dies have recorded of it, or a
wait. -/
inductive Ctl where
  | ok (s : State)
  | trap (cause val : Nat) (sqf : Option Nat) (dies : List Die)
  | later (s : State)
  deriving DecidableEq, Repr

/-- Continue with the state of a result. -/
def Ctl.andThen (c : Ctl) (f : State → Ctl) : Ctl :=
  match c with
  | .ok s => f s
  | r => r

/-- A word that closes its group and then acts on the split: it waits for the results of its group, its checks read the registers as
the group began, the group is written, and the action starts from there with the pc at the next word (R28, R29). A trap leaves the
word without effect. -/
def closingWord (check : Nat → State → State × Out) (act : Nat → State → State → Ctl) (s : State) : Host.Outcome State Fault Refusal :=
  let i := s.who.split
  let g := s.wgIdxOf i
  if (s.split i).awaiting then .next (stopSweep g (parkRetest i .loadsReturned s))
  else
    match check i s with
    | (t, .trap c v) => .next (raiseHere i c v t)
    | (t, .wait c) => .next (stopSweep g (parkRetest i c t))
    | (t, .done held) =>
      match act i t (finishWord i true held t) with
      | .ok u => .next (stopSweep g u)
      | .trap c v sqf dies =>
        let u := { t with dies := dies }
        .next (raiseHere i c v (match sqf with
          | some a => u.modWg (u.wgIdxOf i) (fun w => { w with sqfaddr := a })
          | none => u))
      | .later u => .next (stopSweep g (parkRetest i u.memWait { u with splits := t.splits, warps := t.warps }))

/-- No checks. -/
def noCheck (_ : Nat) (s : State) : State × Out := (s, .done [])

/-! ## Ends and rendezvous (R83, R99, R103) -/

/-- The core cycle where a split runs. -/
def State.cycleOf (s : State) (i : Nat) : Nat := (s.die (dieOfCore (s.coreOf i))).cycle

/-- A split becomes ready. -/
def readySplit (i : Nat) (s : State) : State := s.modSplit i (fun x => { x with phase := .ready, woken := false, since := s.cycleOf i })

/-- Whether no copy in an entry has units in flight or still to be sent (R299). -/
def State.copyQuiet (s : State) (e : Entry) : Bool :=
  match e.copy.bind (fun k => s.copies[k]?) with
  | some c => e.fault || (c.flight.isEmpty && e.dpend == 0 && Nat.ble c.bytes c.sent)
  | none => true

/-- Whether every role of a workgroup has ended (R14): its warps, its contexts, no copy is in flight (R299), and no collective it posted is
left (R414). -/
def State.rolesDone (s : State) (g : Nat) : Bool :=
  let w := s.wg g
  let done (on : Bool) (p : CtxPhase) : Bool := !on || p == .ended
  w.phase == .running && (s.warpsOf g).isEmpty && done w.matrix w.seq.phase && done w.load w.lspoke.phase &&
  done w.store w.sspoke.phase && w.entries.all s.copyQuiet &&
  !s.dies.any (fun d => d.colls.any (fun c => c.any (fun x => x.wg == some g)))

/-- The workgroup retires once every role has ended (R14). -/
def tryRetire (g : Nat) (s : State) : State := if s.rolesDone g then retireWg g s else s

/-- The splits of a warp parked at REGANG id k under a gang entry (R98). -/
def State.regangParts (s : State) (w k : Nat) (gang : BitVec 32) : List Nat :=
  (s.splitsOf w).filter (fun i => match (s.split i).phase with
    | .parked (.regang c _ _) => c == k && (s.split i).gang.head? == some gang
    | _ => false)

/-- Lanes held in deferred entries of a split's stack. -/
def Split.deferred (x : Split) : Mask :=
  x.spill.foldl (fun m p => m ||| p.2) (x.div.foldl (fun m e => if e.rejoin then m else m ||| e.mask) 0)

/-- The lowest set bit of a number below 2^128, or 128. -/
def lowBit (m : Mask) : Nat := (lowestLane m).getD 128

/-- The part that supplies the scalars of a merge (R99): that of the lowest active lane, else that of the lowest quad. -/
def State.scalarPart (s : State) (w : Nat) (parts : List Nat) : Nat :=
  let n := (s.warp w).width
  let active := parts.filter (fun i => (s.split i).act n != 0)
  let key (i : Nat) : Nat := if active.isEmpty then lowBit (quadLanes (s.split i).quads) else lowBit ((s.split i).act n)
  (if active.isEmpty then parts else active).foldl (fun b i => if Nat.blt (key i) (key b) then i else b)
    ((if active.isEmpty then parts else active).headD 0)

/-- The split-table entry a merge keeps (R99): the primary context, else the lowest index. -/
def State.survivor (s : State) (parts : List Nat) : Nat :=
  match parts.find? (fun i => (s.split i).primary) with
  | some i => i
  | none => parts.foldl (fun b i => if Nat.blt (s.split i).tix (s.split b).tix then i else b) (parts.headD 0)

/-- The merge of R99; `to` says that the timeout of R100 made it. -/
def regangMerge (w : Nat) (parts : List Nat) (timedOut : Bool) (s : State) : State :=
  let n := (s.warp w).width
  let src := s.split (s.scalarPart w parts)
  let k := s.survivor parts
  let base := s.split k
  let quads : BitVec 32 := parts.foldl (fun q i => q ||| (s.split i).quads) 0
  let trap := timedOut && parts.any (fun i => match (s.split i).phase with
    | .parked (.regang _ t _) => t
    | _ => false)
  let merged : Split :=
    { base with
      quads := quads, s := src.s, sp := src.sp, mr := src.mr
      ctl := parts.foldl (fun m i => max m (s.split i).ctl) 0
      ctg := parts.foldl (fun m i => max m (s.split i).ctg) 0
      gang := base.gang.drop 1, timedOut := timedOut, phase := .ready, since := s.cycleOf k, held := [], n := 0, lit := none, pend := none
      prv := src.prv, inTrap := src.inTrap, pprv := src.pprv, tcause := src.tcause, tval := src.tval, tpc := src.tpc, tmr := src.tmr }
  let m := quadLanes quads &&& onesMask n &&& ~~~(s.warp w).exited &&& ~~~merged.deferred
  let t := (foldState parts (fun i z => z.modSplit i (fun x => { x with live := false })) s).modSplit k (fun _ =>
    { merged.setAct n m with live := true })
  if trap then enterTrap k { cause := 0x007, val := 0, pc := merged.pc } t else t

/-- Test every rendezvous of a warp at which a split is parked (R98). -/
def testRegang (w : Nat) (s : State) : State :=
  foldState (s.splitsOf w) (fun i z =>
    match (z.split i).phase, (z.split i).gang.head? with
    | .parked (.regang k _ _), some gang =>
      let parts := z.regangParts w k gang
      let have_ := parts.foldl (fun q j => q ||| (z.split j).quads) (0 : BitVec 32)
      let missing := (quadLanes gang) &&& ~~~(quadLanes have_) &&& onesMask (z.warp w).width &&& ~~~(z.warp w).exited
      if (z.split i).live && missing == 0 then regangMerge w parts false z else z
    | _, _ => z) s

/-- The width of a code of R101. -/
def codeWidth (c : Nat) : Nat := 4 * 2 ^ c

/-- The warps of a workgroup that cover a block of w lanes, those that have exited entirely among them (R103). -/
def State.blockWarps (s : State) (g base w : Nat) : List Nat :=
  idxsOf s.warps (fun x => (x.live || x.gone) && x.wg == g && Nat.ble base x.base && Nat.blt x.base (base + w))

/-- The splits of warps that are parked at a FUSE word. -/
def State.atFuse (s : State) (ws : List Nat) : List Nat :=
  idxsOf s.splits (fun x => x.live && ws.contains x.warp && (match x.phase with
    | .parked (.fuse _ _) => true
    | _ => false))

/-- Give a FUSE code to every split parked at it (R103): each resumes at PC + 4. -/
def fuseGive (parked : List Nat) (v : Nat) (s : State) : State :=
  foldState parked (fun i z =>
    match (z.split i).phase with
    | .parked (.fuse _ d) => readySplit i (z.modSplit i (fun x => x.setS (z.widthOf i) d (.val (BitVec.ofNat 32 v))))
    | _ => z) s

/-- The slots of a partition in use, with the granules each takes (R21). -/
def State.partSlots (s : State) (core part : Nat) : List (Nat × Nat) :=
  (List.range 16).filterMap (fun k =>
    match s.warps.find? (fun w => w.live && w.part == part && w.slots.contains k && (s.wg w.wg).resident && (s.wg w.wg).core == core) with
    | some w => some (k, ((s.wg w.wg).regs + 7) / 8)
    | none => none)

/-- The slots that a FUSE moves into the partition of its lowest party. -/
def State.movedSlots (s : State) (ws : List Nat) : List (Nat × Nat) :=
  let lo := s.warp (ws.headD 0)
  (ws.flatMap (fun w => if (s.warp w).part == lo.part then [] else (s.warp w).slots.map (fun k => ((s.warp w).part, k)))).eraseDups

/-- A register of the fused warp (R104). -/
def fuseReg (w : Nat) (rs : List VReg) : VReg :=
  let general : VReg := .general (rs.flatMap (fun r => r.list w))
  match rs with
  | [] => .uniform .poison
  | .uniform u :: _ => if rs.all (fun r => r == .uniform u) then .uniform u else general
  | .affine b d :: _ =>
    if (List.range rs.length).all (fun j => rs.getD j (.general []) == .affine (b + BitVec.ofNat 32 (j * w) * d) d) then .affine b d
    else general
  | _ => general

/-- Masks of the parties one after another. -/
def catMasks (w : Nat) (ms : List Mask) : Mask := BitVec.ofNat 128 (ms.foldr (fun m acc => m.toNat + acc * 2 ^ w) 0)

/-- A successful FUSE (R104): the parties in lane order, one split each. The rule names no gang stack and no TO: those of the lowest party stay
(DESIGN CHOICE, log entry 53). Nor does it say which free slots of the lowest party's partition the others move to: they take the lowest, and the warp
has its own slots first and these after them (DESIGN CHOICE, log entry 67). -/
def fuseMerge (g width : Nat) (ws : List Nat) (s : State) : State :=
  let lo := ws.headD 0
  let wlo := s.warp lo
  let w := wlo.width
  let splitOf (x : Nat) : Nat := (s.splitsOf x).headD 0
  let parts := ws.map splitOf
  let k := splitOf lo
  let moved := s.movedSlots ws
  let own := (ws.flatMap (fun x => if (s.warp x).part == wlo.part then (s.warp x).slots else [])).eraseDups
  let used := s.partSlots (s.wg g).core wlo.part
  let free := (List.range 16).filter (fun j => !used.any (fun u => u.1 == j))
  let d := match (s.split k).phase with
    | .parked (.fuse _ d) => d
    | _ => 0
  let warp : Warp :=
    { wlo with
      width := width, slots := own ++ free.take moved.length
      exited := catMasks w (ws.map (fun x => (s.warp x).exited))
      v := (List.range 64).map (fun r => fuseReg w (ws.map (fun x => (s.warp x).reg r)))
      p := (List.range 6).map (fun p => catMasks w (ws.map (fun x => (s.warp x).p.getD p 0))) }
  let quads : BitVec 32 := BitVec.ofNat 32 (parts.foldr (fun i acc => (s.split i).quads.toNat + acc * 2 ^ (w / 4)) 0)
  let act := catMasks w (parts.map (fun i => (s.split i).act w))
  let x := s.split k
  let merged : Split :=
    { (x.setAct width act).setS width d (.val 0) with
      quads := quads
      ctl := parts.foldl (fun m i => max m (s.split i).ctl) 0
      ctg := parts.foldl (fun m i => max m (s.split i).ctg) 0
      phase := .ready, since := s.cycleOf k }
  let t := foldState ws (fun y z => if y == lo then z else z.modWarp y (fun u => { u with live := false })) s
  let t1 := foldState parts (fun i z => if i == k then z else z.modSplit i (fun u => { u with live := false })) t
  (t1.modWarp lo (fun _ => warp)).modSplit k (fun _ => merged)

/-- The tests of R103 once every party has a split parked at a FUSE word: words of different widths lie at different addresses. -/
def State.fuseCode (s : State) (g width : Nat) (ws parked : List Nat) : Nat :=
  let sp := parked.map s.split
  let x := sp.headD {}
  let low (y : Split) : List Word × BitVec 28 := (y.s.take 28, y.sp.setWidth 28)
  let tail (y : Split) : List Word := if Nat.ble width 32 then y.s.drop 29 else if width == 64 then y.s.drop 30 else []
  if !sp.all (fun y => y.pc == x.pc) then 3
  else if ws.any (fun w => (s.splitsOf w).length != 1 || (s.warp w).barArr != 0 ||
      (s.splitsOf w).any (fun i => !(s.split i).div.isEmpty || !(s.split i).spill.isEmpty)) then 6
  else if !sp.all (fun y => y.mr == x.mr) then 4
  else if !sp.all (fun y => low y == low x && tail y == tail x) then 5
  else if Nat.ble 64 width then
    let used := s.partSlots (s.wg g).core (s.warp (ws.headD 0)).part
    let n := (s.movedSlots ws).length
    let per := ((s.wg g).regs + 7) / 8
    if Nat.ble (used.length + n) 16 && Nat.ble (used.foldl (fun a u => a + u.2) 0 + per * n) 128 then 0 else 8
  else 0

/-- The warps of a block in lane order. -/
def State.byBase (s : State) (ws : List Nat) : List Nat :=
  (List.range 256).filterMap (fun k => ws.find? (fun w => (s.warp w).base == 4 * k))

/-- Test the FUSE rendezvous that a split is parked at (R103): what it comes to goes to every split of its block that is parked at a FUSE word,
whatever width that names. -/
def testFuseOf (i : Nat) (s : State) : State :=
  match (s.split i).phase with
  | .parked (.fuse code _) =>
    let g := s.wgIdxOf i
    let width := codeWidth code
    let ws := s.byBase (s.blockWarps g ((s.warpOf i).base / width * width) width)
    if !(s.split i).live then s
    else if ws.any (fun w => (s.warp w).gone) then fuseGive (s.atFuse ws) 2 s
    else if ws.all (fun w => (s.atFuse ws).any (fun j => (s.split j).warp == w)) then
      let c := s.fuseCode g width ws (s.atFuse ws)
      if c == 0 then fuseMerge g width ws s else fuseGive (s.atFuse ws) c s
    else s
  | _ => s

/-- Test every FUSE rendezvous of a workgroup. -/
def testFuse (g : Nat) (s : State) : State := foldState (s.wgSplits g) testFuseOf s

/-- What waits on the lanes and splits of a warp is tested again after an exit (R98, R103, R112). -/
def afterGone (w : Nat) (s : State) : State :=
  let g := (s.warp w).wg
  let t := foldState (List.range (s.wg g).bars.length) (fun b z => tryGather w b z) s
  testFuse g (testRegang w t)

/-- A split ends when its last unexited lane has exited: it reports its CT.G, and the warp retires with its last lane (R83, R19). -/
def endSplit (i : Nat) (s : State) : State :=
  let w := (s.split i).warp
  let g := (s.warp w).wg
  let c := (s.split i).ctg
  let t := (s.modWg g (fun x => { x with report := max x.report c })).modSplit i (fun x => { x with live := false })
  if fullMask (t.warp w).width (t.warp w).exited then
    tryRetire g (retireFromBars w (t.modWarp w (fun u => { u with live := false, gone := true })))
  else t

/-! ## The divergence stack (R94, R95) -/

/-- A spilled entry as 32 bytes (R94). -/
def DivEntry.bytes (e : DivEntry) (link : Nat) : List Byte :=
  bytesOfNat 32 (e.pc % 2 ^ 56 + e.id % 32 * 2 ^ 57 + (e.rejoin && e.idv).toNat * 2 ^ 62 + e.rejoin.toNat * 2 ^ 63 +
    e.mask.toNat * 2 ^ 64 + link * 2 ^ 192 + e.gdepth % 32 * 2 ^ 208)

/-- A spilled entry read back, with its link. -/
def divEntryOf (bs : List Byte) : DivEntry × Nat :=
  let x := natOfBytes bs
  ({ rejoin := bitsOf x 63 1 == 1, mask := BitVec.ofNat 128 (bitsOf x 64 128), idv := bitsOf x 62 1 == 1, id := bitsOf x 57 5
     pc := bitsOf x 0 56, gdepth := bitsOf x 208 5 }, bitsOf x 192 16)

/-- The spill slots of a warp in use by any of its splits. -/
def State.spillSlots (s : State) (w : Nat) : List Nat := (s.splitsOf w).flatMap (fun i => (s.split i).spill.map Prod.fst)

/-- The address of a spill slot (R95). -/
def State.spillAddr (s : State) (w slot : Nat) : Nat :=
  let u := s.warp w
  (s.wg u.wg).dspill + 4096 * (u.base / 4) + 32 * slot

/-- Write the oldest hardware entry to the warp's spill area (R95). The access is the hardware's own and is made as privileged, whatever the split
is (DESIGN CHOICE, log entry 53). -/
def spillOldest (i : Nat) (s : State) : Ctl :=
  let x := s.split i
  match x.div.getLast? with
  | none => .ok s
  | some old =>
    match (List.range 128).find? (fun k => !(s.spillSlots x.warp).contains k) with
    | none => .trap 0x009 0 none s.dies
    | some k =>
      let a := s.spillAddr x.warp k
      let link := match x.spill with
        | [] => 0xFFFF
        | p :: _ => p.1
      match s.vaWrite (s.wgIdxOf i) a (old.bytes link) true (.split i) 0 with
      | (t, .ok _) => .ok (t.modSplit i (fun y =>
          { y with div := y.div.dropLast, spill := (k, if old.rejoin then 0 else old.mask) :: y.spill }))
      | (t, .bad _) => .trap 0x00A a (some a) t.dies
      | (t, .later) => .later t

/-- Push an entry (R95). -/
def pushDiv (i : Nat) (e : DivEntry) (s : State) : Ctl :=
  (if Nat.ble 16 (s.split i).div.length then spillOldest i s else .ok s).andThen (fun t =>
    .ok (t.modSplit i (fun x => { x with div := e :: x.div })))

/-- Read the most recent spilled entry back when the hardware set is empty (R95), as privileged like the access that wrote it (DESIGN CHOICE,
log entry 53). -/
def refillDiv (i : Nat) (s : State) : Ctl :=
  let x := s.split i
  match x.div, x.spill with
  | [], p :: rest =>
    let a := s.spillAddr x.warp p.1
    match s.vaRead (s.wgIdxOf i) a 32 true (.split i) 0 with
    | (t, .ok bs) => .ok (t.modSplit i (fun y => { y with div := [(divEntryOf bs).1], spill := rest }))
    | (t, .bad _) => .trap 0x00A a (some a) t.dies
    | (t, .later) => .later t
  | _, _ => .ok s

/-- Drop the top entry. -/
def dropDiv (i : Nat) (s : State) : State := s.modSplit i (fun x => { x with div := x.div.drop 1 })

/-! ## Branches, calls and jumps (R86 to R90) -/

/-- A split-table entry of the partition that is free (R92). -/
def State.freeTable (s : State) (core part : Nat) : Option Nat :=
  let used := (idxsOf s.splits (fun x => x.live && !x.primary && (s.warp x.warp).part == part && (s.wg (s.warp x.warp).wg).core == core)).map
    (fun i => (s.split i).tix)
  (List.range 64).find? (fun k => !used.contains k)

/-- The quads with an active lane and no taken lane (R87). -/
def newQuads (quads : BitVec 32) (act tk : Mask) : BitVec 32 :=
  BitVec.ofNat 32 ((List.range 32).foldl (fun acc q =>
    let m : Mask := BitVec.ofNat 128 (15 * 2 ^ (4 * q))
    if quads.getLsbD q && act &&& m != 0 && tk &&& m == 0 then acc + 2 ^ q else acc) 0)

/-- The return address of a CALL in s26 and s27 (R88). -/
def Split.linkTo (x : Split) (width a : Nat) : Split :=
  (x.setS width 26 (.val (BitVec.ofNat 32 a))).setS width 27 (.val (BitVec.ofNat 32 (a / 2 ^ 32 % 2 ^ 24)))

/-- Resolve a branch (R87, R88): `pre` is the state as the group began, `post` the state after it with the pc at the fall-through. Lanes
that the group has cleared stay inactive (R82). -/
def resolveBranch (tk : Mask) (target : Nat) (link : Bool) (i : Nat) (pre post : State) : Ctl :=
  let n := post.widthOf i
  let x := post.split i
  let fall := x.pc
  let act := pre.actMask i
  let now := x.act n
  let go (y : Split) : Split := { (if link then y.linkTo n fall else y) with pc := target }
  if tk == 0 then .ok post
  else if tk == act then .ok (post.modSplit i go)
  else
    let qn := newQuads x.quads act tk
    let entry := if qn == 0 then none else post.freeTable (post.coreOf i) (post.warpOf i).part
    let (s1, act1) : State × Mask :=
      match entry with
      | none => (post, act)
      | some k =>
        let lanes := quadLanes qn
        let y : Split := ({ x with primary := false, tix := k, quads := qn, gang := x.quads :: x.gang, timedOut := false }).setAct n (now &&& lanes)
        let z := post.modSplit i (fun x => { x with quads := x.quads &&& ~~~qn, gang := x.quads :: x.gang })
        ({ z with splits := putAt z.splits (firstIdx (fun u => !u.live) z.splits) y }, act &&& ~~~lanes)
    let d := act1 &&& ~~~tk
    let depth := (s1.split i).gang.length
    let pushed : Ctl :=
      if d == 0 then .ok s1
      else (pushDiv i { rejoin := true, mask := act1, gdepth := depth } s1).andThen
        (pushDiv i { rejoin := false, mask := d, pc := fall, gdepth := depth })
    pushed.andThen (fun t => .ok (t.modSplit i (fun x => go (x.setAct n (tk &&& now)))))

/-- The target of a BR-format word (R25). A sum below 0 or at or above 2^56 wraps within the 56 bits of an address (DESIGN CHOICE, log
entry 53: the rule says nothing of it). -/
def brTarget (pc : Nat) (o : BitVec 20) : Nat := (((pc : Int) + 4 * o.toInt) % ((2 ^ 56 : Nat) : Int)).toNat

/-- A BR-format word (R86): it ignores the guard. -/
def brWord (w : Br) (link : Bool) (s : State) : Host.Outcome State Fault Refusal :=
  closingWord noCheck (fun i pre post =>
    let p := pre.predOf i w.p.toNat
    let tk := pre.actMask i &&& (if w.n then ~~~p else p)
    resolveBranch tk (brTarget (pre.split i).pc w.o) link i pre post) s

/-- BRA (R87). -/
def execBra (w : Br) (s : State) : Host.Outcome State Fault Refusal := brWord w false s

/-- CALL (R88). -/
def execCall (w : Br) (s : State) : Host.Outcome State Fault Refusal := brWord w true s

/-- An indirect transfer to the address in a scalar pair (R89, R90): the target is checked when a lane executes. -/
def jumpWord (r : Nat) (link : Bool) (s : State) : Host.Outcome State Fault Refusal :=
  let target (i : Nat) (s : State) : Nat :=
    ((s.split i).sreg r).bits.toNat + ((s.split i).sreg (r + 1)).bits.toNat * 2 ^ 32
  closingWord (fun i s =>
      let a := target i s
      if s.execMask i != 0 && (a % 4 != 0 || Nat.ble (2 ^ 56) a) then (s, .trap 0x008 0) else (s, .done []))
    (fun i pre post => resolveBranch (pre.execMask i) (target i pre) link i pre post) s

/-- JMP (R89). -/
def execJmp (w : SA) (s : State) : Host.Outcome State Fault Refusal := jumpWord w.a.toNat false s

/-- CALLR (R89). -/
def execCallr (w : SA) (s : State) : Host.Outcome State Fault Refusal := jumpWord w.a.toNat true s

/-- RET (R89). -/
def execRet (_ : S0) (s : State) : Host.Outcome State Fault Refusal := jumpWord 26 false s

/-! ## EXIT (R91) -/

/-- The loop of R91: pop until lanes remain; a rejoin whose pc is not set leaves the pc where it is. -/
def exitPops (i : Nat) : Nat → State → Ctl
  | 0, s => .ok s
  | k + 1, s =>
    let n := s.widthOf i
    if (s.split i).act n != 0 then .ok s
    else
      (refillDiv i s).andThen (fun t =>
        match (t.split i).div with
        | [] => .ok t
        | e :: rest =>
          let m := e.mask &&& ~~~(t.warpOf i).exited
          exitPops i k (t.modSplit i (fun x =>
            { x.setAct n m with div := rest, pc := if e.rejoin && !e.idv then x.pc else e.pc })))

/-- EXIT (R91): it waits until every access of the split has returned its time, which its report covers (R19). -/
def execExit (_ : S0) (s : State) : Host.Outcome State Fault Refusal :=
  closingWord (fun i s => if s.outstanding (.split i) then (s, .wait .returned) else (s, .done []))
    (fun i pre post =>
      let lanes := pre.execMask i
      let w := (post.split i).warp
      let n := post.widthOf i
      let t := (post.modWarp w (fun u => { u with exited := u.exited ||| lanes })).modSplit i (fun x =>
        x.setAct n (x.act n &&& ~~~lanes))
      (exitPops i 160 t).andThen (fun u =>
        let x := u.split i
        let left := quadLanes x.quads &&& onesMask n &&& ~~~(u.warp w).exited
        .ok (afterGone w (if x.act n == 0 && left == 0 then endSplit i u else u)))) s

/-! ## REGANG (R97 to R100) -/

/-- The gang step of R98: continue at depth 0, else park until the gang is complete. -/
def gangStep (k : Nat) (trap : Bool) (c : Nat) (pcIfFree : Nat) (i : Nat) (s : State) : State :=
  if (s.split i).gang.isEmpty then s.modSplit i (fun x => { x with pc := pcIfFree, timedOut := false })
  else testRegang (s.split i).warp (s.modSplit i (fun x =>
    { x with phase := .parked (.regang k trap (2 ^ (10 + 2 * c))), since := s.cycleOf i }))

/-- The action of REGANG (R98). -/
def regangAct (w : RegangF) (i : Nat) (pre post : State) : Ctl :=
  let k := w.i.toNat
  let n := post.widthOf i
  let here := (pre.split i).pc
  let fall := (post.split i).pc
  (refillDiv i post).andThen (fun t =>
    let x := t.split i
    let depth := x.gang.length
    match x.div with
    | [] => .ok (gangStep k w.t w.c.toNat fall i t)
    | e :: _ =>
      if e.gdepth != depth then .ok (gangStep k w.t w.c.toNat fall i t)
      else if !e.rejoin then
        (refillDiv i (dropDiv i t)).andThen (fun u =>
          let m := e.mask &&& ~~~(u.warpOf i).exited
          .ok (u.modSplit i (fun y =>
            { y.setAct n m with
              pc := e.pc
              div := match y.div with
                | r :: rest => { r with id := k, idv := true, pc := here } :: rest
                | [] => [] })))
      else if e.idv && e.id != k then .trap 0x00B 0 none t.dies
      else
        let u0 := dropDiv i t
        let m := e.mask &&& ~~~(t.warpOf i).exited
        (refillDiv i (u0.modSplit i (fun y => y.setAct n m))).andThen (fun u =>
          match (u.split i).div with
          | f :: _ =>
            if f.gdepth == depth then
              .ok (u.modSplit i (fun y => { y with pc := if e.idv then e.pc + 4 else fall, timedOut := false }))
            else .ok (gangStep k w.t w.c.toNat fall i u)
          | [] => .ok (gangStep k w.t w.c.toNat fall i u)))

/-- REGANG (R98). -/
def execRegang (w : RegangF) (s : State) : Host.Outcome State Fault Refusal := closingWord noCheck (regangAct w) s

/-- The timeout of R100: those parked at the rendezvous merge among themselves, once the cycle in which the count of the first to park runs out is
over, for an arrival in that cycle wins. -/
def expireRegang (i : Nat) (s : State) : State :=
  match (s.split i).phase, (s.split i).gang.head? with
  | .parked (.regang k _ _), some gang =>
    let w := (s.split i).warp
    let parts := s.regangParts w k gang
    let first := parts.foldl (fun b j => if Nat.blt (s.split j).since (s.split b).since then j else b) i
    let len := match (s.split first).phase with
      | .parked (.regang _ _ c) => c
      | _ => 0
    if (s.split i).live && Nat.blt ((s.split first).since + len) (s.cycleOf i) then regangMerge w parts true s else s
  | _, _ => s

/-- REGANG_TIMEOUT (R100). -/
def execRegangTimeout (i : Nat) (s : State) : Host.Outcome State Fault Refusal := .next (expireRegang i s)

/-! ## SPLIT and FUSE (R101 to R104) -/

/-- The registers of part j of a warp (R102). -/
def splitReg (w lo : Nat) (r : VReg) : VReg :=
  match r with
  | .uniform u => .uniform u
  | .affine b d => .affine (b + BitVec.ofNat 32 lo * d) d
  | .general ws => .general ((ws.drop lo).take w)

/-- The part of a mask. -/
def partMask (w lo : Nat) (m : Mask) : Mask := (m >>> lo) &&& onesMask w

/-- Make the parts of a warp (R102); those whose every lane has exited are not created. The rule names no gang stack: each part takes the
warp's as it is, its quads not renumbered (DESIGN CHOICE, log entry 53). Each part's TO is at its reset value (R106). -/
def doSplit (i w : Nat) (s : State) : State :=
  let wi := (s.split i).warp
  let u := s.warp wi
  let x := s.split i
  let act := x.act u.width
  let js := (List.range (u.width / w)).filter (fun j => !fullMask w (partMask w (j * w) u.exited))
  let warpOf (j : Nat) : Warp :=
    let o := 4 * u.q0 + j * w
    { u with
      width := w, base := u.base + j * w, q0 := o % 32 / 4
      slots := (u.slots.drop (o / 32)).take (max 1 (w / 32))
      exited := partMask w (j * w) u.exited
      v := u.v.map (splitReg w (j * w)), p := u.p.map (partMask w (j * w)) }
  let splitOf (j : Nat) : Split :=
    let y : Split := { x with quads := BitVec.ofNat 32 (2 ^ (w / 4) - 1), primary := true, timedOut := false }
    y.setAct w (partMask w (j * w) act)
  let add (j : Nat) (t : State) : State :=
    let k := firstIdx (fun v => !v.live && !v.gone) t.warps
    { t with warps := putAt t.warps k (warpOf j)
             splits := putAt t.splits (firstIdx (fun y => !y.live) t.splits) { splitOf j with warp := k } }
  match js with
  | [] => s
  | j :: rest =>
    let t := (s.modWarp wi (fun _ => warpOf j)).modSplit i (fun _ => splitOf j)
    foldState rest add t

/-- A granule of the warp that has not been filled yet (R132). -/
def State.absentGranule (s : State) (i : Nat) : Option Nat := (List.range 8).find? (fun g => (s.warpOf i).absent.getLsbD g)

/-- SPLIT (R102). -/
def execSplit (w : SplitF) (s : State) : Host.Outcome State Fault Refusal :=
  let n := codeWidth w.w.toNat
  closingWord (fun i s =>
      let u := s.warpOf i
      let x := s.split i
      if n == u.width then (s, .done [])
      else if Nat.blt u.width n || (s.splitsOf x.warp).length != 1 || !x.div.isEmpty || !x.spill.isEmpty then (s, .trap 0x00C 0)
      else if u.barArr != 0 then (s, .trap 0x00D 0)
      else
        match s.absentGranule i with
        | some g => (s, .wait (.granule g))
        | none => (s, .done []))
    (fun i pre post => if n == pre.widthOf i then .ok post else .ok (doSplit i n post)) s

/-- FUSE (R103). A block of which SPLIT never made a part, because every lane of it had exited, is not covered: code 1 (DESIGN CHOICE, log
entry 53). -/
def execFuse (w : FuseF) (s : State) : Host.Outcome State Fault Refusal :=
  let n := codeWidth w.w.toNat
  closingWord (fun i s =>
      match s.absentGranule i with
      | some g => (s, .wait (.granule g))
      | none => (s, .done []))
    (fun i _ post =>
      let u := post.warpOf i
      let ws := post.byBase (post.blockWarps u.wg (u.base / n * n) n)
      let give (v : Nat) : Ctl := .ok (post.modSplit i (fun x => x.setS u.width w.d.toNat (.val (BitVec.ofNat 32 v))))
      if n == u.width then give 0
      else if n == 256 then give 8
      else if Nat.blt n u.width || ws.length * u.width != n || !ws.all (fun k => (post.warp k).width == u.width) then give 1
      else if ws.any (fun k => (post.warp k).gone) then give 2
      else .ok (testFuse u.wg (post.modSplit i (fun x =>
        { x with phase := .parked (.fuse w.w.toNat w.d.toNat), since := post.cycleOf i })))) s

/-- The timeout of R103: once the cycle 65,536 core cycles from the first arrival is over, every party of the block that is parked at a FUSE word
receives code 7. -/
def expireFuse (w : Nat) (s : State) : State :=
  match (s.splitsOf w).find? (fun i => match (s.split i).phase with
      | .parked (.fuse _ _) => true
      | _ => false) with
  | none => s
  | some i =>
    match (s.split i).phase with
    | .parked (.fuse code _) =>
      let width := codeWidth code
      let u := s.warp w
      let parked := s.atFuse (s.blockWarps u.wg (u.base / width * width) width)
      let first := parked.foldl (fun m j => min m (s.split j).since) (s.split i).since
      if Nat.blt (first + 65536) (s.cycleOf i) then fuseGive parked 7 s else s
    | _ => s

/-- FUSE_TIMEOUT (R103). -/
def execFuseTimeout (w : Nat) (s : State) : Host.Outcome State Fault Refusal := .next (expireFuse w s)

/-- What has run out before the cycle that begins: the rendezvous of R100 and R103 whose count is over, so that no later arrival finds them. -/
def State.noteExpiry (s : State) : State :=
  foldState (idxsOf s.splits (fun x => x.live)) (fun i t => match (t.split i).phase with
    | .parked (.regang _ _ _) => expireRegang i t
    | .parked (.fuse _ _) => expireFuse (t.split i).warp t
    | _ => t) s

/-- WIDTHQ (R101). -/
def execWidthq (w : SD) (s : State) : Host.Outcome State Fault Refusal :=
  issueWord true (fun i s => (s, .done [.sset w.d.toNat (.val (BitVec.ofNat 32 (s.widthOf i)))])) s

/-- WARPQ (R101). -/
def execWarpq (w : SD) (s : State) : Host.Outcome State Fault Refusal :=
  issueWord true (fun i s => (s, .done [.sset w.d.toNat (.val (BitVec.ofNat 32 (s.warpOf i).id))])) s

/-- The status word of SPLITQ (R106). -/
def State.splitWord (s : State) (i : Nat) : Nat :=
  let x := s.split i
  (x.div.length + x.spill.length) * 2 ^ 24 + x.timedOut.toNat * 2 ^ 16 + x.gang.length * 2 ^ 8 + (s.splitsOf x.warp).length

/-- SPLITQ (R106). -/
def execSplitq (w : SD) (s : State) : Host.Outcome State Fault Refusal :=
  issueWord true (fun i s => (s, .done [.sset w.d.toNat (.val (BitVec.ofNat 32 (s.splitWord i)))])) s

/-- LANEQ (R101): affine with base 0 and stride 1 when every lane executes it. -/
def execLaneq (w : VD) (s : State) : Host.Outcome State Fault Refusal :=
  issueWord true (fun i s => withRegs [w.d.toNat] (fun i s =>
    (s, .done [.vset w.d.toNat (s.execMask i) (.affine 0 1)])) i s) s

/-! ## Predicate logic (R107) -/

/-- A predicate word: each source is negated where its bit is set. -/
def predWord (w : P3) (f : Mask → Mask → Mask) (s : State) : Host.Outcome State Fault Refusal :=
  issueWord w.s (fun i s =>
    let a := s.predOf i w.a.toNat
    let b := s.predOf i w.b.toNat
    (s, .done [.pset w.d.toNat (s.execMask i) (f (if w.x then ~~~a else a) (if w.y then ~~~b else b))])) s

/-- PAND (R107). -/
def execPand (w : P3) (s : State) : Host.Outcome State Fault Refusal := predWord w (fun a b => a &&& b) s

/-- POR (R107). -/
def execPor (w : P3) (s : State) : Host.Outcome State Fault Refusal := predWord w (fun a b => a ||| b) s

/-- PXOR (R107). -/
def execPxor (w : P3) (s : State) : Host.Outcome State Fault Refusal := predWord w (fun a b => a ^^^ b) s

/-- DEACT (R107): the activity bits of executing lanes where the predicate is false, cleared at the group's end. -/
def execDeact (w : DeactF) (s : State) : Host.Outcome State Fault Refusal :=
  issueWord w.s (fun i s =>
    let p := s.predOf i w.a.toNat
    (s, .done [.deact (s.execMask i &&& (if w.n then p else ~~~p))])) s

/-! ## Majors 0x00, 0x01 and 0x3F (R34, R37, R41, R42) -/

/-- NOP (R41). -/
def execNop (w : S0) (s : State) : Host.Outcome State Fault Refusal := issueWord w.s (fun _ s => (s, .done [])) s

/-- A hint executes as NOP (R41). -/
def execHint (w : Hint) (s : State) : Host.Outcome State Fault Refusal := issueWord w.s (fun _ s => (s, .done [])) s

/-- Replace a field of a word. -/
def putField (x : Word) (lo n v : Nat) : Word :=
  BitVec.ofNat 32 (x.toNat / 2 ^ (lo + n) * 2 ^ (lo + n) + v % 2 ^ n * 2 ^ lo + x.toNat % 2 ^ lo)

/-- MR after a MODE word (R37). -/
def modeResult (w : ModeF) (mr : Word) : Word :=
  let a := if w.g then putField mr 0 4 (w.p.toNat + w.n.toNat * 8) else mr
  let b := if w.t then putField a 4 4 w.e.toNat else a
  let c := if w.m then putField b 8 5 (w.r.toNat + w.a.toNat * 8 + w.f.toNat * 16) else b
  if w.x then putField c 13 7 (w.l.toNat + w.c.toNat * 2) else c

/-- MODE (R37): effective from the next word (R30). -/
def execMode (w : ModeF) (s : State) : Host.Outcome State Fault Refusal :=
  issueWord w.s (fun i s => (s.modSplit i (fun x => { x with mr := modeResult w x.mr }), .done [])) s

/-- LIMM (R34, R35): the literal waits for the consumer, whose word is fetched now and kept; the pc stays at the prefix until the consumer has
executed. -/
def execLimm (lit : Word) (s : State) : Host.Outcome State Fault Refusal :=
  let i := s.who.split
  let x := s.split i
  match s.fetchWord (s.wgIdxOf i) (x.pc + 8) x.prv 0 with
  | (t, .ok w) => if limmConsumer w then .next (t.modSplit i (fun y => { y with lit := some lit, cons := some w })) else .next (raiseHere i 0x002 0 t)
  | (t, .bad c) => .next (raiseHere i c (x.pc + 8) t)
  | (t, .later) => .next (stopSweep (s.wgIdxOf i) (parkRetest i t.memWait t))

/-- A reserved encoding of the warp stream (R42). -/
def execReservedEncoding (_ : Word) (s : State) : Host.Outcome State Fault Refusal := .next (raiseHere s.who.split 0x001 0 s)

/-- A split that has been ready for 256 cycles without issuing, or awake at a word that waited, is boosted (R16, R85). -/
def execSplitBoost (i : Nat) (s : State) : Host.Outcome State Fault Refusal :=
  let x := s.split i
  if x.live && (x.phase == .ready || x.woken) && Nat.ble (x.since + 256) (s.cycleOf i) then .next (s.modSplit i (fun y => { y with boosted := true }))
  else .next s

end Sys2Proof.Machine
end

