-- ==== Sys2Proof/Machine/Sync.lean ====
section
/-! DEFINITION. The synchronisation and context unit (R111 to R140): barrier words, SAFE, traps, the privileged operations, pre-emption,
the save area, lazy fills and cancellation. -/

namespace Sys2Proof.Machine

/-! ## Barrier words (R113 to R119) -/

/-- The checks of an arriving word: its barrier exists (0x021), a payload agrees with the phase (0x023), and the wg-scope release that every
arrival performs has passed (R119). -/
def arriveCheck (b : Nat) (op : Option Nat) (i : Nat) (s : State) : State × Out :=
  if Nat.ble (s.wgOf i).bars.length b then (s, .trap 0x021 0)
  else if (match op with
      | some o => s.payloadClash i b o
      | none => false) then (s, .trap 0x023 0)
  else
    match s.fenceWait i 0 with
    | some c => (s, .wait c)
    | none => (s, .done [])

/-- BAR.SYNC (R113, R114). -/
def execBarSync (w : BarB) (s : State) : Host.Outcome State Fault Refusal :=
  closingWord (arriveCheck w.b.toNat none) (fun i _ post => .ok (arriveSplit i w.b.toNat .sync post)) s

/-- BAR.ARV (R113, R114). -/
def execBarArv (w : BarDB) (s : State) : Host.Outcome State Fault Refusal :=
  closingWord (arriveCheck w.b.toNat none) (fun i _ post => .ok (arriveSplit i w.b.toNat (.arv w.d.toNat) post)) s

/-- BAR.WAIT (R113, R114). -/
def execBarWait (w : BarBA) (s : State) : Host.Outcome State Fault Refusal :=
  closingWord (fun i s => if Nat.ble (s.wgOf i).bars.length w.b.toNat then (s, .trap 0x021 0) else (s, .done []))
    (fun i pre post => .ok (waitToken i w.b.toNat ((pre.ssrc i w.a).bits.getLsbD 0) post)) s

/-- BAR.CNT (R116): at once while nothing has arrived, else from the next phase. -/
def execBarCnt (w : BarBA) (s : State) : Host.Outcome State Fault Refusal :=
  let b := w.b.toNat
  issueWord true (fun i s =>
    let g := s.wgOf i
    let v := (s.ssrc i w.a).bits.toNat
    if Nat.ble g.bars.length b then (s, .trap 0x021 0)
    else if b == 0 || Nat.blt 1024 v then (s, .trap 0x022 0)
    else afterLoads (fun i s =>
      let k := s.wgIdxOf i
      let n := s.warpCount k
      (s.modBar k b (fun x =>
        if x.arr == 0 then { x with trk := v == 0, exp := if v == 0 then n else v, pend := none } else { x with pend := some v }), .done [])) i s) s

/-- BAR.PHQ (R111). -/
def execBarPhq (w : BarDB) (s : State) : Host.Outcome State Fault Refusal :=
  issueWord true (fun i s =>
    let g := s.wgOf i
    if Nat.ble g.bars.length w.b.toNat then (s, .trap 0x021 0)
    else (s, .done [.sset w.d.toNat (.val (BitVec.ofNat 32 (g.bar w.b.toNat).word))])) s

/-- BAR.FOLD (R118). -/
def execBarFold (w : BarFoldF) (s : State) : Host.Outcome State Fault Refusal :=
  closingWord (arriveCheck w.b.toNat (some w.o.toNat)) (fun i pre post =>
    .ok (arriveSplit i w.b.toNat (.fold w.d.toNat w.o.toNat (pre.ssrc i w.a)) post)) s

/-! ## Safe points (R122, R133) -/

/-- SAFE (R122): with a pre-emption pending the split stops with the stop mask of the word; with a cancellation it is discarded. -/
def execSafe (_ : Bool) (lo hi : Word) (s : State) : Host.Outcome State Fault Refusal :=
  closingWord noCheck (fun i _ post =>
    let t := post.modSplit i (fun x => { x with pc := x.pc + 8 })
    let g := t.wgOf i
    let live := BitVec.ofNat 64 (lo.toNat + hi.toNat * 2 ^ 32) &&& g.fullLive
    if g.creq.isSome then .ok (discardSplit i t)
    else if g.preq.isSome then .ok (t.modSplit i (fun x => { x with phase := .stopped none live }))
    else .ok t) s

/-! ## Traps (R136) -/

/-- TRAP (R136). -/
def execTrap (w : SA) (s : State) : Host.Outcome State Fault Refusal :=
  closingWord noCheck (fun i pre post =>
    if pre.execMask i == 0 then .ok post
    else .ok (enterTrap i { cause := 0x028, val := (pre.ssrc i w.a).bits.toNat, pc := (post.split i).pc } post)) s

/-- TRET (R136). -/
def execTret (_ : S0) (s : State) : Host.Outcome State Fault Refusal :=
  closingWord (privileged (fun i s => if (s.split i).inTrap then (s, .done []) else (s, .trap 0x029 0)))
    (fun i _ post => .ok (leaveTrap i post)) s

/-! ## Privileged system operations (R139) -/

/-- The L1s that L1WBINV acts on. -/
def State.l1sOf (s : State) (core : Nat) : List Nat :=
  if s.fusedAt core then (List.range 4).map (fun k => core / 4 * 4 + k) else [core]

/-- The dirty entries of L1s in ascending order of their blocks, with the L1 of each. -/
def State.dirtyByBlock (s : State) (l1s : List Nat) : List (Nat × L1Entry) :=
  let l := l1s.flatMap (fun c => ((s.core c).l1.filter (fun e => e.dirty != 0)).map (fun e => (c, e)))
  l.foldl (fun acc x => acc.takeWhile (fun y => Nat.ble y.2.span.block x.2.span.block) ++ x ::
    acc.dropWhile (fun y => Nat.ble y.2.span.block x.2.span.block)) []

/-- Write back the dirty spans of L1s, in ascending block order, and drop all their spans (R139, R179); a write-back that fails is answered under
R212 and its cause recorded. Answers the latest W; none while one is held back, or a write that an L1 has accepted before is on its way. -/
def flushL1s (l1s : List Nat) (before : List Req) (s : State) : State × Option Nat :=
  let dirty := s.dirtyByBlock l1s
  let r := dirty.foldl (fun (p : State × Option (Option Nat)) x =>
    match p.2 with
    | none => p
    | some m =>
      match writeBackEntry x.1 x.2 p.1 with
      | (t, .ok w) => (t, some (some (max (m.getD 0) w)))
      | (t, _) => (t, none)) (s, some none)
  let pending := before.any (fun q => match q with
    | .mem q => q.op.writes && dirty.any (fun x => q.l1 == x.1 && q.span.overlaps x.2.span)
    | _ => false)
  match r with
  | (t, some w) =>
    if pending then (s, none)
    else
      let evw := l1s.foldl (fun m c => max m (s.core c).evw) 0
      (foldState l1s (fun c z => z.modCore c (fun x => { x with l1 := [], evw := 0 })) t, some (max evw (w.getD (s.nowCore (l1s.headD 0)))))
  | (t, none) => ({ s with hreqs := t.hreqs, hbinv := t.hbinv }, none)

/-- L1WBINV at the L1s of a core (R139). -/
def l1wbinvNow (core : Nat) (before : List Req) (s : State) : State × Option Nat := flushL1s (s.l1sOf core) before s

/-- L1WBINV (R139): once started it runs to its end. -/
def execL1wbinv (w : SD) (s : State) : Host.Outcome State Fault Refusal :=
  issueWord true (privileged (fun i s =>
    if (s.split i).awaiting then (s, .wait .loadsReturned)
    else
      match l1wbinvNow (s.coreOf i) s.reqs s with
      | (t, some time) => (t.joinG (.split i) time, .done (pairSet w.d.toNat time))
      | (t, none) => sendSys i w.d.toNat .l1wbinv [] t)) s

/-- An operation of R139 or R208 that is under way is performed once nothing holds it back, and its group has its result; one whose split has
been discarded is performed all the same. -/
def performSys (r : EngReq) (s : State) : State :=
  let before := s.reqs.takeWhile (fun q => q.id != r.id)
  let answer (t : State) (time : Nat) : State :=
    match r.party with
    | .split i => (t.dropReq r.id).fill i r.id (pairSet r.d time)
    | _ => t.dropReq r.id
  match r.op with
  | .regmode =>
    match regmodeNow r.die { base := r.vals.headD 0, n := r.vals.getD 1 0 } (r.vals.getD 2 0 == 1) before s with
    | (t, some time) => answer t time
    | (t, none) => t
  | .l1wbinv =>
    match l1wbinvNow r.core before s with
    | (t, some time) => answer (t.joinG r.party time) time
    | (t, none) => t
  | _ => s

/-- XLFLUSH (R139): the engines of every live die drop what their cores have cached. -/
def execXlflush (w : SD) (s : State) : Host.Outcome State Fault Refusal :=
  issueWord true (privileged (fun i s =>
    if (s.split i).awaiting then (s, .wait .loadsReturned)
    else
      let t := foldState (List.range 128) (fun c z =>
        if (z.die (dieOfCore c)).lost.isSome then z else z.modCore c (fun x => { x with xlat := [] })) s
      (t, .done (pairSet w.d.toNat (s.nowOf i))))) s

/-! ## Pre-emption (R123, R124, R316) -/

/-- A spoke context stops: at once when parked, else at its next instruction boundary (R316); a reservation does not outlive it (R307). A second
arrival stands, and counts for the next phase (R121). -/
def stopSpoke (g : Nat) (st : Bool) (s : State) : State :=
  s.modSpoke g st (fun c =>
    let d := { c with resv := none }
    match c.phase with
    | .barrier b tok => { d with phase := .stopped (some (b, tok)) none none }
    | .barAgain b r => { d with phase := .stopped none none (some (b, r)) }
    | .retest (.answered _) => c
    | .retest k => { d with phase := .stopped none (some k) none }
    | .ready => if s.outstanding (.spoke g st) then c else { d with phase := .stopped none none none }
    | _ => d)

/-- The sequencer context of a workgroup stops (R273): parked at a waiting word at once; running, before its next word. -/
def stopSeq (g : Nat) (s : State) : State :=
  s.modWg g (fun w =>
    match w.seq.phase with
    | .barrier b tok => { w with seq := { w.seq with phase := .stopped (some (b, tok)) none none } }
    | .barAgain b r => { w with seq := { w.seq with phase := .stopped none none (some (b, r)) } }
    | .retest k =>
      { w with seq := { w.seq with
          phase := .stopped none (some k) none, lit := none, cons := none, n := 0, held := [], g := w.seq.held.foldl (fun g p => g.set p.1 p.2) w.seq.g } }
    | .ready => if w.seq.n == 0 && w.seq.lit.isNone then { w with seq := { w.seq with phase := .stopped none none none } } else w
    | _ => w)

/-- PREEMPT_REQUEST (R123, R396): at the queue's Meridian time Tq the request reaches every role of a workgroup. -/
def execPreemptRequest (g tq : Nat) (s : State) : Host.Outcome State Fault Refusal :=
  let w := s.wg g
  let q := s.queue (s.launch w.launch).queue
  if w.phase != .running || w.preq.isSome || w.creq.isSome || q.state != .preempting || q.tq != tq || Nat.blt (s.nowCore w.core) tq then .next s
  else
    let t := s.modWg g (fun x => { x with preq := some { tq := tq } })
    .next (stopSweep g (stopSeq g (stopSpoke g true (stopSpoke g false t))))

/-- FORCED_STOP (R124): a split that has not stopped by Tq + 20 µs is stopped between groups, at a word that waits as well; a fill completes before
any stop (R121). -/
def execForcedStop (i : Nat) (s : State) : Host.Outcome State Fault Refusal :=
  let x := s.split i
  let g := s.wgOf i
  match g.preq with
  | none => .next s
  | some p =>
    let between : Bool := x.n == 0 && x.held.isEmpty && (match x.phase with
      | .parked (.retest (.granule _)) => false
      | .ready | .parked (.retest _) => true
      | _ => false)
    if x.live && between && Nat.ble (p.tq + 320000) (s.nowOf i) then
      .next ((s.modWarp x.warp (fun w => { w with forced := true })).modSplit i (fun y =>
        { y with lit := none, cons := none, phase := .stopped none g.fullLive }))
    else .next s

/-! ## The save area (R125 to R130) -/

/-- Write bytes from a virtual address on, a block at a time; answers the latest W. -/
def saveBytes (g : Nat) : Nat → Nat → List Byte → State × Got Nat → State × Got Nat
  | 0, _, _, r => r
  | k + 1, va, bs, (s, got) =>
    match got, bs with
    | .ok w, _ :: _ =>
      let n := min bs.length (256 - va % 256)
      match s.vaWrite g va (bs.take n) true .device 1 with
      | (t, .ok v) => saveBytes g k (va + n) (bs.drop n) (t, .ok (max w v))
      | r => r
    | _, _ => (s, got)

/-- Pad a list of bytes with zeros to a length. -/
def padTo (n : Nat) (bs : List Byte) : List Byte := bs ++ List.replicate (n - bs.length) 0

/-- A number rounded up to a multiple. -/
def roundUp (n k : Nat) : Nat := (n + k - 1) / k * k

/-- A barrier record (R127). -/
def Barrier.record (x : Barrier) : List Byte :=
  let acc : Nat := ((x.acc % ((2 ^ 320 : Nat) : Int))).toNat
  let flags := x.nan.toNat + x.pinf.toNat * 2 + x.ninf.toNat * 4 + (x.any && x.op == 7 && x.allNegZero).toNat * 8 + x.any.toNat * 16 + x.poison.toNat * 32
  padTo 64 (bytesOfNat 4 x.word ++ bytesOfNat 4 (match x.pend with
    | some n => 2 ^ 31 + n
    | none => 0) ++ bytesOfNat 40 (if x.op == 7 then acc else acc % 2 ^ 32) ++ bytesOfNat 4 flags ++ bytesOfNat 4 x.result.bits.toNat)

/-- TSTAT of a split (R138). -/
def Split.tstat (x : Split) : Nat := x.pprv.toNat * 4 + x.inTrap.toNat * 2 + x.prv.toNat

/-- KIND and WAITARG of a stopped split (R121, R129). The record map does not say which token a second arrival under R115 has in WAITARG [8]; the
model writes that of the phase which follows, not PAR (DESIGN CHOICE, log entry 64). -/
def State.kindOf (s : State) (i : Nat) : Nat × Nat :=
  match (s.split i).phase with
  | .stopped (some (.barrier b tok fold)) _ => (1, b + tok.toNat * 256 + fold.isSome.toNat * 512)
  | .stopped (some (.barAgain b k)) _ =>
    (1, b + (!((s.wgOf i).bar b).par).toNat * 256 + (match k with
      | .fold _ _ _ => 512
      | _ => 0))
  | .stopped (some (.gather b k)) _ =>
    (4, b + (match k with
      | .fold _ _ _ => 512
      | _ => 0))
  | .stopped (some (.regang id _ _)) _ => (2, id)
  | .stopped (some (.fuse c _)) _ => (3, c)
  | _ => (0, 0)

/-- The continuation PC of a stopped split (R121, R129): one that waits at a REGANG is saved at that word, as the worked example of R396 shows. -/
def Split.contPc (x : Split) : Nat :=
  match x.phase with
  | .stopped (some (.regang _ _ _)) _ => x.pc - 4
  | _ => x.pc

/-- A split record (R129), after its divergence entries have been spilled. -/
def State.splitRecord (s : State) (i : Nat) : List Byte :=
  let x := s.split i
  let k := s.kindOf i
  let newest := match x.spill with
    | p :: _ => p.1
    | [] => 0xFFFF
  let a := x.s.flatMap wordBytes ++ bytesOfNat 4 x.sp.toNat ++ wordBytes x.mr ++ bytesOfNat 8 x.contPc ++ bytesOfNat 8 x.ctl ++ bytesOfNat 8 x.ctg ++
    bytesOfNat 4 x.quads.toNat ++ bytesOfNat 4 (k.1 + x.timedOut.toNat * 16 + x.gang.length * 256 + (x.div.length + x.spill.length) * 65536) ++
    bytesOfNat 8 k.2 ++ bytesOfNat 4 newest ++ bytesOfNat 4 x.tstat ++ bytesOfNat 4 x.tcause ++ wordBytes x.tmr ++ bytesOfNat 8 x.tpc ++
    bytesOfNat 8 x.tval
  padTo 512 (padTo 256 a ++ x.gang.reverse.flatMap (fun q => bytesOfNat 4 q.toNat))

/-- The live mask of a warp that has stopped: the union of its splits' stop masks (R123). -/
def State.liveOf (s : State) (w : Nat) : BitVec 64 :=
  (s.splitsOf w).foldl (fun m i => match (s.split i).phase with
    | .stopped _ l => m ||| l
    | _ => m) 0

/-- Whether any lane of a saved register is poisoned. -/
def VReg.anyPoison (r : VReg) : Bool :=
  match r with
  | .uniform u => u.isPoison
  | .affine _ _ => false
  | .general ws => ws.any PWord.isPoison

/-- The tag of a saved register (R128). -/
def VReg.tag : VReg → Nat
  | .uniform _ => 0
  | .affine _ _ => 1
  | .general _ => 2

/-- The bytes of a saved register (R130). -/
def VReg.saved (r : VReg) : List Byte :=
  match r with
  | .uniform u => wordBytes u.bits
  | .affine b d => wordBytes b ++ wordBytes d
  | .general ws => ws.flatMap (fun u => wordBytes u.bits)

/-- A bit for each index below n that satisfies a test. -/
def bitsWhere (n : Nat) (p : Nat → Bool) : Nat := (List.range n).foldl (fun a k => if p k then a + 2 ^ k else a) 0

/-- The splits of a warp in the order of their records: the primary one first, then by split-table index. -/
def State.splitsInOrder (s : State) (w : Nat) : List Nat :=
  let l := s.splitsOf w
  l.filter (fun i => (s.split i).primary) ++
  (List.range 64).flatMap (fun k => l.filter (fun i => !(s.split i).primary && (s.split i).tix == k))

/-- A warp record (R128 to R130). -/
def State.warpRecord (s : State) (w : Nat) : List Byte :=
  let u := s.warp w
  let live := s.liveOf w
  let sp := s.splitsInOrder w
  let regs := (List.range 64).filter (fun r => live.getLsbD r)
  let head := bytesOfNat 4 u.width ++ bytesOfNat 4 u.id ++ bytesOfNat 4 sp.length ++ bytesOfNat 4 u.forced.toNat ++
    bytesOfNat 8 u.barArr.toNat ++ bytesOfNat 8 live.toNat ++
    bytesOfNat 16 (regs.foldl (fun a r => a + (u.reg r).tag * 4 ^ r) 0) ++
    bytesOfNat 8 (bitsWhere 64 (fun r => live.getLsbD r && (u.reg r).anyPoison)) ++ bytesOfNat 16 u.exited.toNat
  let preds := padTo (roundUp u.width 64) ((List.range u.width).map (fun l =>
    BitVec.ofNat 8 (bitsWhere 6 (fun p => (u.p.getD p 0).getLsbD l))))
  let data := regs.flatMap (fun r => (u.reg r).saved)
  let poison := regs.flatMap (fun r => match u.reg r with
    | .general ws => if ws.any PWord.isPoison then bytesOfNat 16 (bitsWhere u.width (fun l => (ws.getD l .poison).isPoison)) else []
    | _ => [])
  let all := padTo 256 head ++ sp.flatMap s.splitRecord ++ preds ++ padTo (roundUp data.length 4) data ++ poison
  padTo (roundUp all.length 256) all

/-- The warps of a workgroup in ascending warp id. -/
def State.warpsById (s : State) (g : Nat) : List Nat :=
  (List.range 512).filterMap (fun k => (s.warpsOf g).find? (fun w => (s.warp w).id == k))

/-- Spill every hardware divergence entry of a split (R129). -/
def spillAll (i : Nat) : Nat → State → Ctl
  | 0, s => .ok s
  | k + 1, s => if (s.split i).div.isEmpty then .ok s else (spillOldest i s).andThen (spillAll i k)

/-- The header of a save area (R126). -/
def saveHeader (valid forced : Bool) (nwarp tq tdone : Nat) (bars : List Barrier) (offsets : List Nat) : List Byte :=
  padTo 4096 (padTo 0x800 (padTo 0x40 (bytesOfNat 4 1 ++ bytesOfNat 4 (valid.toNat + forced.toNat * 2) ++ bytesOfNat 4 nwarp ++ bytesOfNat 4 0 ++
    bytesOfNat 8 tq ++ bytesOfNat 8 tdone) ++ bars.flatMap Barrier.record) ++ offsets.flatMap (bytesOfNat 4))

/-- Whether every split of a workgroup has stopped, and every absent granule that is live has been filled. -/
def State.allStopped (s : State) (g : Nat) : Bool :=
  (s.wgSplits g).all (fun i => match (s.split i).phase with
    | .stopped _ _ => true
    | _ => false)

/-- A live granule of a stopped warp that is still to be filled (R123). -/
def State.liveAbsent (s : State) (w : Nat) : Option Nat :=
  (List.range 8).find? (fun k => (s.warp w).absent.getLsbD k && ((s.liveOf w) >>> (8 * k)).setWidth 8 != (0 : BitVec 8))

/-- Write the save area but for VALID and TDONE; answers the latest W, or a cause. -/
def writeSave (g : Nat) (s : State) : State × Got Nat :=
  let w := s.wg g
  let p := w.preq.getD { tq := 0 }
  let spill := (s.wgSplits g).foldl (fun (c : Ctl) i => c.andThen (spillAll i 16)) (.ok s)
  match spill with
  | .trap _ _ _ dies => ({ s with dies := dies }, .bad 0x024)
  | .later t => (t, .later)
  | .ok t =>
    let ws := t.warpsById g
    let recs := ws.map t.warpRecord
    let offsets := (recs.foldl (fun (a : List Nat × Nat) r => (a.1 ++ [a.2], a.2 + r.length)) ([], 4096)).1
    let forced := ws.any (fun k => (t.warp k).forced)
    let head := saveHeader false forced ws.length p.tq 0 w.bars offsets
    let all := head ++ recs.flatten
    saveBytes g (all.length / 256 + 2) w.save all (t, .ok 0)

/-- Whether a context without lanes has stopped for a save. -/
def CtxPhase.still (p : CtxPhase) : Bool :=
  match p with
  | .idle | .ended | .halted | .stopped _ _ _ => true
  | _ => false

/-- UNIT_SAVE_DONE (R125): with every split stopped, and no context left that could still arrive at a barrier, the save area is written; once Meridian time has reached its completion time the unit
marks it valid and reports TDONE. A store that fails leaves it invalid, and 0x024 goes into the context record of the command core. -/
def execUnitSaveDone (g : Nat) (s : State) : Host.Outcome State Fault Refusal :=
  let w := s.wg g
  match w.preq with
  | none => .next s
  | some p =>
    let setP (q : Preempt) (t : State) : State := t.modWg g (fun x => { x with preq := some q })
    if p.unitDone || p.failed || w.phase != .running || w.creq.isSome || !s.allStopped g || (s.warpsOf g).any (fun k => (s.liveAbsent k).isSome) ||
        !(w.seq.phase.still && w.lspoke.phase.still && w.sspoke.phase.still) then .next s
    else
      match p.written with
      | none =>
        match writeSave g s with
        | (t, .ok v) => .next (setP { p with written := some v } t)
        | (t, .bad _) => .next (setP { p with failed := true, cause := 0x024 } t)
        | (t, .later) => .next t
      | some v =>
        if Nat.blt (s.nowCore w.core) v then .next s
        else
          let forced := (s.warpsOf g).any (fun k => (s.warp k).forced)
          match saveBytes g 2 (w.save + 4) (bytesOfNat 4 (1 + forced.toNat * 2)) (saveBytes g 2 (w.save + 0x18) (bytesOfNat 8 v) (s, .ok 0)) with
          | (t, .ok x) => .next (setP { p with unitDone := true, tdone := max v x } t)
          | (t, .bad _) => .next (setP { p with failed := true, cause := 0x024 } t)
          | (t, .later) => .next t

/-! ## Lazy fills (R131, R132) -/

/-- Read bytes from a virtual address on, a block at a time; a failure names the address. -/
def loadBytes (g : Nat) : Nat → Nat → Nat → State × Got (List Byte) → State × Got (List Byte)
  | 0, _, _, r => r
  | k + 1, va, n, (s, got) =>
    match got with
    | .ok acc =>
      if n == 0 then (s, got)
      else
        let m := min n (256 - va % 256)
        match s.vaRead g va m true .device 1 with
        | (t, .ok bs) => loadBytes g k (va + m) (n - m) (t, .ok (acc ++ bs))
        | (t, .bad _) => (t, .bad va)
        | (t, .later) => (t, .later)
    | _ => (s, got)

/-- Where a register's bytes lie in the register block, and the block's size, from LIVE and TAGS (R130). -/
def blockOffset (live tags width : Nat) (r : Nat) : Nat :=
  (List.range r).foldl (fun a k => if live.testBit k then a + (match tags / 4 ^ k % 4 with
    | 0 => 4
    | 1 => 8
    | _ => 4 * width) else a) 0

/-- Where a register's entry lies in the poison block. -/
def poisonOffset (live tags pz r : Nat) : Nat :=
  (List.range r).foldl (fun a k => if live.testBit k && pz.testBit k && tags / 4 ^ k % 4 == 2 then a + 16 else a) 0

/-- A saved register read back (R132). -/
def restoreReg (g w r base live tags pz : Nat) (s : State) : State × Got VReg :=
  let u := s.warp w
  if !live.testBit r then (s, .ok (.uniform .poison))
  else
    let tag := tags / 4 ^ r % 4
    let n := match tag with
      | 0 => 4
      | 1 => 8
      | _ => 4 * u.width
    let size := blockOffset live tags u.width 64
    match loadBytes g 8 (base + blockOffset live tags u.width r) n (s, .ok []) with
    | (t, .ok bs) =>
      let word (k : Nat) : Word := BitVec.ofNat 32 (natOfBytes ((bs.drop (4 * k)).take 4))
      if tag == 0 then (t, .ok (.uniform (if pz.testBit r then .poison else .val (word 0))))
      else if tag == 1 then (t, .ok (.affine (word 0) (word 1)))
      else if !pz.testBit r then (t, .ok (.general ((List.range u.width).map (fun l => .val (word l)))))
      else
        match loadBytes g 4 (base + roundUp size 4 + poisonOffset live tags pz r) 16 (t, .ok []) with
        | (v, .ok ps) =>
          let m := natOfBytes ps
          (v, .ok (.general ((List.range u.width).map (fun l => if m.testBit l then PWord.poison else .val (word l)))))
        | (v, .bad c) => (v, .bad c)
        | (v, .later) => (v, .later)
    | (t, .bad c) => (t, .bad c)
    | (t, .later) => (t, .later)

/-- The eight registers of a granule read back in turn. -/
def restoreGranule (g w base live tags pz : Nat) : List Nat → State × Got (List VReg) → State × Got (List VReg)
  | [], r => r
  | k :: ks, (s, .ok vs) =>
    match restoreReg g w k base live tags pz s with
    | (t, .ok v) => restoreGranule g w base live tags pz ks (t, .ok (vs ++ [v]))
    | (t, .bad c) => (t, .bad c)
    | (t, .later) => (t, .later)
  | _, r => r

/-- The splits that wait for a granule of a warp. -/
def State.granuleWaiters (s : State) (w k : Nat) : List Nat :=
  (s.splitsOf w).filter (fun i => (s.split i).phase == .parked (.retest (.granule k)))

/-- LAZY_FILL_DONE (R132): the fill of an absent granule completes, or raises 0x025 at the words that wait for it. Where no word waits for it and
it is needed for a save, a fill that fails fails the save (DESIGN CHOICE, log entry 56). -/
def execLazyFillDone (w k : Nat) (s : State) : Host.Outcome State Fault Refusal :=
  let u := s.warp w
  let g := u.wg
  if !u.live || Nat.ble 8 k || !u.absent.getLsbD k then .next s
  else
    let fail (t : State) (a : Nat) : State :=
      let waiting := t.granuleWaiters w k
      if waiting.isEmpty && (t.wg g).preq.isSome then
        t.modWg g (fun x => { x with preq := x.preq.map (fun p => { p with failed := true }) })
      else foldState waiting (fun i z => raiseHere i 0x025 a z) t
    match loadBytes g 2 u.record 0x48 (s, .ok []) with
    | (t, .ok hd) =>
      let x := natOfBytes hd
      let live := bitsOf x (8 * 0x18) 64
      let pz := bitsOf x (8 * 0x30) 64
      let base := u.record + 256 + 512 * bitsOf x (8 * 8) 32 + roundUp u.width 64
      match restoreGranule g w base live u.tags pz ((List.range 8).map (fun j => 8 * k + j)) (t, .ok []) with
      | (v, .ok rs) =>
        let regs := u.v.mapIdx (fun r old => if r / 8 == k then rs.getD (r % 8) old else old)
        let filled := v.modWarp w (fun y => { y with v := regs, absent := y.absent &&& ~~~(BitVec.ofNat 8 (2 ^ k)) })
        .next (foldState (filled.granuleWaiters w k) readySplit filled)
      | (v, .bad a) => .next (fail v a)
      | (v, .later) => .next v
    | (t, .bad a) => .next (fail t a)
    | (t, .later) => .next t

/-! ## Cancellation (R133) -/

/-- A cancellation reaches a workgroup at a time (R133, R274, R298, R317): its parked splits and its spokes are discarded, and a save is
abandoned, and what it has marked valid is to be cleared; its sequencer and its copies stop under their own rules. With the pre-emption given up,
PSTAT.PREQ reads 0 (R138 does not say; DESIGN CHOICE, log entry 64). -/
def cancelWg (g tc : Nat) (s : State) : State :=
  let w := s.wg g
  if w.phase != .running || w.creq.isSome then s
  else
    let p := s.partyIn g
    let spokes (q : Party) : Bool := match q with
      | .spoke _ _ => p q
      | _ => false
    let t := s.modWg g (fun x =>
      { x with creq := some tc, preq := none, revoke := (x.preq.map Preempt.marks).getD []
               lspoke := { x.lspoke with phase := if x.lspoke.phase == .idle then .idle else .ended }
               sspoke := { x.sspoke with phase := if x.sspoke.phase == .idle then .idle else .ended } })
    stopSweep g { t with reqs := t.reqs.filterMap (orphanReq spokes t.nowCore) }

/-- At Tc + 2 µs what still runs of a cancelled workgroup is killed, with its open group (R133). -/
def cancelKill (g : Nat) (s : State) : State :=
  let w := s.wg g
  if w.phase == .running && w.creq.any (fun tc => Nat.ble (tc + 32000) (s.nowCore w.core)) then
    finishCancelled g (foldState (s.wgSplits g) discardSplit s)
  else s

/-- CANCEL_KILL (R133). -/
def execCancelKill (g : Nat) (s : State) : Host.Outcome State Fault Refusal := .next (cancelKill g s)

end Sys2Proof.Machine
end

