-- ==== Sys2Proof/Machine/Transfer.lean ====
section
/-! DEFINITION. The transfer engine (R277 to R300): the buffer table and its rings, layout records, the copy and handle words, and what
the engine does with a copy in progress. The operations on handles serve warps, sequencers and spokes alike. -/

namespace Sys2Proof.Machine

/-! ## Entries (R278, R279) -/

/-- An entry of a workgroup's handles. -/
def Wg.entry (g : Wg) (h : Nat) : Entry := g.entries.getD h {}

/-- Change an entry. -/
def State.modEntry (s : State) (g h : Nat) (f : Entry → Entry) : State :=
  s.modWg g (fun w => { w with entries := w.entries.modify h f })

/-- The code of an entry's state (R278). -/
def EntryState.code : EntryState → Nat
  | .free => 0
  | .filling => 1
  | .full => 2
  | .draining => 3

/-- HSTAT (R278). -/
def Entry.hstat (e : Entry) : Nat :=
  e.st.code * 2 ^ 30 + e.phase.toNat * 2 ^ 29 + e.fault.toNat * 2 ^ 28 + e.win.toNat * 2 ^ 27 + e.kind % 8 * 2 ^ 23 + e.arrived % 2 ^ 20

/-- A word of a fault record (R294); k from 0 to 15. -/
def CopyFault.word (f : CopyFault) (k : Nat) : Nat :=
  match k with
  | 0 => f.valid.toNat * 2 ^ 31 + f.detail % 512 * 2 ^ 16 + f.dst.toNat * 2 ^ 15 + f.cause % 512
  | 1 => f.off % 2 ^ 32
  | 2 => f.va % 2 ^ 32
  | 3 => f.va / 2 ^ 32 % 2 ^ 32
  | 9 => f.arrived
  | _ => if Nat.blt k 9 then f.coord.getD (k - 4) 0 else 0

/-- A copy by its number. -/
def State.copyOf (s : State) (k : Nat) : Option Copy :=
  match s.copies[k]? with
  | some c => if c.live then some c else none
  | none => none

/-- Change a copy. -/
def State.modCopy (s : State) (k : Nat) (f : Copy → Copy) : State := { s with copies := s.copies.modify k f }

/-- The entries a copy is attached to: its issuer's, and those of the deliveries that were accepted (R288). -/
def Copy.attached (c : Copy) : List (Nat × Nat) :=
  (if c.issuer then [(c.wg, c.h)] else []) ++ (c.dests.filter (fun d => d.accepted)).map (fun d => (d.wg, c.h))

/-- The entries that a copy goes on for: an aborted delivery drains without it (R288). -/
def Copy.served (c : Copy) : List (Nat × Nat) :=
  (if c.issuer then [(c.wg, c.h)] else []) ++ (c.dests.filter (fun d => d.accepted && d.drain.isNone)).map (fun d => (d.wg, c.h))

/-- The entries that receive the unit at a layout byte. -/
def Copy.receivers (c : Copy) (off : Nat) : List (Nat × Nat) :=
  (if c.issuer && c.own then [(c.wg, c.h)] else []) ++
  (c.dests.filter (fun d => d.accepted && (match d.drain with
    | some b => Nat.blt off b
    | none => true))).map (fun d => (d.wg, c.h))

/-- Detach an entry from its copy; a copy without entries is over. -/
def detach (k g : Nat) (s : State) : State :=
  s.modCopy k (fun c =>
    let d := { c with issuer := c.issuer && c.wg != g, dests := c.dests.filter (fun x => x.wg != g) }
    if !d.issuer && d.dests.isEmpty then { d with live := false, flight := [] } else d)

/-- An entry becomes free; whoever waits for it tests again (R279). -/
def freeEntry (g h : Nat) (s : State) : State :=
  let e := (s.wg g).entry h
  let t := match e.copy with
    | some k => detach k g s
    | none => s
  t.modEntry g h (fun e => { e with st := .free, copy := none })

/-- Whether a filling entry has become full (R279, R288). -/
def State.entryDone (s : State) (g h : Nat) : Bool :=
  let e := (s.wg g).entry h
  e.st == .filling && e.kind != 0 && !e.fault && e.arrived == e.expected && e.dpend == 0 && Nat.ble e.cdone (s.nowCore (s.wg g).core)

/-- A filling entry becomes full (R279). -/
def fillEntry (g h : Nat) (s : State) : State :=
  let t := match ((s.wg g).entry h).copy with
    | some k => detach k g s
    | none => s
  t.modEntry g h (fun e => { e with st := .full, phase := !e.phase, copy := none })

/-- What a draining copy leaves: its entries are free and its owned spans released (R205, R279). -/
def endCopy (k : Nat) (s : State) : State :=
  match s.copyOf k with
  | none => s
  | some c =>
    let t := releaseAll (fun o => o.agent == .copy k) s
    let u := (foldState c.attached (fun p z => freeEntry p.1 p.2 z) t).modCopy k (fun x => { x with live := false, flight := [] })
    foldState (c.attached.map Prod.fst) (fun g z => tryRetire g (stopSweep g z)) u

/-- FAULT rises in an entry, with its record (R294). -/
def raiseEntry (f : CopyFault) (g h : Nat) (s : State) : State :=
  s.modEntry g h (fun e => { e with fault := true, frec := some { f with arrived := e.arrived } })

/-- FAULT rises in every entry of a copy, with its record (R293, R294). -/
def raiseCopy (k : Nat) (s : State) : State :=
  match s.copyOf k with
  | none => s
  | some c =>
    match c.fail with
    | none => s
    | some (f, _) =>
      let u := foldState c.served (fun p z => raiseEntry f p.1 p.2 z) s
      u.modCopy k (fun x => { x with raised := true })

/-- Whether a copy's fault event is due: every unit before the one that failed has been released (R293). -/
def Copy.faultDue (c : Copy) : Bool := c.fail.isSome && !c.raised && c.flight.isEmpty

/-- A copy stops (R205, R279, R288): its entries drain, deliveries that are pending are dropped, and units in flight are applied. A fault
that is due by now is still recorded (R296). -/
def stopCopy (k : Nat) (s : State) : State :=
  match s.copyOf k with
  | none => s
  | some c =>
    let s1 := if c.faultDue then raiseCopy k s else s
    let t := foldState c.attached (fun p z => z.modEntry p.1 p.2 (fun e => { e with st := .draining, dpend := 0 })) s1
    let u := t.modCopy k (fun x => { x with stop := true, dests := x.dests.filter (fun d => d.accepted) })
    if c.flight.isEmpty then endCopy k u else u

/-- Aborted deliveries whose last unit in flight has been applied leave free entries (R279, R288). -/
def settleDrains (k : Nat) (s : State) : State :=
  match s.copyOf k with
  | none => s
  | some c =>
    foldState (c.dests.filter (fun d => d.drain.any (fun b => !c.flight.any (fun u => Nat.blt u.off b)))) (fun d z => freeEntry d.wg c.h z) s

/-- One delivery of a multicast stops (R288): its entry drains, and the copy runs on for every other destination. -/
def stopDelivery (k g : Nat) (c : Copy) (s : State) : State :=
  let t := match c.fail with
    | some (f, _) => if c.faultDue then raiseEntry f g c.h s else s
    | none => s
  let u := (t.modEntry g c.h (fun e => { e with st := .draining })).modCopy k (fun x =>
    { x with dests := x.dests.map (fun d => if d.wg == g then { d with drain := some x.sent } else d) })
  settleDrains k u

/-- Stop every copy that satisfies a test (R298). -/
def stopCopies (p : Copy → Bool) (s : State) : State :=
  foldState (idxsOf s.copies (fun c => c.live && !c.stop && p c)) stopCopy s

/-! ## Handle operations (R279, R290, R291, R295) -/

/-- What an operation on a handle comes to. -/
inductive HRes where
  | ok (s : State) (v : Nat)
  | trap (cause val : Nat)
  | wait (c : Cond)
  deriving DecidableEq, Repr

/-- The check of a handle number (0x101). -/
def withHandle (g h : Nat) (s : State) (f : Entry → HRes) : HRes :=
  if Nat.ble (s.wg g).entries.length h then .trap 0x101 h else f ((s.wg g).entry h)

/-- HB.ACQ: the value is h + 64 × ¬PHASE. -/
def hbAcq (g h : Nat) (s : State) : HRes :=
  withHandle g h s (fun e =>
    if e.st != .free then .wait (.entryFree h)
    else
      .ok (s.modEntry g h (fun e =>
        { e with st := .filling, kind := 0, fault := false, win := false, expected := 0, arrived := 0, cdone := 0, dpend := 0, copy := none }))
        (h + 64 * (!e.phase).toNat))

/-- HB.WAIT: the value is CDONE, which the waiter joins (R286); FAULT, which stands until the next acquire or a resumption (R279), raises its
cause with FVA. -/
def hbWait (g h : Nat) (p : Bool) (s : State) : HRes :=
  withHandle g h s (fun e =>
    if e.st == .full && e.phase == p then .ok s e.cdone
    else if e.fault then
      match e.frec with
      | some f => .trap f.cause f.va
      | none => .wait (.entryFull h p)
    else .wait (.entryFull h p))

/-- HB.REL (R279). -/
def hbRel (g h : Nat) (s : State) : HRes :=
  withHandle g h s (fun e =>
    if e.st == .full || (e.st == .filling && e.kind == 0) then .ok (freeEntry g h s) 0 else .trap 0x102 e.hstat)

/-- HB.STATE. -/
def hbState (g h : Nat) (s : State) : HRes := withHandle g h s (fun e => .ok s e.hstat)

/-- A ring cursor (R291): the value is the handle and the parity; `advance` is clear for RG.PEEK. -/
def rgCursor (g ring : Nat) (c advance : Bool) (s : State) : HRes :=
  match (s.wg g).rings[ring]? with
  | none => .trap 0x101 ring
  | some r =>
    let stage := if c then r.cStage else r.pStage
    let par := if c then r.cPar else r.pPar
    let next := if stage + 1 == r.stages then 0 else stage + 1
    let par2 := if stage + 1 == r.stages then !par else par
    let r2 : Ring := if c then { r with cStage := next, cPar := par2 } else { r with pStage := next, pPar := par2 }
    .ok (if advance then s.modWg g (fun w => { w with rings := w.rings.set ring r2 }) else s) (r.first + stage + 64 * par.toNat)

/-- CP.RESUME (R295): the copy goes on from the element that failed, in every entry that it fills. -/
def cpResume (g h : Nat) (s : State) : HRes :=
  withHandle g h s (fun e =>
    if e.st == .filling && e.fault then
      match e.copy with
      | none => .trap 0x102 e.hstat
      | some k =>
        match s.copyOf k with
        | none => .trap 0x102 e.hstat
        | some c =>
          let t := foldState c.served (fun p z =>
            z.modEntry p.1 p.2 (fun e => { e with fault := false, frec := e.frec.map (fun f => { f with valid := false }) })) s
          .ok (t.modCopy k (fun x =>
            match x.fail with
            | some (f, off) => { x with fail := none, raised := false, sent := f.off, again := max off x.again }
            | none => x)) 0
    else .trap 0x102 e.hstat)

/-- CP.ABORT (R279, R288, R296): a completion that is due comes first. -/
def cpAbort (g h : Nat) (s0 : State) : HRes :=
  let s := if s0.entryDone g h then fillEntry g h s0 else s0
  withHandle g h s (fun e =>
    match e.st with
    | .full => .ok (freeEntry g h s) 0
    | .filling =>
      match e.copy with
      | none => .ok (freeEntry g h s) 0
      | some k =>
        match s.copyOf k with
        | some c => .ok (if c.wg == g then stopCopy k s else stopDelivery k g c s) 0
        | none => .ok (freeEntry g h s) 0
    | _ => .trap 0x102 e.hstat)

/-- CP.FREC (R295). -/
def cpFrec (g h k : Nat) (s : State) : HRes :=
  withHandle g h s (fun e => .ok s (match e.frec with
    | some f => f.word k
    | none => 0))

/-! ## Layout records (R280, R281) -/

/-- A layout record within the limits of R280. -/
structure Layout where
  base : Nat
  ndim : Nat
  fmt : Nat
  swz : Nat
  dim : List Nat
  stride : List Nat
  deriving DecidableEq, Repr

/-- A layout record from its 64 bytes, when it keeps the limits of R280; `stride` starts at STRIDE[0], which is 0. -/
def layoutOf (bs : List Byte) : Option Layout :=
  let at_ (o n : Nat) : Nat := natOfBytes ((bs.drop o).take n)
  let nd := at_ 8 1
  let dim := (List.range 5).map (fun d => at_ (0x10 + 4 * d) 4)
  let stride := 0 :: (List.range 4).map (fun d => at_ (0x24 + 4 * d) 4)
  let ok := Nat.blt (at_ 0 8) (2 ^ 56) && Nat.ble 1 nd && Nat.ble nd 5 && Nat.ble (at_ 9 1) 4 && Nat.ble (at_ 10 1) 3 && at_ 11 5 == 0 &&
    at_ 0x34 12 == 0 &&
    (List.range 5).all (fun d =>
      Nat.ble 1 (dim.getD d 0) && Nat.ble (dim.getD d 0) (2 ^ 24) && (Nat.blt d nd || (dim.getD d 0 == 1 && stride.getD d 0 == 0)))
  if ok then some { base := at_ 0 8, ndim := nd, fmt := at_ 9 1, swz := at_ 10 1, dim := dim, stride := stride } else none

/-- The box index of an element (R281). -/
def boxIndex (dim : List Nat) (n : Nat) : List Nat :=
  let d (k : Nat) : Nat := dim.getD k 1
  [n % d 0, n / d 0 % d 1, n / (d 0 * d 1) % d 2, n / (d 0 * d 1 * d 2) % d 3, n / (d 0 * d 1 * d 2 * d 3) % d 4]

/-- The address of an element (R281); a gather takes its row from the index list (R287). -/
def Copy.elemAddr (c : Copy) (n : Nat) : Nat :=
  let i := boxIndex c.dim n
  let pos (d : Nat) : Int := if d == 1 && c.kind == 3 then c.index.getD (i.getD 1 0) 0 else c.coord.getD d 0 + (i.getD d 0 : Int)
  let x : Int := (c.base : Int) + (c.esz : Int) * pos 0 + 16 * ([1, 2, 3, 4].foldl (fun a d => a + (c.stride.getD d 0 : Int) * pos d) 0)
  (x % ((2 ^ 64 : Nat) : Int)).toNat

/-- The address of a byte in layout order. -/
def Copy.byteAddr (c : Copy) (o : Nat) : Nat := (c.elemAddr (o / c.esz) + o % c.esz) % 2 ^ 64

/-- How many layout bytes from o on follow each other in the block of address a (R284), below a bound: `k` are known to. -/
def runLen (c : Copy) (o a hi : Nat) : Nat → Nat → Nat
  | 0, k => k
  | f + 1, k => if Nat.blt (o + k) hi && c.byteAddr (o + k) / 256 == a / 256 then runLen c o a hi f (k + 1) else k

/-- The layout bytes from o on, fewer than a number of them, that lie in the block of address a, as runs in layout order. -/
def blockRuns (c : Copy) (a : Nat) : Nat → Nat → List (Nat × Nat)
  | 0, _ => []
  | f + 1, o =>
    let rest := blockRuns c a f (o + 1)
    if Nat.blt o c.bytes && c.byteAddr o / 256 == a / 256 then
      match rest with
      | (k, n) :: more => if k == o + 1 then (o, n + 1) :: more else (o, 1) :: rest
      | [] => [(o, 1)]
    else rest

/-- The runs of layout bytes of the unit that starts at layout byte o (R284). A load's unit is one run. A store's holds all of the copy's writes to
its block, wherever in layout order they come (R204; DEDUCED, log entry 58); what a resumed copy writes again, the first part of the element that
failed, is a unit of its own. -/
def Copy.unitRuns (c : Copy) (o : Nat) : List (Nat × Nat) :=
  let a := c.byteAddr o
  if c.kind != 2 then [(o, runLen c o a c.bytes c.bytes 1)]
  else if Nat.blt o c.again then [(o, runLen c o a c.again c.bytes 1)]
  else blockRuns c a (c.bytes - o) o

/-- Whether an earlier unit of a store has taken the layout byte o with the others of its block. -/
def Copy.taken (c : Copy) (o : Nat) : Bool :=
  c.kind == 2 && Nat.ble c.again o && (List.range o).any (fun j => c.byteAddr j / 256 == c.byteAddr o / 256)

/-- The runs of a unit. -/
def Unit.runs (u : Unit) : List (Nat × Nat) := (u.off, u.n) :: u.more

/-- The layout bytes of runs, in order. -/
def runBytes (rs : List (Nat × Nat)) : List Nat := rs.flatMap (fun r => (List.range r.2).map (fun j => r.1 + j))

/-- The physical addresses of layout bytes that one page maps. -/
def Copy.unitAddrs (c : Copy) (l : Leaf) (os : List Nat) : List Nat := os.map (fun o => l.at (c.byteAddr o))

/-- Bytes at their addresses as runs of adjacent ones, in order. -/
def byteRuns (bs : List (Nat × Byte)) : List (Nat × List Byte) :=
  bs.foldr (fun p acc =>
    match acc with
    | (a, r) :: rest => if a == p.1 + 1 then (p.1, p.2 :: r) :: rest else (p.1, [p.2]) :: acc
    | [] => [(p.1, [p.2])]) []

/-- The writes of a unit of a store, in layout order. -/
def Copy.unitWrites (c : Copy) (u : Unit) : List (Nat × List Byte) := byteRuns ((c.unitAddrs u.leaf (runBytes u.runs)).zip u.data)

/-- Where the buffer holds a layout byte (R281). -/
def swizzle (swz o : Nat) : Nat :=
  if swz == 0 then o else Nat.xor o (o / (16 * 2 ^ swz) % 2 ^ swz * 16)

/-! ## Issue (R282, R283, R287 to R289) -/

/-- The members of a workgroup's cluster group, the ones that are placed (R22). -/
def State.groupMembers (s : State) (g : Nat) : List Nat :=
  let w := s.wg g
  if (s.launch w.launch).cgrp == 1 then []
  else idxsOf s.wgs (fun x => x.phase != .free && x.launch == w.launch && x.group == w.group)

/-- The member of a rank. -/
def State.memberAt (s : State) (g rank : Nat) : Option Nat := (s.groupMembers g).find? (fun m => (s.wg m).rank == rank)

/-- A copy as its issuer's words name it: KIND and WIN, the handle, the record's address, the record when it could be read, c0 to c4, the
auxiliary operand, the privilege. -/
structure CopyReq where
  kind : Nat
  win : Bool
  h : Nat
  recAddr : Nat
  rec_ : Option Layout
  coord : List Int
  aux : Nat
  prv : Bool
  deriving DecidableEq, Repr

/-- Whether a tag is one of a set (R343, R344): a tag with G = 0xFF is none, TREE.REL cancels every tag of its tree. -/
def CancelSet.hits (c : CancelSet) (tag : Nat) : Bool :=
  let g := tag / 2 ^ 8 % 2 ^ 8
  c.tree == tag / 2 ^ 16 % 2 ^ 16 && g != 0xFF && (c.whole || (g != 0 && c.nodes.contains (tag % 2 ^ 8, g)))

/-- Whether a tag is in the cancelled set of a die (R344). -/
def State.tagCancelled (s : State) (d tag : Nat) : Bool :=
  s.cancels.any (fun c => c.arrived.getLsbD d && Nat.blt (s.nowDie d) c.done && c.hits tag)

/-- The number of the requests a party has outstanding (R285). -/
def State.requestsOf (s : State) (p : Party) : List Nat := (s.reqs.filter (fun r => r.party == p)).map Req.id

/-- A multicast delivery is accepted by a member's handle that is filling with KIND 000 (R288): bytes that have been read already arrive at
once, and a copy that has faulted faults there too. -/
def acceptDelivery (k rank : Nat) (s : State) : State :=
  match s.copyOf k with
  | none => s
  | some c =>
    match c.dests.find? (fun d => d.rank == rank && !d.accepted) with
    | none => s
    | some d =>
      let e := (s.wg d.wg).entry c.h
      if e.st != .filling || e.kind != 0 || c.stop then s
      else
        let got := c.read.foldl (fun n r => n + r.2.length) 0
        let t := s.modEntry d.wg c.h (fun e =>
          { e with kind := 4, win := false, expected := c.bytes, ltag := c.ltag, copy := some k, arrived := got
                   cdone := s.nowCore (s.wg d.wg).core
                   fault := c.raised, frec := if c.raised then c.fail.map (fun f => { f.1 with arrived := got }) else e.frec })
        let u := foldState c.read (fun r z =>
          foldState (List.range r.2.length) (fun j y => y.scratchWrite d.wg (e.addr + swizzle c.swz (r.1 + j)) [r.2.getD j 0]) z) t
        let v := (u.modWg d.wg (fun w => { w with report := max w.report (s.nowCore w.core) })).modCopy k (fun x =>
          let ds := x.dests.map (fun y => if y.rank == rank then { y with accepted := true } else y)
          { x with dests := ds, read := if ds.all (fun y => y.accepted) then [] else x.read })
        if c.issuer then v.modEntry c.wg c.h (fun e => { e with dpend := e.dpend &&& ~~~(BitVec.ofNat 4 (2 ^ rank)) }) else v

/-- Issue a copy for a party of a workgroup: the checks of R283 from the second on. A copy whose tag is cancelled stops as it starts
(R298, R344). -/
def issueCopy (p : Party) (g : Nat) (r : CopyReq) (s : State) : HRes :=
  let w := s.wg g
  withHandle g r.h s (fun e =>
    if e.st != .filling || e.kind != 0 then .trap 0x102 e.hstat
    else
      match r.rec_ with
      | none => .trap 0x103 r.recAddr
      | some l =>
        let esz := 2 ^ l.fmt
        let bytes := esz * l.dim.foldl (fun a d => a * d) 1
        let winOff := r.aux % 65536
        let rows := l.dim.getD 1 1
        let off := r.aux % 2 ^ 32
        let m : BitVec 4 := BitVec.ofNat 4 r.aux
        let others := (List.range 4).filter (fun k => m.getLsbD k && k != w.rank)
        if r.kind == 3 && l.ndim == 1 then .trap 0x103 r.recAddr
        else if !r.win && Nat.blt e.size bytes then .trap 0x103 r.recAddr
        else if r.win && (!w.matrix || winOff % 16 != 0 || bytes % 16 != 0 || Nat.blt 65536 (winOff + bytes) || l.swz != 0) then .trap 0x109 winOff
        else if r.kind == 3 && (off % 4 != 0 || Nat.blt w.scratchSize (off + 4 * rows)) then .trap 0x10A off
        else if r.kind == 4 && (m == 0 || (List.range 4).any (fun k => m.getLsbD k && (s.memberAt g k).isNone)) then .trap 0x108 m.toNat
        else
          let own := r.kind != 4 || m.getLsbD w.rank
          let k := firstIdx (fun c => !c.live) s.copies
          let c : Copy :=
            { kind := r.kind, win := r.win, wg := g, h := r.h, core := w.core, root := w.troot, rgen := w.trgen, prv := r.prv, party := p
              ltag := w.ltag, base := l.base, esz := esz, swz := l.swz, dim := l.dim, stride := l.stride, coord := r.coord
              index := if r.kind == 3 then (List.range rows).map (fun j =>
                (BitVec.ofNat 32 (natOfBytes (w.scratchRead (off + 4 * j) 4))).toInt) else []
              winOff := winOff, bytes := bytes, own := own
              dests := if r.kind == 4 then others.filterMap (fun k =>
                (s.memberAt g k).map (fun x => { wg := x, rank := k, accepted := false })) else []
              after := s.requestsOf p }
          let t := { s with copies := putAt s.copies k c }
          let u := t.modEntry g r.h (fun e =>
            { e with kind := r.kind, win := r.win, ltag := w.ltag, copy := some k, expected := if own then bytes else 0
                     dpend := if r.kind == 4 then m &&& ~~~(BitVec.ofNat 4 (2 ^ w.rank)) else 0 })
          .ok (if u.tagCancelled (dieOfCore w.core) w.ltag then stopCopy k u else u) 0)

/-- The layout record of a copy word, read as a load of 64 bytes (R283): a cause, a wait, or NDIM and the record when it keeps R280. Bytes that the
core's L1 holds dirty are seen, stores that it has accepted come first (R177, R197), and an older leased copy of the words goes (R199). Where
no record can be read, NDIM counts as 1 (DESIGN CHOICE, log entry 58). -/
def State.readLayout (s : State) (p : Party) (g va : Nat) (prv : Bool) : State × Got (Nat × Option Layout) :=
  if Nat.ble (2 ^ 56) va then (s, .bad 0x061)
  else if va % 64 != 0 then (s, .ok (1, none))
  else
    let w := s.wg g
    match s.resolve w.core w.troot w.trgen va 64 .load prv p with
    | (t, .ok l) =>
      let pa := l.at va
      let l1 := t.l1Core w.core pa
      match t.acceptedWrites l1 (spanOf pa 64) with
      | q :: _ => (t.stallOn q.id, .later)
      | [] =>
        match t.homeCause pa 64 with
        | some c => (t.recordHome w.core p.cls c pa, .ok (1, none))
        | none =>
          let bs := t.seenBytes l1 l pa 64
          ((t.joinG p (t.readV (spanOf pa 64))).dropL1 l1 (spanOf pa 64), .ok (min 5 (max 1 (natOfBytes ((bs.drop 8).take 1))), layoutOf bs))
    | (t, .bad c) => (t.logXlat w.core p.cls c va, .bad c)
    | (t, .later) => (t, .later)

/-- The result of a handle operation as what a word of the warp stream does. -/
def HRes.out (r : HRes) (s : State) (f : State → Nat → State × Out) : State × Out :=
  match r with
  | .ok t v => f t v
  | .trap c v => (s, .trap c v)
  | .wait c => (s, .wait c)

/-- A copy word of the warp stream (R282, R283): only the leader's registers are read. It acts once the loads before it have returned (R31). -/
def copyWord (kind : Nat) (win closes : Bool) (h c : BitVec 6) (l : BitVec 5) (mask : Nat) (s : State) : Host.Outcome State Fault Refusal :=
  let aux := win || kind == 3
  let hr := h.toNat
  let cr := c.toNat
  issueWord closes (withRegs ([hr, cr] ++ (if aux then [hr + 1] else [])) (fun i s =>
    match lowestLane (s.execMask i) with
    | none => (s, .done [])
    | some lane => afterLoads (fun i s =>
      let g := s.wgIdxOf i
      let prv := (s.split i).prv
      let va := ((s.split i).sreg l.toNat).bits.toNat + ((s.split i).sreg (l.toNat + 1)).bits.toNat * 2 ^ 32
      let reg (k : Nat) : PWord := ((s.warpOf i).reg k).lane lane
      if ((s.split i).sreg l.toNat).isPoison || ((s.split i).sreg (l.toNat + 1)).isPoison then (s, .trap 0x061 (addrVal va lane))
      else
        match s.readLayout (.split i) g va prv with
        | (t, .bad k) => (t, .trap k (addrVal va lane))
        | (t, .later) => (t.unlogged s, .wait t.memWait)
        | (t, .ok (nd, rec_)) =>
          let used := (List.range nd).filter (fun d => !(kind == 3 && d == 1))
          withRegs (used.map (fun d => cr + d)) (fun i t =>
            if (reg hr).isPoison || (aux && (reg (hr + 1)).isPoison) || used.any (fun d => (reg (cr + d)).isPoison) then (t, .trap 0x104 lane)
            else
              let q : CopyReq :=
                { kind := kind, win := win, h := (reg hr).bits.toNat % 64, recAddr := va, rec_ := rec_
                  coord := (List.range 5).map (fun d => if Nat.blt d nd then (reg (cr + d)).bits.toInt else 0)
                  aux := if aux then (reg (hr + 1)).bits.toNat else mask, prv := prv }
              (issueCopy (.split i) g q t).out t (fun u _ => (u, .done []))) i t) i s)) s

/-- CP.TENSOR (R282). -/
def execCpTensor (w : CpF) (s : State) : Host.Outcome State Fault Refusal := copyWord 1 false w.s w.h w.c w.l 0 s

/-- CP.TENSOR.W (R289). -/
def execCpTensorW (w : CpF) (s : State) : Host.Outcome State Fault Refusal := copyWord 1 true w.s w.h w.c w.l 0 s

/-- CP.STORE (R282). -/
def execCpStore (w : CpF) (s : State) : Host.Outcome State Fault Refusal := copyWord 2 false w.s w.h w.c w.l 0 s

/-- CP.GATHER (R287). -/
def execCpGather (w : CpF) (s : State) : Host.Outcome State Fault Refusal := copyWord 3 false w.s w.h w.c w.l 0 s

/-- CP.MCAST (R288). -/
def execCpMcast (w : CpMF) (s : State) : Host.Outcome State Fault Refusal := copyWord 4 false w.s w.h w.c w.l w.m.toNat s

/-! ## Handle words (R290, R291, R295) -/

/-- A handle word of the warp stream: the poison check of sA, then the operation. -/
def handleBody (a : BitVec 5) (op : Nat → Word → State → HRes) (held : Nat → List Held) (i : Nat) (s : State) : State × Out :=
  match s.ssrc i a with
  | .poison => (s, .trap 0x104 ((lowestLane (s.actMask i)).getD 0))
  | .val v => (op (s.wgIdxOf i) v s).out s (fun t x => (t, .done (held x)))

/-- One scalar result. -/
def setScalar (d : BitVec 5) (x : Nat) : List Held := [.sset d.toNat (.val (BitVec.ofNat 32 x))]

/-- HB.ACQ (R290). -/
def execHbAcq (w : SDA) (s : State) : Host.Outcome State Fault Refusal :=
  closingWord (handleBody w.a (fun g v s => hbAcq g (v.toNat % 64) s) (setScalar w.d)) (fun _ _ post => .ok post) s

/-- HB.WAIT (R290, R286): its return joins CDONE. -/
def execHbWait (w : SA) (s : State) : Host.Outcome State Fault Refusal :=
  closingWord (fun i s =>
      match s.ssrc i w.a with
      | .poison => (s, .trap 0x104 ((lowestLane (s.actMask i)).getD 0))
      | .val v =>
        (hbWait (s.wgIdxOf i) (v.toNat % 64) (v.getLsbD 6) s).out s (fun t c => ((t.joinL (.split i) c).joinG (.split i) c, .done [])))
    (fun _ _ post => .ok post) s

/-- HB.REL (R290): the results of earlier reads have returned when a closing word acts. -/
def execHbRel (w : SA) (s : State) : Host.Outcome State Fault Refusal :=
  closingWord (handleBody w.a (fun g v s => hbRel g (v.toNat % 64) s) (fun _ => [])) (fun _ _ post => .ok post) s

/-- HB.STATE (R290). -/
def execHbState (w : SDA) (s : State) : Host.Outcome State Fault Refusal :=
  issueWord w.s (handleBody w.a (fun g v s => hbState g (v.toNat % 64) s) (setScalar w.d)) s

/-- RG.NEXT (R291): the cursor moves once the loads before it have returned (R31). -/
def execRgNext (w : RgF) (s : State) : Host.Outcome State Fault Refusal :=
  issueWord w.s (afterLoads (handleBody w.a (fun g v s => rgCursor g (v.toNat % 32) w.c true s) (setScalar w.d))) s

/-- CP.RESUME (R295). -/
def execCpResume (w : SA) (s : State) : Host.Outcome State Fault Refusal :=
  issueWord w.s (afterLoads (handleBody w.a (fun g v s => cpResume g (v.toNat % 64) s) (fun _ => []))) s

/-- CP.ABORT (R295). -/
def execCpAbort (w : SA) (s : State) : Host.Outcome State Fault Refusal :=
  issueWord w.s (afterLoads (handleBody w.a (fun g v s => cpAbort g (v.toNat % 64) s) (fun _ => []))) s

/-- CP.FREC (R295). -/
def execCpFrec (w : FrecF) (s : State) : Host.Outcome State Fault Refusal :=
  issueWord w.s (handleBody w.a (fun g v s => cpFrec g (v.toNat % 64) w.k.toNat s) (setScalar w.d)) s

/-! ## The engine (R284, R285, R293) -/

/-- A unit fails (R293): the copy sends no more, and the failure is kept until the earlier units have been released; a translation fault is logged
as it is met (R246). -/
def failUnit (k : Nat) (c : Copy) (cause detail : Nat) (dst : Bool) (s : State) : State :=
  let n := c.sent / c.esz
  let f : CopyFault :=
    { detail := detail, dst := dst, cause := cause, off := n * c.esz, va := c.elemAddr n, coord := boxIndex c.dim n, arrived := 0 }
  let t := if Nat.ble 0x0A0 detail then s.logXlat c.core 8 detail (c.byteAddr c.sent) else s
  t.modCopy k (fun x => { x with fail := some (f, c.sent) })

/-- Whether an earlier access of the issuer to words of a span is still on its way (R285). -/
def State.aheadOf (s : State) (c : Copy) (sp : Span) : Bool :=
  s.reqs.any (fun q => match q with
    | .mem q => c.after.contains q.id && q.span.overlaps sp
    | _ => false)

/-- The buffer bytes of a unit of a store, in layout order. -/
def State.bufferRead (s : State) (c : Copy) (os : List Nat) : List Byte :=
  os.map (fun o => cellGet (s.wg c.wg).scratch (((s.wg c.wg).entry c.h).addr + swizzle c.swz o))

/-- A unit whose home is on another die counts as a request sent (event 0x13, at the die of the copy) or served (0x14, at the home) (R437). -/
def crossCount (c : Copy) (sp : Span) (event : Nat) (s : State) : State :=
  let d := dieOfCore c.core
  let h := homeDie sp.base
  if d == h then s else pmCount (if event == 0x13 then d else h) event 0 1 s

/-- A unit is sent: translated, its source read, its destination span owned (R284, R203). A frame that a REGMODE holds takes none (R208). Layout
bytes that an earlier unit has taken are passed over. -/
def sendUnit (k : Nat) (c : Copy) (s : State) : State :=
  let o := c.sent
  let a := c.byteAddr o
  let rs := c.unitRuns o
  let n := (rs.headD (o, 1)).2
  let store := c.kind == 2
  if c.taken o then s.modCopy k (fun x => { x with sent := o + n })
  else if Nat.ble (2 ^ 56) a then failUnit k c 0x105 0x061 store s
  else
    match s.translate c.core c.root c.rgen a (if store then .store else .load) c.prv with
    | (t, .fault x) => failUnit k c 0x105 x store t
    | (t, .leaf l) =>
      let pas := c.unitAddrs l (runBytes rs)
      let sp := spanOfLanes 1 pas
      let bytes := 4 * sp.count
      if t.stale l sp.base then t.dropXlat c.core (fun x => x.leaf == l)
      else if store && l.m then failUnit k c 0x107 0x068 true t
      else if t.onHold sp.base || (!store && t.aheadOf c sp) then t
      else if t.homeBusy (dieOfCore c.core) store sp.base bytes (.copy k) then t.prompt store sp.base bytes
      else
        let push (data : List Byte) (z : State) : State :=
          (crossCount c sp 0x13 z).modCopy k (fun x => { x with sent := o + n, flight := x.flight ++ [{ off := o, n := n, more := rs.drop 1, va := a, leaf := l, span := sp, data := data }] })
        if store then
          let u := push (t.bufferRead c (runBytes rs)) t
          { u with owners := u.owners ++ [{ span := sp, agent := .copy k }] }
        else
          match pas.findSome? (fun pa => (t.homeCause pa 1).map (fun x => (x, pa))) with
          | some (x, pa) => failUnit k c 0x106 x false (t.recordHome c.core 8 x pa)
          | none => push (pas.map (t.byteAt l.key)) (crossCount c sp 0x14 t)
    | (t, _) => t

/-- OWNERSHIP_REQUEST (R203, R284): the copy of an entry sends its next unit; up to 32 are in flight. One whose tag is cancelled starts none
and stops (R298). -/
def execOwnershipRequest (g h : Nat) (s : State) : Host.Outcome State Fault Refusal :=
  match ((s.wg g).entry h).copy with
  | none => .next s
  | some k =>
    match s.copyOf k with
    | none => .next s
    | some c =>
      if !c.stop && s.tagCancelled (dieOfCore c.core) c.ltag then .next (stopCopy k s)
      else if c.stop || c.fail.isSome || Nat.ble c.bytes c.sent || Nat.ble 32 c.flight.length then .next s else .next (sendUnit k c s)

/-- Put bytes into the weight window: every byte that has been written is listed (R248). -/
def windowPut : List Host.Cell → Nat → Byte → List Host.Cell
  | [], a, b => [(a, b)]
  | (k, c) :: rest, a, b =>
    if k == a then (k, b) :: rest else if Nat.blt a k then (a, b) :: (k, c) :: rest else (k, c) :: windowPut rest a b

/-- A byte of the weight window: free where nothing has been written. -/
def Seq.windowByte (q : Seq) (a : Nat) : Byte :=
  match q.window.find? (fun c => c.1 == a) with
  | some c => c.2
  | none => Config.freeByte (q.wseed + a)

/-- The bytes of a unit reach one destination (R281, R289). -/
def deliver (c : Copy) (u : Unit) (g : Nat) (s : State) : State :=
  if c.win then
    s.modWg g (fun w => { w with seq := { w.seq with
      window := (List.range u.n).foldl (fun l j => windowPut l (c.winOff + u.off + j) (u.data.getD j 0)) w.seq.window } })
  else
    let base := ((s.wg g).entry c.h).addr
    foldState (List.range u.n) (fun j z => z.scratchWrite g (base + swizzle c.swz (u.off + j)) [u.data.getD j 0]) s

/-- ARRIVED and CDONE of an entry move on, and its workgroup reports the time (R284, R299); a byte that a resumed copy writes again is not
counted again. -/
def arrive (c : Copy) (u : Unit) (time : Nat) (p : Nat × Nat) (s : State) : State :=
  let n := u.runs.foldl (fun k r => k + (r.1 + r.2 - max r.1 c.again)) 0
  (s.modEntry p.1 p.2 (fun e => { e with arrived := e.arrived + n, cdone := max e.cdone time })).modWg p.1 (fun w =>
    { w with report := max w.report time })

/-- The writes of one unit are applied together at the home of its span, which is released with one C (R203, R204). -/
def State.storeUnit (s : State) (key : Nat) (sp : Span) (ws : List (Nat × List Byte)) : State × Nat :=
  let c := s.homeTime sp.base (4 * sp.count)
  ((s.homeStores key ws).1.stampWL sp c, c)

/-- A unit of a copy is written at its destination and released (R284); `k` is its place among those in flight. -/
def releaseUnit (n : Nat) (c : Copy) (k : Nat) (u : Unit) (s : State) : State :=
  let d := dieOfCore c.core
  let after (t : State) : State :=
    let t1 := settleDrains n (t.modCopy n (fun x => { x with flight := x.flight.eraseIdx k }))
    if c.stop && Nat.ble c.flight.length 1 then endCopy n t1 else foldState (c.attached.map Prod.fst) tryRetire t1
  let released (t : State) : State := { t with owners := t.owners.filter (fun o => !(o.agent == .copy n && o.span == u.span)) }
  if c.kind == 2 then
    match s.wholeCause u.span.base with
    | some x => after (arrive c u (s.failTime u.span.base d) (c.wg, c.h) (released (s.recordHome c.core 8 x u.span.base)))
    | none =>
      if s.homeBusy d true u.span.base (4 * u.span.count) (.copy n) then s.prompt true u.span.base (4 * u.span.count)
      else
        let w := s.storeUnit u.leaf.key u.span (c.unitWrites u)
        after (arrive c u w.2 (c.wg, c.h) (released (crossCount c u.span 0x14 w.1)))
  else
    let t := foldState (c.receivers u.off) (fun p z => arrive c u (z.nowCore (z.wg p.1).core) p (deliver c u p.1 z)) s
    let pending := c.dests.any (fun x => !x.accepted)
    after (t.modCopy n (fun x => if pending then { x with read := x.read ++ [(max u.off c.again, u.data.drop (c.again - u.off))] } else x))

/-- COPY_UNIT_RELEASE (R284): a unit is written at its destination and released. -/
def execCopyUnitRelease (g h k : Nat) (s : State) : Host.Outcome State Fault Refusal :=
  match ((s.wg g).entry h).copy with
  | none => .next s
  | some n =>
    match s.copyOf n with
    | none => .next s
    | some c =>
      match c.flight[k]? with
      | none => .next s
      | some u => .next (releaseUnit n c k u s)

/-- The copies that a cancellation has stopped and whose T_done has come (R345). -/
def State.drainDue (s : State) : List Nat :=
  idxsOf s.copies (fun c => c.live && c.stop && s.cancels.any (fun x => x.hits c.ltag && Nat.ble x.done (s.nowCore c.core)))

/-- A stopped copy is over: its units in flight are applied where their homes take them, or dropped, and its spans are released (R205, R279). -/
def drainCopy (n : Nat) (s : State) : State :=
  match s.copyOf n with
  | none => s
  | some c =>
    endCopy n (foldState c.flight (fun u z => match z.copyOf n with
      | some x => releaseUnit n x (firstIdx (fun v => v == u) x.flight) u z
      | none => z) s)

/-- COPY_UNIT_FAULT (R293): with every earlier unit released, FAULT rises and the record is written. -/
def execCopyUnitFault (g h : Nat) (s : State) : Host.Outcome State Fault Refusal :=
  match ((s.wg g).entry h).copy with
  | none => .next s
  | some k =>
    match s.copyOf k with
    | none => .next s
    | some c =>
      if c.faultDue && !c.stop then .next (foldState (c.attached.map Prod.fst) tryRetire (raiseCopy k s))
      else .next s

/-- HANDLE_FULL (R279). -/
def execHandleFull (g h : Nat) (s : State) : Host.Outcome State Fault Refusal :=
  if s.entryDone g h then .next (tryRetire g (fillEntry g h s)) else .next s

/-- MCAST_DELIVERY_ACCEPT (R288): the handle of the member of a rank accepts the delivery of an issuer's copy. -/
def execMcastDeliveryAccept (g h rank : Nat) (s : State) : Host.Outcome State Fault Refusal :=
  match ((s.wg g).entry h).copy with
  | none => .next s
  | some k => .next (acceptDelivery k rank s)

end Sys2Proof.Machine
end

