-- ==== Sys2Proof/Machine/Matrix.lean ====
section
/-! DEFINITION. The uniform sequencer and the matrix engine (R248 to R276): the frame of a matrix word, control and scalar words, tiles and
their operand words, the command queue and what the engine performs, MCOMMIT, and the warp words of majors 0x2B to 0x2D. -/

namespace Sys2Proof.Machine

/-! ## The frame of a matrix word (R46, R249, R251) -/

/-- What a matrix word does: g values to write at the group's end, a cause, or a wait. -/
inductive SOut where
  | done (ws : List (Nat × DWord))
  | trap (cause val : Nat)
  | wait (c : Cond)
  deriving DecidableEq, Repr

/-- Change a sequencer context. -/
def State.modSeq (s : State) (g : Nat) (f : Seq → Seq) : State := s.modWg g (fun w => { w with seq := f w.seq })

/-- The sequencer context of a workgroup. -/
def State.seq (s : State) (g : Nat) : Seq := (s.wg g).seq

/-- The end of a group: the held values are written in program order (R28). -/
def Seq.commit (q : Seq) : Seq := { q with g := q.held.foldl (fun g p => g.set p.1 p.2) q.g, held := [], n := 0 }

/-- Whether every word of a context has been performed, its MCOMMITs among them. -/
def State.seqDrained (s : State) (g : Nat) : Bool :=
  (s.seq g).cmds.isEmpty && (s.seq g).commits.isEmpty && !s.outstanding (.seq g)

/-- A cause met at issue (R251): it is precise, so the words before it are performed first. -/
def seqTrap (g cause val : Nat) (s : State) : State :=
  let q := s.seq g
  if s.seqDrained g then haltCtx (.seq g) cause q.pc val (s.modSeq g Seq.commit)
  else s.modSeq g (fun x => { x.commit with phase := .halted, lit := none, cons := none, fault := some { cause := cause, pc := q.pc, val := val } })

/-- A matrix word has issued: its values are held and the group closes at a set S bit, a closing word or the sixteenth word (R28, R249). -/
def Seq.finish (q : Seq) (closes : Bool) (ws : List (Nat × DWord)) : Seq :=
  let k := if q.lit.isSome then 3 else 1
  let p := { q with held := q.held ++ ws, n := q.n + k, pc := (q.pc + 4 * k) % 2 ^ 56, lit := none, cons := none, phase := .ready }
  if closes || Nat.ble 16 p.n then p.commit else p

/-- Issue a matrix word for the workgroup that acts: `act` is what it does once its group is written. A pre-emption takes the context at its
next group boundary (R273). -/
def seqWord (closes : Bool) (body : Nat → State → State × SOut) (act : Nat → State → State := fun _ s => s) (s : State) :
    Host.Outcome State Fault Refusal :=
  let g := s.who.wg
  let stop (t : State) : State := if (t.wg g).preq.isSome then stopSeq g t else t
  match body g s with
  | (t, .done ws) => .next (stop (act g (t.modSeq g (fun q => q.finish closes ws))))
  | (t, .trap c v) => .next (seqTrap g c v t)
  | (t, .wait c) => .next (stop (t.modSeq g (fun q => { q with phase := .retest c })))

/-- A g register. -/
def State.gval (s : State) (g : Nat) (r : BitVec 4) : DWord := (s.seq g).g.getD r.toNat 0

/-- The register of field [16:13], or the literal of MLIMM (R45, R252). -/
def State.gbval (s : State) (g : Nat) (r : BitVec 4) : DWord :=
  match (s.seq g).lit with
  | some l => l
  | none => s.gval g r

/-! ## Control and scalar words (R252, R253) -/

/-- MNOP. -/
def execMnop (w : S0) (s : State) : Host.Outcome State Fault Refusal := seqWord w.s (fun _ s => (s, .done [])) (s := s)

/-- A hint of the matrix stream. -/
def execMhint (w : Hint) (s : State) : Host.Outcome State Fault Refusal := seqWord w.s (fun _ s => (s, .done [])) (s := s)

/-- Open shadows are discarded (R253, R272). -/
def Tile.discard (t : Tile) : Tile := if t.shadow then { t with valid := false, shadow := false, dirty := false } else t

/-- MEND (R253): the context ends once every earlier word has been performed, and reports the largest completion time of its stores. -/
def execMend (_ : S0) (s : State) : Host.Outcome State Fault Refusal :=
  seqWord true (fun g s => if s.seqDrained g then (s, .done []) else (s, .wait .commandsDone))
    (fun g t => tryRetire g (t.modWg g (fun w =>
      { w with report := max w.report w.seq.report
               seq := { w.seq with phase := .ended, tiles := w.seq.tiles.map Tile.discard } }))) s

/-- Whether a branch condition holds (R252). -/
def mbrTaken (cond : BitVec 3) (x : DWord) : Bool :=
  match cond.toNat with
  | 0 => true
  | 1 => x == 0
  | 2 => x != 0
  | 3 => decide (x.toInt < 0)
  | 4 => decide (0 ≤ x.toInt)
  | _ => decide (0 < x.toInt)

/-- MBR (R252). A target outside the 56 bits of an address wraps within them (DESIGN CHOICE, log entry 53). -/
def execMbr (w : MbrF) (s : State) : Host.Outcome State Fault Refusal :=
  let g := s.who.wg
  let taken := mbrTaken w.n (s.gval g w.c)
  let target := ((((s.seq g).pc : Int) + 4 * w.o.toInt) % ((2 ^ 56 : Nat) : Int)).toNat
  seqWord true (fun _ s => (s, .done []))
    (fun g t => if taken then t.modSeq g (fun q => { q with pc := target }) else t) s

/-- A word of major 0x03: gD := f(gA, gB). -/
def mgWord (w : Mg3) (f : DWord → DWord → DWord) (s : State) : Host.Outcome State Fault Refusal :=
  seqWord w.s (fun g s => (s, .done [(w.d.toNat, f (s.gval g w.a) (s.gbval g w.b))])) (s := s)

/-- A truth value in a g register. -/
def truth (b : Bool) : DWord := if b then 1 else 0

/-- MADD. -/
def execMadd (w : Mg3) (s : State) : Host.Outcome State Fault Refusal := mgWord w (fun a b => a + b) s
/-- MSUB. -/
def execMsub (w : Mg3) (s : State) : Host.Outcome State Fault Refusal := mgWord w (fun a b => a - b) s
/-- MMUL. -/
def execMmul (w : Mg3) (s : State) : Host.Outcome State Fault Refusal := mgWord w (fun a b => a * b) s
/-- MAND. -/
def execMand (w : Mg3) (s : State) : Host.Outcome State Fault Refusal := mgWord w (fun a b => a &&& b) s
/-- MOR. -/
def execMor (w : Mg3) (s : State) : Host.Outcome State Fault Refusal := mgWord w (fun a b => a ||| b) s
/-- MXOR. -/
def execMxor (w : Mg3) (s : State) : Host.Outcome State Fault Refusal := mgWord w (fun a b => a ^^^ b) s
/-- MSHL: 0 from 64 on. -/
def execMshl (w : Mg3) (s : State) : Host.Outcome State Fault Refusal :=
  mgWord w (fun a b => if Nat.ble 64 b.toNat then 0 else a <<< b.toNat) s
/-- MSHR: 0 from 64 on. -/
def execMshr (w : Mg3) (s : State) : Host.Outcome State Fault Refusal :=
  mgWord w (fun a b => if Nat.ble 64 b.toNat then 0 else a >>> b.toNat) s
/-- MSRA: sign copies from 64 on. -/
def execMsra (w : Mg3) (s : State) : Host.Outcome State Fault Refusal := mgWord w (fun a b => a.sshiftRight (min b.toNat 63)) s
/-- MMINU. -/
def execMminu (w : Mg3) (s : State) : Host.Outcome State Fault Refusal := mgWord w (fun a b => if a.ult b then a else b) s
/-- MMAXU. -/
def execMmaxu (w : Mg3) (s : State) : Host.Outcome State Fault Refusal := mgWord w (fun a b => if a.ult b then b else a) s
/-- MSEQ. -/
def execMseq (w : Mg3) (s : State) : Host.Outcome State Fault Refusal := mgWord w (fun a b => truth (a == b)) s
/-- MSLTU. -/
def execMsltu (w : Mg3) (s : State) : Host.Outcome State Fault Refusal := mgWord w (fun a b => truth (a.ult b)) s
/-- MSLTS. -/
def execMslts (w : Mg3) (s : State) : Host.Outcome State Fault Refusal := mgWord w (fun a b => truth (a.slt b)) s

/-- MMOV. -/
def execMmov (w : Mg2) (s : State) : Host.Outcome State Fault Refusal :=
  seqWord w.s (fun g s => (s, .done [(w.d.toNat, s.gval g w.a)])) (s := s)

/-- MADDI. -/
def execMaddi (w : MiF) (s : State) : Host.Outcome State Fault Refusal :=
  seqWord w.s (fun g s => (s, .done [(w.d.toNat, s.gval g w.a + w.i.signExtend 64)])) (s := s)

/-- MLDG (R252): 8 bytes of the constant window. A translation that fails is this engine's to raise (R246, DEDUCED, log entry 57); what a home cannot
give reads as the pattern of R33, since a g register holds no poison (R249). -/
def execMldg (w : MiF) (s : State) : Host.Outcome State Fault Refusal :=
  seqWord w.s (fun g s =>
    let x := s.wg g
    let off := ((s.gval g w.a).setWidth 32 + w.i.signExtend 32).toNat
    if off % 8 != 0 || Nat.blt x.cwsize (off + 8) then (s, .trap 0x0E9 off)
    else
      let va := x.cwin + off
      match s.vaRead g va 8 x.prv (.seq g) 7 with
      | (t, .ok bs) => (t, .done [(w.d.toNat, BitVec.ofNat 64 (natOfBytes bs))])
      | (t, .bad c) => (t, if Nat.ble 0x0A0 c then .trap 0x0EA va else .done [(w.d.toNat, poisonPattern ++ poisonPattern)])
      | (t, .later) => (t, .wait t.memWait)) (s := s)

/-- MLIMM (R252): the literal waits for the consumer, whose word is fetched now and kept. -/
def execMlimm (lit : Word) (s : State) : Host.Outcome State Fault Refusal :=
  let g := s.who.wg
  let a := ((s.seq g).pc + 8) % 2 ^ 56
  match s.fetchWord g a (s.wg g).prv 7 with
  | (t, .ok w) =>
    if mlimmConsumer w then .next (t.modSeq g (fun q => { q with lit := some (lit.signExtend 64), cons := some w })) else .next (seqTrap g 0x0E1 0x7E000000 t)
  | (t, .bad _) => .next (seqTrap g 0x0EA a t)
  | (t, .later) => .next (t.modSeq g (fun q => { q with phase := .retest t.memWait }))

/-- A reserved encoding of the matrix stream (R46). -/
def execMatrixReservedEncoding (w : Word) (s : State) : Host.Outcome State Fault Refusal := .next (seqTrap s.who.wg 0x0E1 w.toNat s)

/-! ## Barriers and handles (R267, R268) -/

/-- A context arrives at a numbered barrier (R114, R115, R120). -/
def ctxArrive (p : Party) (g b : Nat) (d : Option Nat) (s : State) : State :=
  if (s.ctxArr p).getLsbD b then s.setCtxPhase p (.barAgain b d) else settleBar g b (arriveCtx g b p d s)

/-- A context waits on a token. -/
def ctxWait (p : Party) (g b : Nat) (tok : Bool) (s : State) : State :=
  if ((s.wg g).bar b).par != tok then s else s.setCtxPhase p (.barrier b tok)

/-- The cause a context's barrier word meets (R120): no such barrier, or an arrival in tracking mode. -/
def State.ctxBarCause (s : State) (g b : Nat) (arrives : Bool) : Option Nat :=
  if b == 0 || Nat.ble (s.wg g).bars.length b then some 0x021
  else if arrives && ((s.wg g).bar b).trk then some 0x022
  else none

/-- Whether a command reads scratchpad for a slot or the window. -/
def Cmd.isMld (c : Cmd) : Bool :=
  match c.op with
  | .mldA _ _ _ | .mldB => true
  | _ => false

/-- Whether a command reads scratchpad or the window. -/
def Cmd.reads (c : Cmd) : Bool :=
  match c.op with
  | .mldA _ _ _ | .mldB | .mma _ _ _ _ _ => true
  | _ => false

/-- A barrier word of the sequencer: an arrival waits for the MLDs before it (R267). -/
def seqBarWord (b : Nat) (arrives : Bool) (act : Nat → State → State) (s : State) : Host.Outcome State Fault Refusal :=
  seqWord true (fun g s =>
    match s.ctxBarCause g b arrives with
    | some c => (s, .trap c 0)
    | none => if arrives && (s.seq g).cmds.any Cmd.isMld then (s, .wait .mldDone) else (s, .done [])) act s

/-- MARV. -/
def execMarv (w : MDB) (s : State) : Host.Outcome State Fault Refusal :=
  seqBarWord (w.b.toNat + 1) true (fun g t => ctxArrive (.seq g) g (w.b.toNat + 1) (some w.d.toNat) t) s

/-- MWAIT. -/
def execMwait (w : MAB) (s : State) : Host.Outcome State Fault Refusal :=
  let tok := (s.gval s.who.wg w.a).getLsbD 0
  seqBarWord (w.b.toNat + 1) false (fun g t => ctxWait (.seq g) g (w.b.toNat + 1) tok t) s

/-- MSYNC. -/
def execMsync (w : MB1) (s : State) : Host.Outcome State Fault Refusal :=
  seqBarWord (w.b.toNat + 1) true (fun g t => ctxArrive (.seq g) g (w.b.toNat + 1) none t) s

/-- A handle operation as a matrix word does it. -/
def HRes.sout (r : HRes) (s : State) : State × SOut :=
  match r with
  | .ok t _ => (t, .done [])
  | .trap c v => (s, .trap c v)
  | .wait c => (s, .wait c)

/-- MHWAIT (R268). -/
def execMhwait (w : MA1) (s : State) : Host.Outcome State Fault Refusal :=
  seqWord true (fun g s => let v := s.gval g w.a; (hbWait g (v.toNat % 64) (v.getLsbD 6) s).sout s) (s := s)

/-- MHREL (R268): it waits until every earlier word that reads scratchpad or the window has been performed. -/
def execMhrel (w : MA1) (s : State) : Host.Outcome State Fault Refusal :=
  seqWord true (fun g s =>
    if (s.seq g).cmds.any Cmd.reads then (s, .wait .readsDone) else (hbRel g ((s.gval g w.a).toNat % 64) s).sout s) (s := s)

/-! ## Tiles at issue (R254, R271) -/

/-- The number of tiles a workgroup declared. -/
def State.tileCount (s : State) (g : Nat) : Nat := (s.wg g).tiles

/-- The status of a tile as the words issued so far leave it. -/
def Seq.at (q : Seq) (t : Nat) : TileIssue := q.issue.getD t {}

/-- The open shadows at issue. -/
def Seq.openShadows (q : Seq) : List Nat := (List.range 16).filter (fun t => (q.at t).shadow)

/-- Whether a tile is the target of an open shadow at issue. -/
def Seq.isTarget (q : Seq) (t : Nat) : Bool := q.openShadows.any (fun u => (q.at u).target == t)

/-- Change the status of a tile at issue. -/
def Seq.setAt (q : Seq) (t : Nat) (f : TileIssue → TileIssue) : Seq := { q with issue := q.issue.modify t f }

/-- Send a word to the engine: a full command queue parks the context (R249). -/
def pushCmd (g : Nat) (c : Cmd) (f : Seq → Seq) (s : State) : State × SOut :=
  if Nat.ble 16 (s.seq g).cmds.length then (s, .wait .commandRoom)
  else (s.modSeq g (fun q => { f q with cmds := q.cmds ++ [{ c with pc := q.pc }] }), .done [])

/-- A word of the MT layout, as the replay list keeps it (R256, R398). -/
def mtWord (s : Bool) (major f21 f17 f13 f8 f3 f0 : Nat) : Word :=
  BitVec.ofNat 32 (s.toNat * 2 ^ 31 + major * 2 ^ 25 + f21 * 2 ^ 21 + f17 * 2 ^ 17 + f13 * 2 ^ 13 + f8 * 2 ^ 8 + f3 * 2 ^ 3 + f0)

/-- A word that names tile t: 0x0E4 at or above the declared count. -/
def withTile (g t : Nat) (s : State) (k : State × SOut) : State × SOut := if Nat.ble (s.tileCount g) t then (s, .trap 0x0E4 t) else k

/-- MLD.A (R257). -/
def execMldA (w : MldaF) (s : State) : Host.Outcome State Fault Refusal :=
  seqWord w.s (fun g s =>
    let fa := w.f.toNat
    let off := (s.gval g w.a).toNat % 2 ^ 32
    let stride := (s.gbval g w.b).toNat % 2 ^ 32
    match fmtClass fa with
    | none => (s, .trap 0x0E2 fa)
    | some cls =>
      let kp := kDense cls * (1 + w.x.toNat)
      let rec_ := panelRecord fa kp
      if fmtOnlyB fa then (s, .trap 0x0E2 fa)
      else if off % 4 != 0 || stride % 4 != 0 || Nat.blt stride rec_ || Nat.blt (s.wg g).scratchSize (off + 63 * stride + rec_) then
        (s, .trap 0x0E7 off)
      else
        pushCmd g
          { word := mtWord w.s 8 (w.x.toNat * 4 + w.k.toNat) w.a.toNat w.b.toNat 0 fa 0, op := .mldA w.k.toNat w.x fa
            a := s.gval g w.a, b := s.gbval g w.b, pc := 0 }
          (fun q => { q with islots := q.islots.set w.k.toNat (some (fa, w.x)) }) s) (s := s)

/-- MLD.B (R258). -/
def execMldB (w : Mab) (s : State) : Host.Outcome State Fault Refusal :=
  seqWord w.s (fun g s =>
    let a := s.gval g w.a
    let b := s.gbval g w.b
    let off := a.toNat % 2 ^ 32
    let n := if a.toNat / 2 ^ 32 % 2 ^ 16 == 0 then 65536 else a.toNat / 2 ^ 32 % 2 ^ 16
    let win := b.toNat % 2 ^ 16
    if off % 16 != 0 || n % 16 != 0 || Nat.blt (s.wg g).scratchSize (off + n) then (s, .trap 0x0E7 off)
    else if win % 16 != 0 || Nat.blt 65536 (win + n) then (s, .trap 0x0E8 b.toNat)
    else pushCmd g { word := mtWord w.s 9 0 w.a.toNat w.b.toNat 0 0 0, op := .mldB, a := a, b := b, pc := 0 } id s) (s := s)

/-- The tiles of a set. -/
def tilesIn (m : Nat) : List Nat := (List.range 16).filter (fun t => m.testBit t)

/-- The tiles that a command writes or makes invalid, given the target of each shadow when its turn comes (R250, R271). -/
def Cmd.writes (c : Cmd) (target : Nat → Nat) (t : Nat) : Bool :=
  match c.op with
  | .mma x _ _ _ _ | .mclr x _ | .mspec x _ _ => x == t
  | .mpush x k => k && x == t
  | .mst x _ _ _ k => k && x == t
  | .mresolve => c.a.toNat.testBit t || (c.b != 0 && (tilesIn c.a.toNat).any (fun u => target u == t))
  | _ => false

/-- The target that a shadow has once some commands have been performed: that of the last MSPEC which opens it, or what it has by now. -/
def Seq.targetAfter (q : Seq) (cs : List Cmd) (u : Nat) : Nat :=
  cs.foldl (fun t c => match c.op with
    | .mspec x y _ => if x == u then y else t
    | _ => t) (q.tiles.getD u {}).target

/-- INFL (R250): a word that writes the tile is issued and not performed. -/
def Seq.infl (q : Seq) (t : Nat) : Bool :=
  (List.range q.cmds.length).any (fun k => (q.cmds[k]?).any (fun c => c.writes (q.targetAfter (q.cmds.take k)) t))

/-- The status word of a tile with given VALID, KIND, SHADOW and TARGET (R254). -/
def Seq.statusWith (q : Seq) (t : Nat) (valid kind shadow : Bool) (target : Nat) : Nat :=
  let x := q.tiles.getD t {}
  (if shadow then target * 2 ^ 12 else 0) + kind.toNat * 32 + shadow.toNat * 16 + x.ovf.toNat * 8 + (q.infl t).toNat * 4 + x.dirty.toNat * 2 +
    valid.toNat

/-- The status word of a tile (R254). -/
def Seq.status (q : Seq) (t : Nat) : Nat := let x := q.tiles.getD t {}; q.statusWith t x.valid x.kind x.shadow x.target

/-- The status word of a tile as the checks at issue see it (R254, R276). -/
def Seq.issueStatus (q : Seq) (t : Nat) : Nat := let x := q.at t; q.statusWith t x.valid x.kind x.shadow x.target

/-- MMA (R260). -/
def execMma (w : MmaF) (s : State) : Host.Outcome State Fault Refusal :=
  seqWord w.s (fun g s =>
    let q := s.seq g
    let t := w.t.toNat
    let fa := w.f.toNat
    let fb := w.g.toNat
    let b := s.gbval g w.b
    let off := b.toNat % 2 ^ 16
    let int := intFormat fa && intFormat fb
    let st := q.at t
    withTile g t s (
      match mmaShape fa fb, (q.islots.getD w.k.toNat none) with
      | some (_, k), some (pf, d) =>
        if pf != fa || Nat.blt (kDense ((fmtClass fa).getD 0) * (1 + d.toNat)) k then (s, .trap 0x0E2 (fa + fb * 32))
        else if off % 16 != 0 || Nat.blt 65536 (off + 64 * columnRecord fb k) then (s, .trap 0x0E8 b.toNat)
        else if st.valid && !w.z && st.kind != int then
          (s, .trap 0x0E5 (q.issueStatus t))
        else if q.isTarget t then (s, .trap 0x0E6 t)
        else
          pushCmd g { word := mtWord w.s 10 t w.k.toNat w.b.toNat fb fa w.z.toNat, op := .mma t w.k.toNat fa fb w.z, b := b, pc := 0 }
            (fun q => q.setAt t (fun x => { x with valid := true, kind := if w.z || !x.valid then int else x.kind })) s
      | _, _ => (s, .trap 0x0E2 (fa + fb * 32)))) (s := s)

/-- The body of MCLR and MCLR.I (R255). -/
def mclrBody (w : MT1) (int : Bool) (g : Nat) (s : State) : State × SOut :=
  let t := w.t.toNat
  withTile g t s (
    if (s.seq g).isTarget t then (s, .trap 0x0E6 t)
    else
      pushCmd g { word := mtWord w.s 11 t 0 0 0 0 int.toNat, op := .mclr t int, pc := 0 }
        (fun q => q.setAt t (fun x => { x with valid := true, kind := int })) s)

/-- MCLR. -/
def execMclr (w : MT1) (s : State) : Host.Outcome State Fault Refusal := seqWord w.s (mclrBody w false) (s := s)

/-- MCLR.I. -/
def execMclrI (w : MT1) (s : State) : Host.Outcome State Fault Refusal := seqWord w.s (mclrBody w true) (s := s)

/-- Whether a command names a tile (R255). -/
def Cmd.names (c : Cmd) (t : Nat) : Bool :=
  match c.op with
  | .mma x _ _ _ _ | .mclr x _ | .mpush x _ | .mst x _ _ _ _ | .mcommit x => x == t
  | .mspec u x _ => u == t || x == t
  | .mresolve => c.a.toNat.testBit t
  | _ => false

/-- Whether every earlier word naming a tile has been performed, MCOMMITs among them. -/
def State.tileQuiet (s : State) (g t : Nat) : Bool :=
  !(s.seq g).cmds.any (fun c => c.names t) && !(s.seq g).commits.any (fun c => c.tile == t) && !s.outstanding (.seq g)

/-- MSTAT (R255). -/
def execMstat (w : MstatF) (s : State) : Host.Outcome State Fault Refusal :=
  seqWord true (fun g s =>
    let t := w.t.toNat
    withTile g t s (
      if s.tileQuiet g t then (s, .done [(w.d.toNat, BitVec.ofNat 64 ((s.seq g).status t))]) else (s, .wait (.tileDone t)))) (s := s)

/-- MPUSH (R263). -/
def execMpush (w : MpushF) (s : State) : Host.Outcome State Fault Refusal :=
  seqWord w.s (fun g s =>
    let q := s.seq g
    let t := w.t.toNat
    let a := s.gval g w.a
    let f := a.toNat % 64
    let n := a.toNat / 256 % 128
    withTile g t s (
      if (q.at t).shadow || (w.c && q.isTarget t) then (s, .trap 0x0E6 t)
      else if n == 0 || Nat.blt 64 n || Nat.blt 64 (f + n) then (s, .trap 0x0E8 a.toNat)
      else
        let whole := w.c && f == 0 && n == 64
        pushCmd g { word := mtWord w.s 12 t w.a.toNat w.b.toNat 0 0 w.c.toNat, op := .mpush t w.c, a := a, b := s.gbval g w.b, pc := 0 }
          (fun q => if whole then q.setAt t (fun x => { x with valid := false }) else q) s)) (s := s)

/-- MST (R265). -/
def execMst (w : MstF) (s : State) : Host.Outcome State Fault Refusal :=
  seqWord w.s (fun g s =>
    let q := s.seq g
    let t := w.t.toNat
    let a := s.gval g w.a
    let b := s.gbval g w.b
    let fd := w.f.toNat
    withTile g t s (
      if (q.at t).shadow || (w.c && q.isTarget t) then (s, .trap 0x0E6 t)
      else if (storeBits (q.at t).kind fd).isNone then (s, .trap 0x0E2 (fd * 2 ^ 10))
      else if a.toNat % 4 != 0 || b.toNat % 4 != 0 || Nat.ble (2 ^ 56) a.toNat then (s, .trap 0x0EA a.toNat)
      else
        pushCmd g
          { word := mtWord w.s 13 t w.a.toNat w.b.toNat (w.r.toNat * 4 + w.x.toNat * 2) fd w.c.toNat
            op := .mst t fd w.r.toNat w.x w.c, a := a, b := b, pc := 0 }
          (fun q => if w.c then q.setAt t (fun x => { x with valid := false }) else q) s)) (s := s)

/-- MSPEC (R271). -/
def execMspec (w : MspecF) (s : State) : Host.Outcome State Fault Refusal :=
  seqWord w.s (fun g s =>
    let q := s.seq g
    let u := w.u.toNat
    let t := w.t.toNat
    withTile g u s (withTile g t s (
      if Nat.ble 4 q.openShadows.length || u == t || (q.at u).shadow || q.isTarget u then (s, .trap 0x0E6 u)
      else if (q.at t).shadow || q.isTarget t then (s, .trap 0x0E6 t)
      else
        pushCmd g { word := mtWord w.s 14 u t 0 0 0 w.z.toNat, op := .mspec u t w.z, pc := 0 }
          (fun q => q.setAt u (fun x =>
            { x with valid := true, shadow := true, target := t, kind := (q.at t).valid && (q.at t).kind })) s))) (s := s)

/-- What MRESOLVE does to the status at issue (R272). -/
def Seq.resolveAt (q : Seq) (set : Nat) (commit : Bool) : Seq :=
  (tilesIn set).foldl (fun q u =>
    let x := q.at u
    let q1 := if commit then q.setAt x.target (fun y => { y with valid := true, kind := x.kind }) else q
    q1.setAt u (fun y => { y with valid := false, shadow := false })) q

/-- MRESOLVE with its condition (R272). -/
def resolveBody (word : Word) (d : BitVec 4) (set : Nat) (cond : DWord) (f : Seq → Seq) (g : Nat) (s : State) : State × SOut :=
  match (tilesIn set).find? (fun u => Nat.ble (s.tileCount g) u || !((s.seq g).at u).shadow) with
  | some u => (s, .trap 0x0E6 u)
  | none =>
    match pushCmd g { word := word, op := .mresolve, a := BitVec.ofNat 64 set, b := cond, pc := 0 }
        (fun q => (f q).resolveAt set (cond != 0)) s with
    | (t, .done _) => (t, .done [(d.toNat, cond)])
    | r => r

/-- MRESOLVE. -/
def execMresolve (w : Mg3) (s : State) : Host.Outcome State Fault Refusal :=
  seqWord true (fun g s =>
    resolveBody (mtWord w.s 15 w.d.toNat w.a.toNat w.b.toNat 0 0 0) w.d ((s.gval g w.a).toNat % 65536) (s.gval g w.b) id g s) (s := s)

/-- MRESOLVE.SIG: the condition is a signal slot's value, and the slot is cleared. -/
def execMresolveSig (w : MresSigF) (s : State) : Host.Outcome State Fault Refusal :=
  seqWord true (fun g s =>
    let k := w.k.toNat
    match (s.seq g).sig.getD k none with
    | none =>
      match (tilesIn ((s.gval g w.a).toNat % 65536)).find? (fun u => Nat.ble (s.tileCount g) u || !((s.seq g).at u).shadow) with
      | some u => (s, .trap 0x0E6 u)
      | none => (s, .wait (.signalValid k))
    | some v =>
      resolveBody (mtWord w.s 15 w.d.toNat w.a.toNat k 0 0 1) w.d ((s.gval g w.a).toNat % 65536) (v.setWidth 64)
        (fun q => { q with sig := q.sig.set k none }) g s) (s := s)

/-- MCOMMIT (R266): the counter's address is translated at issue. -/
def execMcommit (w : McommitF) (s : State) : Host.Outcome State Fault Refusal :=
  seqWord w.s (fun g s =>
    let x := s.wg g
    let t := w.t.toNat
    let a := s.gval g w.a
    let va := a.toNat
    withTile g t s (
      if ((s.seq g).at t).shadow then (s, .trap 0x0E6 t)
      else if va % 4 != 0 || Nat.ble (2 ^ 56) va then (s, .trap 0x0EA va)
      else
        match s.translate x.core x.troot x.trgen va .store x.prv with
        | (u, .leaf l) =>
          if l.m then (u, .trap 0x0EA va)
          else pushCmd g { word := mtWord w.s 16 t w.a.toNat 0 0 0 0, op := .mcommit t, a := a, leaf := l, pc := 0 } id u
        | (u, .fault c) => (u.logXlat x.core 7 c va, .trap 0x0EA va)
        | (u, _) => (u, .wait u.memWait))) (s := s)

/-! ## What the engine performs (R250, R257 to R272) -/

/-- Row i of a tile: 64 words; an invalid tile reads as zero (R254). -/
def Tile.row (t : Tile) (i : Nat) : List Word :=
  (List.range 64).map (fun j => if t.valid then (t.rows.getD i []).getD j 0 else 0)

/-- A tile of the context. -/
def Seq.tile (q : Seq) (t : Nat) : Tile := q.tiles.getD t {}

/-- Change a tile. -/
def Seq.setTile (q : Seq) (t : Nat) (f : Tile → Tile) : Seq := { q with tiles := q.tiles.modify t f }

/-- The bytes of the window from an offset. -/
def Seq.windowRead (q : Seq) (a n : Nat) : List Byte := (List.range n).map (fun i => q.windowByte (a + i))

/-- The first index nibble of an image that is out of order, as a window offset (R261). -/
def Seq.badIndex (q : Seq) (fb k off : Nat) : Option Nat :=
  let n := columnRecord fb k
  (List.range 64).findSome? (fun j => (badNibble fb k (q.windowRead (off + j * n) n)).map (fun p => off + j * n + p))

/-- MMA on a tile (R261): the new rows, and whether an integer group overflowed. -/
def Seq.mmaRows (q : Seq) (t : Tile) (p : Panel) (fa fb cls k off : Nat) (int : Bool) : List (List Word) × Bool :=
  let n := columnRecord fb k
  let kp := kDense ((fmtClass fa).getD 0) * (1 + p.d.toNat)
  let cols := (List.range 64).map (fun j => columnValues fb k (q.windowRead (off + j * n) n))
  let rows := (List.range 64).map (fun i =>
    let a := panelValues fa kp k (p.rows.getD i [])
    let old := t.row i
    (List.range 64).map (fun j =>
      if int then accumInt (groupSize cls) (old.getD j 0) a (cols.getD j [])
      else (accumFloat (groupSize cls) (old.getD j 0) a (cols.getD j []), false)))
  (rows.map (fun r => r.map Prod.fst), rows.any (fun r => r.any Prod.snd))

/-- What a command of the engine comes to: performed, a row of it done, a cause it detects, or a wait. -/
inductive Perf where
  | fin (s : State)
  | row (s : State)
  | trap (cause val : Nat) (s : State)
  | later (s : State)
  deriving DecidableEq, Repr

/-- MMA performed. -/
def performMma (g : Nat) (c : Cmd) (t slot fa fb : Nat) (z : Bool) (s : State) : Perf :=
  let q := s.seq g
  let off := c.b.toNat % 2 ^ 16
  match mmaShape fa fb, q.slots.getD slot none with
  | some (cls, k), some p =>
    match q.badIndex fb k off with
    | some v => .trap 0x0E3 v s
    | none =>
      let int := intFormat fa && intFormat fb
      let old := q.tile t
      let clear := z || !old.valid
      let base : Tile := if clear then { old with rows := [], kind := int, ovf := false, valid := true } else old
      let r := q.mmaRows base p fa fb cls k off int
      .fin (pmCount (dieOfCore (s.wg g).core) 0x04 0 1
        (s.modSeq g (fun q => q.setTile t (fun _ => { base with rows := r.1, ovf := base.ovf || r.2, dirty := true }))))
  | _, _ => .fin s

/-- One row of MST (R265): it is written where every part of it may be; a row that straddles a block is two spans. -/
def performStore (g : Nat) (c : Cmd) (t fd rm : Nat) (sat clear : Bool) (s : State) : Perf :=
  let w := s.wg g
  let q := w.seq
  let x := q.tile t
  let bits := (storeBits x.kind fd).getD 32
  let bs := storeRow x.kind fd bits (RM.ofCode rm) sat (x.row c.row)
  let va := c.a.toNat + c.row * (c.b.toNat % 2 ^ 32)
  let n1 := min bs.length (256 - va % 256)
  let parts := [(va, bs.take n1)] ++ (if Nat.blt n1 bs.length then [(va + n1, bs.drop n1)] else [])
  let d := dieOfCore w.core
  let look := parts.foldl (fun (p : State × List (Nat × Leaf × List Byte) × Option (Nat × Nat) × Bool) v =>
    if p.2.2.1.isSome || p.2.2.2 then p
    else if Nat.ble (2 ^ 56) v.1 then (p.1, p.2.1, some (0x061, v.1), false)
    else
      match p.1.translate w.core w.troot w.trgen v.1 .store w.prv with
      | (u, .fault k) => (u, p.2.1, some (k, v.1), false)
      | (u, .leaf l) =>
        if u.stale l (l.at v.1) then (u.dropXlat w.core (fun y => y.leaf == l), p.2.1, none, true)
        else if l.m then (u, p.2.1, some (0x068, v.1), false)
        else if (u.wholeCause (l.at v.1)).isNone && (u.onHold (l.at v.1) || u.homeBusy d true (l.at v.1) v.2.length (.seq g)) then
          (u.prompt true (l.at v.1) v.2.length, p.2.1, none, true)
        else (u, p.2.1 ++ [(l.at v.1, l, v.2)], none, false)
      | (u, _) => (u, p.2.1, none, true)) (s, [], none, false)
  match look.2.2.1 with
  | some (k, a) => .trap 0x0EA a (if Nat.ble 0x0A0 k then look.1.logXlat w.core 7 k a else look.1)
  | none =>
    if look.2.2.2 then .later look.1
    else
      let done := look.2.1.foldl (fun (p : State × Nat) v =>
        match p.1.wholeCause v.1 with
        | some k => (p.1.recordHome w.core 7 k v.1, max p.2 (p.1.failTime v.1 d))
        | none =>
          let r := p.1.homeStore v.2.1.key v.1 v.2.2
          (r.1, max p.2 r.2)) (look.1, 0)
      let u := done.1.modSeq g (fun q =>
        { q.setTile t (fun y => { y with ctime := max y.ctime done.2 }) with report := max q.report done.2 })
      if c.row == 63 then
        .fin (u.modSeq g (fun q => q.setTile t (fun y => { y with dirty := false, valid := y.valid && !clear })))
      else .row u

/-- One row of MPUSH (R263). -/
def performPush (g : Nat) (c : Cmd) (t : Nat) (clear : Bool) (s : State) : Perf :=
  let q := s.seq g
  let f := c.a.toNat % 64
  let n := c.a.toNat / 256 % 128
  if Nat.ble 64 q.queue.length then .later s
  else
    let i := f + c.row
    let tag := BitVec.ofNat 32 (c.b.toNat % 2 ^ 16 * 2 ^ 16 + t * 2 ^ 12 + i)
    let u := s.modSeq g (fun q => { q with queue := q.queue ++ [{ tag := tag, words := (q.tile t).row i, time := q.report }] })
    if c.row + 1 == n then
      .fin (if n == 64 then u.modSeq g (fun q => q.setTile t (fun y => { y with dirty := false, valid := y.valid && !clear })) else u)
    else .row u

/-- MSPEC performed (R271). -/
def performSpec (g u t : Nat) (z : Bool) (s : State) : Perf :=
  .fin (s.modSeq g (fun q =>
    let x := q.tile t
    q.setTile u (fun y =>
      { y with rows := if z || !x.valid then [] else x.rows, kind := x.valid && x.kind, ovf := !z && x.valid && x.ovf
               valid := true, shadow := true, target := t, dirty := false })))

/-- MRESOLVE performed (R272). -/
def performResolve (g : Nat) (c : Cmd) (s : State) : Perf :=
  .fin (s.modSeq g (fun q =>
    (tilesIn c.a.toNat).foldl (fun q u =>
      let x := q.tile u
      let q1 := if c.b != 0 then
          q.setTile x.target (fun y => { y with rows := x.rows, kind := x.kind, ovf := x.ovf, valid := true, dirty := true })
        else q
      q1.setTile u (fun y => { y with valid := false, shadow := false, dirty := false })) q))

/-- The head of a context's queue is performed, or one row of it. -/
def performCmd (g : Nat) (c : Cmd) (s : State) : Perf :=
  let w := s.wg g
  match c.op with
  | .mldA slot d fa =>
    let off := c.a.toNat % 2 ^ 32
    let stride := c.b.toNat % 2 ^ 32
    let n := panelRecord fa (kDense ((fmtClass fa).getD 0) * (1 + d.toNat))
    .fin (s.modSeq g (fun q => { q with slots := q.slots.set slot (some
      { fa := fa, d := d, rows := (List.range 64).map (fun r => w.scratchRead (off + r * stride) n) }) }))
  | .mldB =>
    let off := c.a.toNat % 2 ^ 32
    let n := if c.a.toNat / 2 ^ 32 % 2 ^ 16 == 0 then 65536 else c.a.toNat / 2 ^ 32 % 2 ^ 16
    let win := c.b.toNat % 2 ^ 16
    .fin (s.modSeq g (fun q => { q with
      window := (List.range n).foldl (fun l j => windowPut l (win + j) (cellGet w.scratch (off + j))) q.window }))
  | .mma t slot fa fb z => performMma g c t slot fa fb z s
  | .mclr t int =>
    .fin (s.modSeq g (fun q => q.setTile t (fun x => { x with rows := [], valid := true, kind := int, ovf := false, dirty := false })))
  | .mpush t k => performPush g c t k s
  | .mst t fd rm sat k => performStore g c t fd rm sat k s
  | .mspec u t z => performSpec g u t z s
  | .mresolve => performResolve g c s
  | .mcommit t =>
    if Nat.ble 16 (s.seq g).commits.length then .later s
    else
      .fin (s.modSeq g (fun q => { q with commits := q.commits ++
        [{ tile := t, va := c.a.toNat, pa := c.leaf.at c.a.toNat, leaf := c.leaf, time := (q.tile t).ctime }] }))

/-- A cause takes the context once every earlier word has been performed, a pending MCOMMIT among them (R251). -/
def settleFault (g : Nat) (s : State) : State :=
  let q := s.seq g
  match q.fault with
  | some h => if s.seqDrained g then haltCtx (.seq g) h.cause h.pc h.val (s.modSeq g (fun x => { x with fault := none })) else s
  | none => s

/-- MATRIX_COMMAND_PERFORM (R250): the engine performs the next word of a context, one row at a time for a store or a push. While a
pre-emption is pending only a word it has started goes on (R273), or the words before a cause that was met at issue (R251). -/
def execMatrixCommandPerform (g : Nat) (s : State) : Host.Outcome State Fault Refusal :=
  match (s.seq g).cmds with
  | [] => .next s
  | c :: rest =>
    if (s.wg g).phase != .running || ((s.wg g).preq.isSome && c.row == 0 && (s.seq g).fault.isNone) then .next s
    else
      match performCmd g c s with
      | .fin t => .next (settleFault g (t.modSeq g (fun q => { q with cmds := rest })))
      | .row t => .next (t.modSeq g (fun q => { q with cmds := { c with row := c.row + 1 } :: rest }))
      | .trap k v t =>
        .next (settleFault g (t.modSeq g (fun q =>
          { q.commit with cmds := [], lit := none, cons := none, phase := .halted, fault := some { cause := k, pc := c.pc, val := v } })))
      | .later t => .next t

/-- Send a dependence counter's decrement to its home (R266, R363). -/
def postDecrement (p : Party) (core va pa : Nat) (l : Leaf) (prv : Bool) (pc : Nat) (mr : Word) (root rgen : Nat) (s : State) : State × Nat :=
  let (id, t) := s.newId
  (t.post (.eng { id := id, party := p, core := core, die := homeDie pa, op := .depDec, vals := [pa, va], prv := prv, pc := pc, mr := mr
                  root := root, rgen := rgen, leaf := l, time := (t.die (dieOfCore core)).cycle }), id)

/-- TILE_RETIRE (R266): once Now has reached the largest completion time of the earlier stores of the tile, the counter is decremented at
its home. A context that has stopped for a pre-emption keeps its pending decrements (R273). -/
def execTileRetire (g i : Nat) (s : State) : Host.Outcome State Fault Refusal :=
  let w := s.wg g
  match w.seq.commits[i]? with
  | none => .next s
  | some c =>
    let kept := w.preq.any (fun p => p.written.isSome) || (match w.seq.phase with
      | .stopped _ _ _ => true
      | _ => false)
    if w.phase != .running || kept || Nat.blt (s.nowCore w.core) c.time then .next s
    else
      let t := s.modSeq g (fun q => { q with commits := q.commits.eraseIdx i })
      .next (postDecrement (.seq g) w.core c.va c.pa c.leaf w.prv w.seq.pc 7 w.troot w.trgen t).1

/-- A cancellation discards a sequencer context at once (R274). -/
def cancelSeq (g : Nat) (s : State) : State :=
  let t := s.modSeq g (fun q =>
    if q.phase == .idle then q
    else { q with phase := .ended, cmds := [], commits := [], queue := [], held := [], lit := none, fault := none
                  tiles := q.tiles.map Tile.discard })
  finishCancelled g t

/-! ## Warp words on the queue, tiles and signals (R264, R269, R270) -/

/-- QPOP (R264): the row is taken once Now has reached the time of the stores before it (R202). -/
def execQpop (w : QpopF) (s : State) : Host.Outcome State Fault Refusal :=
  let n := max 1 (64 / s.widthOf s.who.split)
  let d := w.d.toNat
  closingWord (withRegs ((List.range n).map (fun k => d + k)) (fun i s =>
    let g := s.wgIdxOf i
    let m := s.execMask i
    if d % n != 0 then (s, .trap 0x001 0)
    else if !(s.wg g).matrix then (s, .trap 0x0EB 0)
    else if m == 0 then (s, .done [])
    else
      match (s.seq g).queue with
      | [] => (s, .wait .rowReady)
      | r :: rest =>
        if Nat.blt (s.nowOf i) r.time then (s, .wait .rowReady)
        else
        let width := s.widthOf i
        let rows := (lanesIn width m).map (fun l => (l, (List.range n).map (fun k =>
          PWord.val (r.words.getD (if Nat.ble 64 width then l % 64 else l + width * k) 0))))
        (s.modSeq g (fun q => { q with queue := rest })
         , .done (loadHeld width d n rows ++ (if w.t then [.sset w.e.toNat (.val r.tag)] else [])))))
    (fun _ _ post => .ok post) s

/-- Write one element of a tile. -/
def Tile.put (t : Tile) (i j : Nat) (v : Word) : Tile :=
  { t with rows := (List.range 64).map (fun r => if r == i then (t.row r).set j v else t.row r) }

/-- Whether a warp's access to a tile is a misuse of shadows (R269): any access of an open shadow but a matrix word's, a write of its target. -/
def Seq.shadowed (q : Seq) (write : Bool) (t : Nat) : Bool :=
  (q.tile t).shadow || (write && q.tiles.any (fun u => u.shadow && u.target == t))

/-- MTRD performed: each lane's element; a lane without an index has a poisoned one (R269). -/
def tileLoad (width d t : Nat) (q : Seq) (lanes : List (Nat × List Nat)) : List Held :=
  let rows := lanes.map (fun l => (l.1, [match l.2 with
    | [] => PWord.poison
    | k :: _ => .val (((q.tile t).row (k / 64 % 64)).getD (k % 64) 0)]))
  if rows.isEmpty then [] else loadHeld width d 1 rows

/-- MTWR performed: the highest lane that names an element wins; an invalid tile is left alone (R269). -/
def tileStore (g t : Nat) (lanes : List (Nat × List Nat)) (s : State) : State :=
  let put (x : Tile) (l : Nat × List Nat) : Tile :=
    match l.2 with
    | [k, v] => x.put (k / 64 % 64) (k % 64) (BitVec.ofNat 32 v)
    | _ => x
  let named := lanes.filter (fun l => l.2 != [])
  s.modSeq g (fun q => q.setTile t (fun x => if x.valid && !named.isEmpty then { named.foldl put x with dirty := true } else x))

/-- An access of a split to a tile, performed while its INFL is clear (R269): a cause, or its results. `poisoned` is the lowest poisoned lane where
that traps. -/
def tileNow (i d t : Nat) (write : Bool) (poisoned : Option Nat) (lanes : List (Nat × List Nat)) (s : State) : State × Out :=
  let g := s.wgIdxOf i
  if (s.seq g).shadowed write t then (s, .trap 0x0E6 t)
  else
    match poisoned with
    | some l => (s, .trap 0x0EC l)
    | none =>
      if !write then (s, .done (tileLoad (s.widthOf i) d t (s.seq g) lanes))
      else
        let u := tileStore g t lanes s
        ((if lanes.any (fun l => l.2 != []) then u.joinL (.split i) (s.nowOf i) else u), .done [])

/-- MTRD and MTWR (R269): the word issues, and is performed at once or when the tile's INFL clears, which its group's end waits for. A write is
sent once the words before it have met their causes (R31). -/
def tileWord (w : MtrF) (write : Bool) (s : State) : Host.Outcome State Fault Refusal :=
  let t := w.t.toNat
  issueWord w.s (withRegs [w.d.toNat, w.a.toNat] (fun i s =>
    let u := s.warpOf i
    let srcs := if write then [w.d.toNat, w.a.toNat] else [w.a.toNat]
    let m := s.execMask i
    let ls := lanesIn (s.widthOf i) m
    let used := lastUses m [(w.x, w.a)]
    if !(s.wgOf i).matrix then (s, .trap 0x0EB 0)
    else if Nat.ble (s.tileCount (s.wgIdxOf i)) t then (s, .trap 0x0E4 t)
    else if write && s.unsettled i then (s, .wait .settled)
    else
      let poisoned := if mrPX (s.split i).mr then ls.find? (fun l => srcs.any (fun r => ((u.reg r).lane l).isPoison)) else none
      let lanes : List (Nat × List Nat) := ls.map (fun l => (l, match (u.reg w.a.toNat).lane l with
        | .poison => []
        | .val k => if write then [k.toNat, ((u.reg w.d.toNat).lane l).bits.toNat] else [k.toNat]))
      if (s.seq (s.wgIdxOf i)).infl t then
        let (id, v) := s.newId
        let x := s.split i
        (v.post (.eng { id := id, party := .split i, core := s.coreOf i, die := dieOfCore (s.coreOf i), op := if write then .tileWrite else .tileRead
                        d := w.d.toNat, vals := t :: poisoned.toList, lanes := lanes, pc := x.pc, mr := x.mr }),
         .done ([.mark x.pc] ++ used ++ [.await id]))
      else
        match tileNow i w.d.toNat t write poisoned lanes s with
        | (v, .done held) => (v, .done (used ++ held))
        | r => r)) s

/-- MTRD (R269). -/
def execMtrd (w : MtrF) (s : State) : Host.Outcome State Fault Refusal := tileWord w false s

/-- MTWR (R269). -/
def execMtwr (w : MtrF) (s : State) : Host.Outcome State Fault Refusal := tileWord w true s

/-- An access to a tile that has waited for INFL is performed (R269); that of a discarded split is not. -/
def performTile (r : EngReq) (s : State) : State :=
  let t := r.vals.headD 0
  let write := r.op == .tileWrite
  if !write && r.op != .tileRead then s
  else
    match r.party with
    | .split i =>
      if (s.seq (s.wgIdxOf i)).infl t then s
      else
        match tileNow i r.d t write r.vals[1]? r.lanes (s.dropReq r.id) with
        | (u, .done held) => u.fill i r.id held
        | (u, .trap c v) => wordTrap i r.pc r.mr c v u
        | (u, .wait _) => u
    | _ => s.dropReq r.id

/-- A word of major 0x2D: it needs the matrix role. -/
def withMatrix (body : Nat → State → State × Out) (i : Nat) (s : State) : State × Out :=
  if (s.wgOf i).matrix then body i s else (s, .trap 0x0EB 0)

/-- TILESTAT (R270). -/
def execTilestat (w : TilestatF) (s : State) : Host.Outcome State Fault Refusal :=
  issueWord w.s (withMatrix (fun i s =>
    let g := s.wgIdxOf i
    if Nat.ble (s.tileCount g) w.t.toNat then (s, .trap 0x0E4 w.t.toNat)
    else (s, .done (setScalar w.d ((s.seq g).status w.t.toNat))))) s

/-- MSIG (R270). -/
def execMsig (w : MsigF) (s : State) : Host.Outcome State Fault Refusal :=
  let k := w.k.toNat
  closingWord (withMatrix (fun i s =>
    let g := s.wgIdxOf i
    let v := s.ssrc i w.a
    if v.isPoison && mrPX (s.split i).mr then (s, .trap 0x0EC 0)
    else if ((s.seq g).sig.getD k none).isSome then (s, .wait (.signalFree k))
    else
      match s.fenceWait i 0 with
      | some c => (s, .wait c)
      | none => (s.modSeq g (fun q => { q with sig := q.sig.set k (some v.bits) }), .done [])))
    (fun _ _ post => .ok post) s

/-- MQCNT (R270). -/
def execMqcnt (w : SD) (s : State) : Host.Outcome State Fault Refusal :=
  issueWord w.s (withMatrix (fun i s => (s, .done (setScalar w.d (s.seq (s.wgIdxOf i)).queue.length)))) s

end Sys2Proof.Machine
end

