-- ==== Sys2Proof/Machine/Lineage.lean ====
section
/-! DEFINITION. The lineage engine and the mask generator (R320 to R359): trees, node records, the page pool, tags and their cancellation,
and the words of majors 0x32 to 0x34. Requests to an engine and their answers are written here for every engine. -/

namespace Sys2Proof.Machine

/-! ## Requests to an engine and their answers -/

/-- A request to an engine by its number. -/
def State.engReq (s : State) (id : Nat) : Option EngReq :=
  s.reqs.findSome? (fun q => match q with
    | .eng r => if r.id == id then some r else none
    | _ => none)

/-- Change a request. -/
def State.setEng (s : State) (r : EngReq) : State :=
  { s with reqs := s.reqs.map (fun q => match q with
    | .eng p => if p.id == r.id then .eng r else q
    | q => q) }

/-- The tree a handle names. -/
def treeOf (h : Nat) : Nat := h / 2 ^ 16 % 2 ^ 16

/-- The tree a request is for. -/
def EngReq.tree (r : EngReq) : Nat :=
  match r.lanes with
  | (_, h :: _) :: _ => treeOf h
  | _ => treeOf (r.vals.getD 0 0)

/-- What an operation is performed on: a tree, a deque, a die's priority queue, a counter; operations on different ones are in no order. -/
def EngReq.object (r : EngReq) : Nat × Nat :=
  match r.op with
  | .treeNew | .treeClone | .treeRel | .treeRd _ | .nodeFork | .nodePrune | .nodeCommit | .nodeRd _ | .nodePay | .kvSlot | .kvAppend | .maskgen _ =>
    (0, r.tree)
  | .tqPush | .tqPop | .tqSteal => (1, r.vals.getD 0 0)
  | .pqIns | .pqMin => (2, r.die)
  | .depDec | .taskEnd => (3, r.vals.getD 1 0)
  | _ => (4, r.id)

/-- Whether a request has been sent before another one of its die: in an earlier cycle, or in the same one before it in the order of core, warp id and
split-table index. -/
def EngReq.sentBefore (q r : EngReq) : Bool :=
  Nat.blt q.time r.time || (q.time == r.time && (Nat.blt q.rank r.rank || (q.rank == r.rank && Nat.blt q.id r.id)))

/-- Whether an earlier operation on the same object is still to be performed: one of the same split, discarded or not, which comes in program order
(R328), or one from the same other die, since flits of a virtual channel arrive in the order in which they were sent, over a new route as well
(R219, R221). -/
def State.opBehind (s : State) (r : EngReq) : Bool :=
  s.reqs.any (fun q => match q with
    | .eng q => q.reply.isNone && q.die == r.die && q.object == r.object && q.sentBefore r &&
        ((q.core == r.core && q.rank == r.rank) || (dieOfCore q.core == dieOfCore r.core && dieOfCore r.core != r.die))
    | _ => false)

/-- What every request of a split carries. -/
def State.engOf (s : State) (i : Nat) (op : EngOp) (die d : Nat) (vals : List Nat) (lanes : List (Nat × List Nat)) : EngReq :=
  let x := s.split i
  let g := s.wgOf i
  { id := 0, party := .split i, core := g.core, die := die, op := op, d := d, vals := vals, lanes := lanes, prv := x.prv, pc := x.pc, mr := x.mr
    root := g.troot, rgen := g.trgen, time := (s.die (dieOfCore g.core)).cycle, dom := g.ldom, rank := s.rankOf i, width := s.widthOf i }

/-- Send a request; its number. -/
def State.sendEng (s : State) (r : EngReq) : State × Nat :=
  let (id, t) := s.newId
  (t.post (.eng { r with id := id }), id)

/-- A cancellation reaches a workgroup (R133, R274, R317); one that has not started is discarded. -/
def cancelWork (g tc : Nat) (s : State) : State :=
  match (s.wg g).phase with
  | .running => if (s.wg g).creq.isSome then s else cancelSeq g (cancelWg g tc s)
  | .placed => discardWg g s
  | _ => s

/-- The answer of an engine reaches its party: results are filled in, a cause is taken at the word, the time joins CT.L and CT.G, a record's
tag becomes the workgroup's (R329, R361, R366); what a discarded split was to receive is given back (R370). -/
def answerEng (r : EngReq) (p : EngReply) (s : State) : State :=
  let t := s.dropReq r.id
  match r.party with
  | .split i =>
    match p.trap with
    | some (c, v) => wordTrap i r.pc r.mr c v t
    | none =>
      let g := t.wgIdxOf i
      let u := ((t.joinG (.split i) p.ct).joinL (.split i) p.ct).fill i r.id p.held
      match p.ltag with
      | none => u
      | some tag =>
        let v := u.modWg g (fun w => { w with ltag := tag })
        let d := dieOfCore (v.wg g).core
        if v.tagCancelled d tag then cancelWork g (v.nowDie d) v else v
  | .device =>
    match p.record with
    | some e => { t with gives := t.gives ++ [{ req := { r with reply := none }, entry := e }] }
    | none => t
  | q => t.joinG q p.ct

/-- Perform a request at its engine, or send the answer of one that has been performed once the home's time allows it (R329, R366). The engines
of a die that a partition has quiesced have stopped (R232). -/
def serveEng (id : Nat) (mine : EngOp → Bool) (perform : EngReq → State → State × Option EngReply) (s : State) :
    Host.Outcome State Fault Refusal :=
  match s.engReq id with
  | none => .next s
  | some r =>
    if (s.die r.die).quiesced && (s.die r.die).lost.isNone then .next s
    else
    match r.reply with
    | some p => if Nat.ble p.ready (s.nowDie r.die) then .next (answerEng r p s) else .next s
    | none =>
      if !mine r.op then .next s
      else
        match perform r s with
        | (t, none) => .next t
        | (t, some p) => if Nat.ble p.ready (t.nowDie r.die) then .next (answerEng r p t) else .next (t.setEng { r with reply := some p })

/-- The reply that writes one scalar. -/
def EngReply.one (d v : Nat) : EngReply := { held := [.sset d (.val (BitVec.ofNat 32 v))] }

/-- The reply that writes a pair of scalars. -/
def EngReply.two (d v : Nat) : EngReply := { held := pairSet d v }

/-! ## Trees (R320 to R327) -/

/-- A tree that is live or releasing. -/
def State.tree (s : State) (t : Nat) : Option Tree := s.trees.find? (fun x => x.id == t)

/-- Replace a tree. -/
def State.setTree (s : State) (x : Tree) : State := { s with trees := s.trees.map (fun y => if y.id == x.id then x else y) }

/-- A tree that is live to a domain (R320, R331). -/
def State.liveTree (s : State) (t dom : Nat) : Option Tree :=
  match s.tree t with
  | some x => if x.live && x.dom == dom && (s.die (t % 8)).lost.isNone then some x else none
  | none => none

/-- A slot of a tree. -/
def Tree.node (x : Tree) (k : Nat) : Node := x.nodes.getD k {}

/-- Change a slot. -/
def Tree.modNode (x : Tree) (k : Nat) (f : Node → Node) : Tree := { x with nodes := x.nodes.modify k f }

/-- Slots per page (R321). -/
def Tree.perPage (x : Tree) : Nat := 256 / 2 ^ x.slog

/-- Bytes of a slot (R321). -/
def Tree.slotSize (x : Tree) : Nat := 256 * 2 ^ x.slog

/-- The slots in a state that satisfies a test. -/
def Tree.slots (x : Tree) (p : Node → Bool) : List Nat := idxsOf x.nodes p

/-- The live slots. -/
def Tree.liveSlots (x : Tree) : List Nat := x.slots (fun n => n.st == .live)

/-- Whether a slot has been taken from the frontier and is not free yet. -/
def NodeState.ending (n : NodeState) : Bool := n == .committed || n == .pruned || n == .cancelled

/-- The code of a slot's state (R326). -/
def NodeState.code : NodeState → Nat
  | .free => 0
  | .live => 1
  | .committed => 2
  | .pruned => 3
  | .cancelled => 4

/-- Entries of the prefix page lists. -/
def Tree.prefixPages (x : Tree) : Nat := x.pages.foldl (fun a p => a + p.length) 0

/-- Frontier pages held. -/
def Tree.frontPages (x : Tree) : Nat := x.front.foldl (fun a p => a + p.2.length) 0

/-- A word of the descriptor (R324). -/
def Tree.word (x : Tree) (k : Nat) : Nat :=
  match k with
  | 0 => (if x.live then 1 else 2) * 2 ^ 30 + x.flog * 2 ^ 20 + x.slog * 2 ^ 16 + (x.nstrm - 1)
  | 1 => x.plen
  | 2 => (x.slots (fun n => n.st.ending)).length * 2 ^ 16 + x.liveSlots.length
  | 3 => x.prefixPages
  | 4 => x.frontPages
  | 5 => x.dom
  | 6 => x.tlast % 2 ^ 32
  | _ => x.tlast / 2 ^ 32

/-- A word of a node record (R326): a free slot holds NGEN alone. -/
def Node.word (n : Node) (slot k : Nat) : Nat :=
  match k with
  | 0 => n.token
  | 1 => n.pos
  | 2 => n.ngen * 2 ^ 24 + n.pfx.toNat * 2 ^ 19 + n.st.code * 2 ^ 16 + n.parent * 2 ^ 8 + (if n.st == .free then 0 else slot)
  | 3 => n.nchild * 2 ^ 16 + n.depth
  | 4 => n.payload % 2 ^ 32
  | 5 => n.payload / 2 ^ 32
  | 6 => n.tend % 2 ^ 32
  | 7 => n.tend / 2 ^ 32
  | j => n.anc.toNat / 2 ^ (32 * (j - 8)) % 2 ^ 32

/-- Where the lineage store of a die lies: the top 256 MiB of its DRAM of 48 GiB (R320). What it holds is kept as the trees of the state; software
must not map these frames, and their bytes in memory are not the store's (DESIGN CHOICE, log entry 59). -/
def lineageStore (d : Nat) : Nat := d * 2 ^ 36 + 47 * 2 ^ 30 + 768 * 2 ^ 20

/-- The address of a node record in the area of its tree (R320, R326). -/
def nodeRecordPa (t slot : Nat) : Nat := lineageStore (t % 8) + t / 8 * 16384 + slot * 64

/-- The blocks of 32 bytes a tree takes of its die's pool (R320). -/
def Tree.blocks (x : Tree) : Nat := 2 + (x.frontPages + 7) / 8 + x.pages.foldl (fun a p => a + (p.length + 7) / 8) 0

/-- The blocks of a die's pool that no tree takes (R320). -/
def State.blocksFree (s : State) (d : Nat) : Nat :=
  4194304 - (s.trees.filter (fun x => x.id % 8 == d)).foldl (fun a x => a + x.blocks) 0

/-- A failure word (R325). -/
def failWord (r : Nat) : Nat := 0xFFFFFF00 + r

/-- The failure of a word that writes a pair (R339). -/
def failPair (r : Nat) : Nat := 0xFFFFFFFFFFFFFF00 + r

/-- The least number that a list lacks. -/
def firstFree (used : List Nat) : Nat := ((List.range (used.length + 1)).find? (fun k => !used.contains k)).getD 0

/-! ## The page pool (R322, R323) -/

/-- The physical address of a pool page (R322). -/
def State.pagePa (s : State) (n : Nat) : Nat := n % 8 * 2 ^ 36 + (s.die (n % 8)).lbase * 2 ^ 16 + n / 8 * 2 ^ 16

/-- A page's count. -/
def State.pageCount (s : State) (n : Nat) : Nat :=
  match s.pool.find? (fun p => p.page == n) with
  | some p => p.count
  | none => 0

/-- Change a page's entry. -/
def State.modPage (s : State) (n : Nat) (f : PoolPage → PoolPage) : State :=
  { s with pool := s.pool.map (fun p => if p.page == n then f p else p) }

/-- A list lets go of a page; the one that leaves none lets it lapse at the time of its operation (R323). -/
def dropPage (time n : Nat) (s : State) : State :=
  s.modPage n (fun p => { p with count := p.count - 1, lapse := if Nat.ble p.count 1 then time else p.lapse })

/-- Whether a page may rejoin the free list (R323). -/
def State.pageLapsed (s : State) (p : PoolPage) : Bool :=
  let base := s.pagePa p.page / 256
  let inPage (sp : Span) : Bool := Nat.ble base sp.block && Nat.blt sp.block (base + 256)
  let t := s.leases.foldl (fun m l => if inPage l.span then max m (max l.e l.wl) else m) p.lapse
  p.count == 0 && Nat.ble t (s.nowDie (p.page % 8)) && !s.owners.any (fun o => inPage o.span)

/-- Every page whose time has passed is free. -/
def lapsePages (s : State) : State := { s with pool := s.pool.filter (fun p => !s.pageLapsed p) }

/-- The lowest free page of a die (R323). -/
def State.freePageOf (s : State) (d : Nat) : Option Nat :=
  let k := firstFree ((s.pool.filter (fun p => p.page % 8 == d)).map (fun p => p.page / 8))
  if (s.die d).lEn && (s.die d).lost.isNone && Nat.blt k (s.die d).lcnt then some (8 * k + d) else none

/-- Take pages for a tree of a home die, from that die first and then from the next (R323). -/
def takePages (home : Nat) : Nat → State → Option (State × List Nat)
  | 0, s => some (s, [])
  | k + 1, s =>
    match (List.range 8).findSome? (fun i => s.freePageOf ((home + i) % 8)) with
    | none => none
    | some n =>
      match takePages home k { s with pool := s.pool ++ [{ page := n }] } with
      | some (t, l) => some (t, n :: l)
      | none => none

/-! ## The life of slots and trees (R327, R334) -/

/-- Free slots of a tree (R327): the record is zeroed but for NGEN, which advances; a frontier page without a held slot lapses. -/
def freeSlots (x : Tree) (ks : List Nat) (s : State) : State × Tree :=
  let time := ks.foldl (fun m k => max m (x.node k).tend) 0
  let y := ks.foldl (fun z k => z.modNode k (fun n => { ngen := n.ngen % 254 + 1 })) x
  let held (j : Nat) : Bool := (List.range y.perPage).any (fun k => (y.node (j * y.perPage + k)).st != .free)
  let gone := y.front.filter (fun p => !held p.1)
  let z := { y with front := y.front.filter (fun p => held p.1) }
  (foldState (gone.flatMap (fun p => p.2)) (dropPage time) (s.setTree z), z)

/-- The slots of a tree whose end has come. -/
def State.dueSlots (s : State) (x : Tree) : List Nat := x.slots (fun n => n.st.ending && Nat.ble n.tend (s.nowDie (x.id % 8)))

/-- A releasing tree whose time has come gives up its id; what it still held lapses (R334). -/
def endTree (x : Tree) (s : State) : State :=
  let (t, y) := freeSlots x (x.slots (fun n => n.st.ending)) s
  { foldState (y.front.flatMap (fun p => p.2)) (dropPage x.freeAt) t with trees := t.trees.filter (fun z => z.id != x.id) }

/-- Whether a releasing tree's time has come. -/
def State.treeDue (s : State) (x : Tree) : Bool := !x.live && Nat.ble x.freeAt (s.nowDie (x.id % 8))

/-- What the times that have passed have freed, before an operation is performed: slots, tree ids, pages. -/
def settleTrees (s : State) : State :=
  let t := foldState (s.trees.filter (fun x => !(s.dueSlots x).isEmpty)) (fun x z => (freeSlots x (s.dueSlots x) z).1) s
  lapsePages (foldState (t.trees.filter t.treeDue) endTree t)

/-- LSFREE: the blocks of a die's pool that are now free, those of slots and trees whose time has passed among them (R320, R322). -/
def State.storeFree (s : State) (d : Nat) : Nat := (settleTrees s).blocksFree d

/-- LFREE: the pool pages of a die that are now free, those whose time has passed among them (R322, R323). -/
def State.pagesFree (s : State) (d : Nat) : Nat := (s.die d).lcnt - ((settleTrees s).pool.filter (fun p => p.page % 8 == d)).length

/-- NODE_SLOT_FREE (R327). -/
def execNodeSlotFree (tr slot : Nat) (s : State) : Host.Outcome State Fault Refusal :=
  match s.tree tr with
  | some x => .next (if (s.dueSlots x).contains slot then (freeSlots x [slot] s).1 else s)
  | none => .next s

/-- TREE_ID_FREE (R334). -/
def execTreeIdFree (tr : Nat) (s : State) : Host.Outcome State Fault Refusal :=
  match s.tree tr with
  | some x => .next (if s.treeDue x then endTree x s else s)
  | none => .next s

/-- POOL_PAGE_LAPSE (R323). -/
def execPoolPageLapse (page : Nat) (s : State) : Host.Outcome State Fault Refusal :=
  .next { s with pool := s.pool.filter (fun p => !(p.page == page && s.pageLapsed p)) }

/-- LCTL_WRITE (R322): EN set frees the die's pages and the trees homed on it; EN stays while a tree is live; the copies of every live die
follow before the write completes. -/
def lctlWrite (d : Nat) (v : Word) (s : State) : State :=
  let en := v.getLsbD 0
  let x := s.die d
  if en == x.lEn then s
  else if !en && s.trees.any (fun t => t.live && t.id % 8 == d) then s
  else
    let t := if en then
        { s with pool := s.pool.filter (fun p => p.page % 8 != d), trees := s.trees.filter (fun t => t.id % 8 != d) }
      else s
    let u := t.modDie d (fun y => { y with lEn := en })
    { u with dies := u.dies.map (fun y =>
        if y.lost.isSome then y
        else { y with lCopy := if en then y.lCopy ||| BitVec.ofNat 8 (2 ^ d) else y.lCopy &&& ~~~(BitVec.ofNat 8 (2 ^ d)) }) }

/-- LCTL_WRITE (R322). -/
def execLctlWrite (d : Nat) (v : Word) (s : State) : Host.Outcome State Fault Refusal := .next (lctlWrite d v s)

/-! ## Removal and cancellation (R338, R344, R345) -/

/-- Remove slots of a tree: those of `roots` are pruned, the others cancelled; their tags are cancelled; T_done (R338, R345). -/
def removeNodes (x : Tree) (ks roots : List Nat) (whole : Bool) (s : State) : State × Tree × Nat :=
  let d := x.id % 8
  let ta := s.nowDie d
  let n := ks.length
  let done := ta + 56000 + 160 * n + s.epsPkg d
  let tags := ks.map (fun k => (k, (x.node k).ngen))
  let y := ks.foldl (fun z k =>
    let z1 := if (x.node k).pfx then z else z.modNode (x.node k).parent (fun m => { m with nchild := m.nchild - 1 })
    z1.modNode k (fun m => { m with st := if roots.contains k then .pruned else .cancelled, tend := done })) x
  let z := { y with tlast := max y.tlast done }
  let all := s.cancels.filter (fun c => s.dies.any (fun e => e.lost.isNone && Nat.blt e.now c.done))
  let u : State := { s with cancels := all ++ [{ tree := x.id, whole := whole, nodes := tags, sent := ta + 160 * n, done := done }] }
  (u.setTree z, z, done)

/-! ## Data in pool pages (R339, R341, R347) -/

/-- A block of 256 bytes of the pool as the engine reads it: what fails is read as the pattern (R347). -/
def State.poolBlock (s : State) (pa : Nat) : List Byte × Bool :=
  let bad : List Byte := (List.range 8).flatMap (fun _ => wordBytes poisonPattern)
  if (s.wholeCause pa).isSome then ((List.range 8).flatMap (fun _ => bad), true)
  else
    ((List.range 8).flatMap (fun k => if s.ecc.contains (pa / 32 + k) then bad else s.readMem 0 (pa + 32 * k) 32),
     (List.range 8).any (fun k => s.ecc.contains (pa / 32 + k)))

/-- Copy blocks in order: the state, whether a source failed, the latest C (R347). A destination that is lost, or whose frame has M = 1, which an
owning agent may not write (R206), keeps its bytes; no cause is listed for it (DESIGN CHOICE, log entry 59). -/
def poolCopy (d : Nat) : List (Nat × Nat) → State → State × Bool × Nat
  | [], s => (s, false, 0)
  | (dst, src) :: rest, s =>
    let b := s.poolBlock src
    let w : State × Nat := if (s.wholeCause dst).isSome then (s, s.failTime dst d) else if (s.genOf dst).2 then (s, 0) else s.homeStore 0 dst b.1
    let r := poolCopy d rest w.1
    (r.1, b.2 || r.2.1, max w.2 r.2.2)

/-- The blocks of a copy of n bytes. -/
def copyBlocks (dst src n : Nat) : List (Nat × Nat) := (List.range (n / 256)).map (fun k => (dst + 256 * k, src + 256 * k))

/-- ClaimShared of every stream (R341, R342): the streams whose partial last page has a count above 1 now. -/
def Tree.claims (x : Tree) (s : State) : List Nat :=
  if x.plen % x.perPage == 0 then [] else idxsOf x.pages (fun l => Nat.blt 1 (s.pageCount (l.getLastD 0)))

/-- What the page lists of a tree become when n positions are added (R341): the new lists, and the copies of the claimed last pages as page
pairs; or the reason for which nothing changes. -/
def growTree (x : Tree) (n : Nat) (claimed : List Nat) (s : State) : (State × Tree × List (Nat × Nat)) ⊕ Nat :=
  let p := x.perPage
  let add := (x.plen + n + p - 1) / p - (x.plen + p - 1) / p
  let cows := claimed.length
  let more := x.pages.foldl (fun a l => a + ((l.length + add + 7) / 8 - (l.length + 7) / 8)) 0
  match takePages (x.id % 8) (add * x.nstrm + cows) s with
  | none => .inr 4
  | some (t, got) =>
    if Nat.blt (s.blocksFree (x.id % 8)) more then .inr 5
    else
      let r := x.pages.zipIdx.foldl (fun (r : List (List Nat) × List (Nat × Nat) × List Nat) l =>
        if claimed.contains l.2 then
          let q := r.2.2.headD 0
          (r.1 ++ [l.1.dropLast ++ [q] ++ (r.2.2.drop 1).take add], r.2.1 ++ [(q, l.1.getLastD 0)], r.2.2.drop (1 + add))
        else (r.1 ++ [l.1 ++ r.2.2.take add], r.2.1, r.2.2.drop add)) (([], [], got) : List (List Nat) × List (Nat × Nat) × List Nat)
      .inl (t, { x with pages := r.1 }, r.2.1)

/-- Whether the blocks of a copy can be read and written at present. -/
def State.copyBusy (s : State) (d : Nat) (bs : List (Nat × Nat)) : Bool :=
  bs.any (fun b => s.homeBusy d true b.1 256 .device || s.homeBusy d false b.2 256 .device)

/-- Perform the engine's copies: the time C, and 0x147 recorded where a source failed (R347). -/
def engineCopies (tr : Nat) (bs : List (Nat × Nat)) (s : State) : State × Nat :=
  let r := poolCopy (tr % 8) bs s
  (if r.2.1 then r.1.modDie (tr % 8) (fun x => { x with lf := x.lf.record { cause := 0x147, info := tr * 2 ^ 9 } }) else r.1, r.2.2)

/-! ## The operations at the home (R328 to R341) -/

/-- G of a handle. -/
def genOfHandle (h : Nat) : Nat := h / 2 ^ 8 % 2 ^ 8
/-- S of a handle. -/
def slotOf (h : Nat) : Nat := h % 2 ^ 8

/-- The live node a handle names. -/
def Tree.liveNode (x : Tree) (h : Nat) : Option Nat :=
  let k := slotOf h
  if (x.node k).st == .live && (x.node k).ngen == genOfHandle h && genOfHandle h != 0 then some k else none

/-- The lowest free tree id homed on a die (R332). -/
def State.freeTree (s : State) (d : Nat) : Option Nat :=
  let k := firstFree ((s.trees.filter (fun x => x.id % 8 == d)).map (fun x => x.id / 8))
  if Nat.blt k 8192 then some (8 * k + d) else none

/-- TREE.NEW (R332). -/
def treeNew (d cfg dom : Nat) (s : State) : State × Nat :=
  match s.freeTree d with
  | none => (s, failWord 9)
  | some t =>
    if Nat.blt (s.blocksFree d) 2 then (s, failWord 5)
    else
      let ns := cfg % 2 ^ 8 + 1
      ({ s with trees := s.trees ++ [{ id := t, nstrm := ns, slog := cfg / 2 ^ 16 % 16, flog := cfg / 2 ^ 20 % 16, dom := dom
                                       pages := List.replicate ns [] }] }, t * 2 ^ 16)

/-- TREE.CLONE (R333) onto a die. -/
def treeClone (x : Tree) (d dom : Nat) (s : State) : State × Nat :=
  let all := x.pages.flatMap id
  if all.any (fun n => Nat.ble 65535 (s.pageCount n)) then (s, failWord 8)
  else
    match s.freeTree d with
    | none => (s, failWord 9)
    | some t =>
      let y : Tree := { id := t, nstrm := x.nstrm, slog := x.slog, flog := x.flog, plen := x.plen, dom := dom, pages := x.pages }
      if Nat.blt (s.blocksFree d) y.blocks then (s, failWord 5)
      else ({ foldState all (fun n z => z.modPage n (fun p => { p with count := p.count + 1 })) s with trees := s.trees ++ [y] }, t * 2 ^ 16)

/-- TREE.REL (R334). -/
def treeRel (x : Tree) (s : State) : State × Nat :=
  let live := x.liveSlots
  let (t, y, done) := removeNodes x live (live.filter (fun k => (x.node k).pfx)) true s
  let time := done + 16 * x.prefixPages
  let z := { y with live := false, tlast := max y.tlast time, freeAt := time, pages := List.replicate x.nstrm [] }
  let u := foldState (x.pages.flatMap id) (dropPage time) (t.setTree z)
  ({ u with cancels := u.cancels.map (fun c => if c.tree == x.id && c.whole then { c with done := max c.done time } else c) }, time)

/-- The slots on the path of a node, its prefix child first (R339). -/
def Tree.path (x : Tree) (k : Nat) : List Nat :=
  (List.range 257).filterMap (fun dep => (List.range 256).find? (fun j => (x.node k).anc.getLsbD j && (x.node j).depth == dep))

/-- The live slots below a node. -/
def Tree.below (x : Tree) (k : Nat) : List Nat := x.liveSlots.filter (fun j => j != k && (x.node j).anc.getLsbD k)

/-- NODE.PRUNE (R338): the time, or the cause for a committed node. -/
def nodePrune (x : Tree) (h : Nat) (s : State) : State × (Nat ⊕ Nat) :=
  let now := s.nowDie (x.id % 8) + s.epsPkg (x.id % 8)
  if genOfHandle h == 0 then
    let live := x.liveSlots
    let r := removeNodes x live (live.filter (fun k => (x.node k).pfx)) false s
    (r.1, .inl r.2.2)
  else
    let k := slotOf h
    let n := x.node k
    if n.ngen != genOfHandle h then (s, .inl now)
    else
      match n.st with
      | .free => (s, .inl now)
      | .committed => (s, .inr 0x143)
      | .pruned | .cancelled => (s, .inl n.tend)
      | .live =>
        let r := removeNodes x (k :: x.below k) [k] false s
        (r.1, .inl r.2.2)

/-- The address of a slot's data: a page's physical address and the index in it. -/
def State.slotPa (s : State) (x : Tree) (page i : Nat) : Nat := s.pagePa page + x.slotSize * (i % x.perPage)

/-- What a structural operation comes to. -/
inductive TreeRes where
  | ok (s : State) (v c : Nat)
  | trap (cause : Nat)
  | later (s : State)
  deriving DecidableEq, Repr

/-- The copies of the shared last pages (R342): the bytes of the positions they hold. -/
def State.cowBlocks (s : State) (x : Tree) (cows : List (Nat × Nat)) : List (Nat × Nat) :=
  cows.flatMap (fun c => copyBlocks (s.pagePa c.1) (s.pagePa c.2) (x.plen % x.perPage * x.slotSize))

/-- The copies of a commit (R339): of each stream, the slot data of the path's nodes in the order of the path, from their frontier pages to the positions that follow
the prefix, in the pages of the tree as it is after. -/
def State.commitBlocks (s : State) (x y : Tree) (path : List Nat) : List (Nat × Nat) :=
  (List.range x.nstrm).flatMap (fun st => path.zipIdx.flatMap (fun j =>
    let src := ((x.front.find? (fun f => f.1 == j.1 / x.perPage)).map (fun f => f.2.getD st 0)).getD 0
    let dst := (y.pages.getD st []).getD ((x.plen + j.2) / x.perPage) 0
    copyBlocks (s.slotPa x dst (x.plen + j.2)) (s.slotPa x src j.1) x.slotSize))

/-- NODE.COMMIT (R339). -/
def nodeCommit (x : Tree) (h : Nat) (prune : Bool) (claimed : List Nat) (s : State) : TreeRes :=
  match x.liveNode h with
  | none => .trap 0x143
  | some k =>
    let nk := x.node k
    let path := x.path k
    let d := nk.depth
    let desc := x.below k
    let others := x.liveSlots.filter (fun j => !nk.anc.getLsbD j && !desc.contains j)
    if !others.isEmpty && !prune then .trap 0x144
    else if Nat.blt (2 ^ 24 - 1) (x.plen + d) then .ok s (failPair 6) 0
    else
      match growTree x d claimed s with
      | .inr r => .ok s (failPair r) 0
      | .inl (t, y, cows) =>
        let blocks := s.cowBlocks x cows ++ s.commitBlocks x y path
        if s.copyBusy (x.id % 8) blocks then .later (foldState blocks (fun b z => (z.prompt true b.1 256).prompt false b.2 256) s)
        else
          let (u, c) := engineCopies x.id blocks t
          let v := foldState (cows.map Prod.snd) (dropPage c) u
          let pathMask : BitVec 256 := path.foldl (fun m j => m ||| BitVec.ofNat 256 (2 ^ j)) 0
          let z1 := desc.foldl (fun z j => z.modNode j (fun n =>
            let m := { n with anc := n.anc &&& ~~~pathMask, depth := n.depth - d }
            if !n.pfx && n.parent == k then { m with pfx := true, parent := 0 } else m)) { y with plen := x.plen + d }
          let z2 := path.foldl (fun z j => z.modNode j (fun n => { n with st := .committed, tend := c, nchild :=
            (others.filter (fun q => !(x.node q).pfx && (x.node q).parent == j)).length })) z1
          let w := v.setTree z2
          if others.isEmpty then .ok w c c
          else
            let roots := others.filter (fun q => (x.node q).pfx || !others.contains (x.node q).parent)
            let r := removeNodes z2 others roots false w
            .ok r.1 r.2.2 c

/-- KV.APPEND (R341). -/
def kvAppend (x : Tree) (n : Nat) (claimed : List Nat) (s : State) : TreeRes :=
  if !x.liveSlots.isEmpty then .ok s (failWord 7) 0
  else if Nat.blt (2 ^ 24 - 1) (x.plen + n) then .ok s (failWord 6) 0
  else
    match growTree x n claimed s with
    | .inr r => .ok s (failWord r) 0
    | .inl (t, y, cows) =>
      let blocks := s.cowBlocks x cows
      if s.copyBusy (x.id % 8) blocks then .later (foldState blocks (fun b z => (z.prompt true b.1 256).prompt false b.2 256) s)
      else
        let (u, c) := engineCopies x.id blocks t
        .ok ((foldState (cows.map Prod.snd) (dropPage c) u).setTree { y with plen := x.plen + n }) x.plen c

/-- NODE.FORK of one lane (R336). -/
def nodeFork (tr dom h token : Nat) (s : State) : State × Nat :=
  match s.liveTree tr dom with
  | none => (s, failWord 1)
  | some x =>
    let g := genOfHandle h
    let parent := x.liveNode h
    if g != 0 && parent.isNone then (s, failWord 2)
    else
      let k := parent.getD 0
      let pos := if g == 0 then x.plen else (x.node k).pos + 1
      let anc : BitVec 256 := if g == 0 then 0 else (x.node k).anc
      let dep := if g == 0 then 1 else (x.node k).depth + 1
      if Nat.blt (2 ^ 24 - 1) pos then (s, failWord 6)
      else
        match (List.range (2 ^ x.flog)).find? (fun j => (x.node j).st == .free) with
        | none => (s, failWord 3)
        | some j =>
          let page := j / x.perPage
          let held := x.front.any (fun p => p.1 == page)
          let more := if held then 0 else (x.frontPages + x.nstrm + 7) / 8 - (x.frontPages + 7) / 8
          match takePages (tr % 8) (if held then 0 else x.nstrm) s with
          | none => (s, failWord 4)
          | some (t, got) =>
            if Nat.blt (s.blocksFree (tr % 8)) more then (s, failWord 5)
            else
              let y := if held then x else { x with front := x.front ++ [(page, got)] }
              let z := y.modNode j (fun n =>
                { st := .live, token := token, pos := pos, ngen := n.ngen, pfx := g == 0, parent := k, nchild := 0, depth := dep
                  payload := 0, tend := 0, anc := anc ||| BitVec.ofNat 256 (2 ^ j) })
              let w := if g == 0 then z else z.modNode k (fun n => { n with nchild := n.nchild + 1 })
              (t.setTree w, tr * 2 ^ 16 + (x.node j).ngen * 2 ^ 8 + j)

/-- NODE.RD of one lane (R337). -/
def nodeRd (tr dom h k : Nat) (s : State) : Nat :=
  match s.liveTree tr dom with
  | none => 0
  | some x =>
    let n := x.node (slotOf h)
    if genOfHandle h != 0 && n.ngen == genOfHandle h then n.word (slotOf h) k else 0

/-- NODE.PAY of one lane (R337). -/
def nodePay (tr dom h v : Nat) (s : State) : State :=
  match s.liveTree tr dom with
  | none => s
  | some x =>
    match x.liveNode h with
    | some k => s.setTree (x.modNode k (fun n => { n with payload := v }))
    | none => s

/-- KV.SLOT of one lane (R340). -/
def kvSlot (tr dom h v : Nat) (s : State) : Nat :=
  let bad (r : Nat) : Nat := 0x80000000 * 2 ^ 32 + r
  match s.liveTree tr dom with
  | none => bad 1
  | some x =>
    let st := v / 2 ^ 24 % 2 ^ 8
    let va (page i : Nat) : Nat := (s.die (tr % 8)).lva + 65536 * page + x.slotSize * (i % x.perPage)
    if genOfHandle h == 0 then
      let pos := v % 2 ^ 24
      if Nat.ble x.nstrm st || Nat.ble x.plen pos then bad 10 else va ((x.pages.getD st []).getD (pos / x.perPage) 0) pos
    else
      match x.liveNode h with
      | none => bad 2
      | some k =>
        if Nat.ble x.nstrm st then bad 10
        else va (((x.front.find? (fun f => f.1 == k / x.perPage)).map (fun f => f.2.getD st 0)).getD 0) k

/-! ## MASKGEN (R349 to R355) -/

/-- The mask and the status word of one lane (R352, R353). -/
def maskOfKey (tr dom h key : Nat) (s : State) : Nat × Nat :=
  match s.liveTree tr dom with
  | none => (0, 2 * 2 ^ 30)
  | some x =>
    let g := genOfHandle h
    if g != 0 && (x.liveNode h).isNone then (0, 2 ^ 30 + x.plen)
    else if Nat.blt key (2 ^ 31) then
      ((List.range 32).foldl (fun m j => if Nat.blt (key % 2 ^ 24 + j) x.plen then m + 2 ^ j else m) 0, x.plen)
    else if g == 0 then (0, x.plen)
    else ((x.node (slotOf h)).anc.toNat / 2 ^ (key % 2 ^ 8) % 2 ^ 32, x.plen)

/-- Whether a key base is one that R350 allows. -/
def keyOk (k : Nat) : Bool :=
  k % 32 == 0 && (if Nat.blt k (2 ^ 31) then k / 2 ^ 24 == 0 else k % 2 ^ 31 / 2 ^ 8 == 0)

/-- How many registers a per-lane operation writes. -/
def EngOp.outs : EngOp → Nat
  | .nodePay => 0
  | .kvSlot => 2
  | .maskgen status => if status then 2 else 1
  | _ => 1

/-- Perform one lane of a per-lane operation: its result words, none where the tree's home is lost and MASKGEN gives poison. -/
def laneOp (op : EngOp) (dom : Nat) (v : List Nat) (s : State) : State × List PWord :=
  let h := v.getD 0 0
  let t := treeOf h
  let word (x : Nat) : PWord := .val (BitVec.ofNat 32 x)
  match op with
  | .nodeFork => let r := nodeFork t dom h (v.getD 1 0) s; (r.1, [word r.2])
  | .nodeRd k => (s, [word (nodeRd t dom h k s)])
  | .nodePay => (nodePay t dom h (v.getD 1 0 + v.getD 2 0 * 2 ^ 32) s, [])
  | .kvSlot => let x := kvSlot t dom h (v.getD 1 0) s; (s, [word x, word (x / 2 ^ 32)])
  | .maskgen st =>
    if (s.die (t % 8)).lost.isSome && genOfHandle h != 0xFF then (s, if st then [.poison, .poison] else [.poison])
    else let m := maskOfKey t dom h (v.getD 1 0) s; (s, if st then [word m.1, word m.2] else [word m.1])
  | _ => (s, [])

/-- Perform the lanes of a word that name one tree, in ascending order (R328). -/
def laneOps (op : EngOp) (dom : Nat) : List (Nat × List Nat) → State → State × List (Nat × List PWord)
  | [], s => (s, [])
  | (l, v) :: rest, s =>
    let r := laneOp op dom v s
    let q := laneOps op dom rest r.1
    (q.1, (l, r.2) :: q.2)

/-- Whether an operation only reads its tree: nothing of it is visible, so its request may leave before the loads of its group are back (R31,
R356). -/
def EngOp.reads : EngOp → Bool
  | .treeRd _ | .nodeRd _ | .kvSlot | .maskgen _ => true
  | _ => false

/-- The frame of a word on trees: one that changes them waits for the loads of its group (R31). -/
def afterLoadsOf (op : EngOp) (body : Nat → State → State × Out) : Nat → State → State × Out := if op.reads then body else afterLoads body

/-- Whether an operation is split-wide on a tree. -/
def EngOp.wide : EngOp → Bool
  | .treeNew | .treeClone | .treeRel | .treeRd _ | .nodePrune | .nodeCommit | .kvAppend => true
  | _ => false

/-- The live tree that a split-wide operand names; a failure word names none (R325; DEDUCED, log entry 33). -/
def State.handleTree (s : State) (h dom : Nat) : Option Tree := if genOfHandle h == 0xFF then none else s.liveTree (treeOf h) dom

/-- Perform an operation on a tree at its home (R328). An operation that finds shared last pages keeps what it has found, and copies and lets go
of them when it is taken up again, so that a sibling may find them shared as well (R342). -/
def performTree (r : EngReq) (s0 : State) : State × Option EngReply :=
  let s := settleTrees s0
  let a := r.vals.getD 0 0
  let b := r.vals.getD 1 0
  if !r.op.wide then
    let q := laneOps r.op r.dom r.lanes s
    (q.1, some { held := if r.op.outs == 0 then [] else loadHeld r.width r.d r.op.outs q.2 })
  else if r.op == .treeNew then
    let q := treeNew r.die a r.dom s
    (q.1, some (.one r.d q.2))
  else
    match s.handleTree a r.dom with
    | none => (s, some { trap := some (0x142, a) })
    | some x =>
      let res (q : TreeRes) (reply : Nat → EngReply) : State × Option EngReply :=
        match q with
        | .ok t v c => (t, some { reply v with ct := c, ready := c })
        | .trap c => (s, some { trap := some (c, a) })
        | .later t => (t, none)
      let claiming (go : List Nat → State × Option EngReply) : State × Option EngReply :=
        match r.claim with
        | some l => go l
        | none =>
          let l := x.claims s
          if l.isEmpty then go [] else (s.setEng { r with claim := some l }, none)
      match r.op with
      | .treeClone => let q := treeClone x (dieOfCore r.core) r.dom s; (q.1, some (.one r.d q.2))
      | .treeRel => let q := treeRel x s; (q.1, some (.two r.d q.2))
      | .treeRd k => (s, some (.one r.d (x.word k)))
      | .nodePrune =>
        match nodePrune x a s with
        | (t, .inl v) => (t, some (.two r.d v))
        | (t, .inr c) => (t, some { trap := some (c, a) })
      | .nodeCommit => claiming (fun l => res (nodeCommit x a (b % 2 == 1) l s) (.two r.d))
      | _ => claiming (fun l => res (kvAppend x b l s) (.one r.d))

/-- Whether an operation is MASKGEN. -/
def EngOp.isMask (o : EngOp) : Bool := o == .maskgen false || o == .maskgen true

/-- Whether an operation is the lineage engine's. -/
def EngOp.isTree : EngOp → Bool
  | .nodeFork | .nodeRd _ | .nodePay | .kvSlot => true
  | o => o.wide

/-- Whether another operation on the same tree comes first: one that has begun, or one of the same cycle that precedes it in the order of core,
warp id and split-table index (R328). -/
def State.treeAhead (s : State) (r : EngReq) : Bool :=
  s.reqs.any (fun q =>
    match q with
    | .eng q => q.id != r.id && q.reply.isNone && q.tree == r.tree && (q.op.isTree || q.op.isMask) &&
        (q.claim.isSome || (q.time == r.time && Nat.blt q.rank r.rank && !s.noRoute (dieOfCore q.core) q.die))
    | _ => false)

/-- Whether an operation waits: its tree's home cannot be reached at present, or it has not begun and others on the tree come first. -/
def State.treeWaits (s : State) (r : EngReq) : Bool := s.noRoute (dieOfCore r.core) r.die || (r.claim.isNone && (s.opBehind r || s.treeAhead r))

/-- TREE_OP_PERFORM (R328, R329). -/
def execTreeOpPerform (id : Nat) (s : State) : Host.Outcome State Fault Refusal :=
  serveEng id EngOp.isTree (fun r t => if t.treeWaits r then (t, none) else performTree r t) s

/-- The lowest lane of a request that names its tree by more than a failure word (R325). -/
def EngReq.firstLane (r : EngReq) : Nat := ((r.lanes.find? (fun l => genOfHandle (l.2.getD 0 0) != 0xFF)).map Prod.fst).getD 128

/-- The requests of the word of a MASKGEN request that meet a lost home, those of lower lanes first (R352, R358). -/
def State.lostMasks (s : State) (r : EngReq) : List EngReq :=
  let all := s.reqs.filterMap (fun q => match q with
    | .eng q => if q.op.isMask && q.core == r.core && q.rank == r.rank && q.pc == r.pc && q.reply.isNone && (s.die q.die).lost.isSome then some q else none
    | _ => none)
  (List.range 129).flatMap (fun l => all.filter (fun q => q.firstLane == l))

/-- Answer the MASKGEN requests that meet a lost home (R352): poison, one record of 0x163 with the tree of the lowest lane, and with MR.PX the
cause at the word. -/
def maskLost (r : EngReq) (s : State) : State :=
  let l := s.lostMasks r
  let met := l.filter (fun q => Nat.blt q.firstLane 128)
  let t := match met with
    | q :: _ => s.modDie (dieOfCore r.core) (fun x => { x with mg := x.mg.record { cause := 0x163, info := q.tree * 2 ^ 9 } })
    | [] => s
  foldState l (fun q z =>
    if mrPX q.mr && Nat.blt q.firstLane 128 then answerEng q { trap := some (0x163, q.tree) } z
    else
      match performTree q z with
      | (u, some p) => answerEng q p u
      | (u, none) => u) t

/-- MASKGEN_REQUEST (R349, R352): a lost home gives poison; 0x163 is recorded, and taken at the word when MR.PX is set. -/
def execMaskgenRequest (id : Nat) (s : State) : Host.Outcome State Fault Refusal :=
  match s.engReq id with
  | some r =>
    if r.op.isMask && r.reply.isNone && (s.die r.die).lost.isSome then .next (maskLost r s)
    else serveEng id EngOp.isMask (fun r t => if t.treeWaits r then (t, none) else performTree r t) s
  | none => .next s

/-! ## The words (R331 to R341) -/

/-- Whether the engine is enabled on the issuing die and on the home die of each handle (R322); a failure word names no tree (R325). -/
def State.lineageOff (s : State) (d : Nat) (hs : List Nat) : Option Nat :=
  if !(s.die d).lEn then some (treeOf (hs.headD 0))
  else (hs.find? (fun h => genOfHandle h != 0xFF && !(s.die d).lCopy.getLsbD (treeOf h % 8))).map treeOf

/-- A split-wide word on a tree (R329, R331): the checks, then a release at dev scope where the word performs one, then the request. -/
def treeWord (closes release : Bool) (op : EngOp) (d : Nat) (a : BitVec 5) (b : Option (BitVec 6)) (ok : Nat → Nat → Option Nat) (s : State) :
    Host.Outcome State Fault Refusal :=
  issueWord closes (afterLoadsOf op (fun i s =>
    let die := dieOfCore (s.coreOf i)
    match s.ssrc i a, (match b with
      | some r => s.sbsrc i r
      | none => PWord.val 0) with
    | .val x, .val y =>
      let off := if op == .treeNew then (if (s.die die).lEn then none else some 0) else s.lineageOff die [x.toNat]
      match off with
      | some t => (s, .trap 0x141 t)
      | none =>
        match ok x.toNat y.toNat with
        | some v => (s, .trap 0x146 v)
        | none =>
          let home := if op == .treeNew then die else treeOf x.toNat % 8
          if op != .treeNew && (s.die home).lost.isSome then (s, .trap 0x142 x.toNat)
          else if release && s.scopeUnsync die 2 then (s, .trap 0x067 2)
          else
            match (if release then s.fenceWait i 2 else none) with
            | some c => (s, .wait c)
            | none =>
              let (t, id) := s.sendEng (s.engOf i op home d [x.toNat, y.toNat] [])
              (t, .done [.mark (s.split i).pc, .await id])
    | _, _ => (s, .trap 0x145 0))) s

/-- No operand of a word is out of range. -/
def anyValue (_ _ : Nat) : Option Nat := none

/-- TREE.NEW (R332). -/
def execTreeNew (w : SDA) (s : State) : Host.Outcome State Fault Refusal :=
  treeWord w.s false .treeNew w.d.toNat w.a none (fun c _ =>
    if c / 2 ^ 24 == 0 && c / 2 ^ 8 % 2 ^ 8 == 0 && Nat.ble (c / 2 ^ 20 % 16) 8 && Nat.ble (c / 2 ^ 16 % 16) 8 then none else some c) s

/-- TREE.CLONE (R333). -/
def execTreeClone (w : SDA) (s : State) : Host.Outcome State Fault Refusal := treeWord true true .treeClone w.d.toNat w.a none anyValue s

/-- TREE.REL (R334). -/
def execTreeRel (w : SDA) (s : State) : Host.Outcome State Fault Refusal := treeWord true true .treeRel w.d.toNat w.a none anyValue s

/-- TREE.RD (R335). -/
def execTreeRd (w : TreeRdF) (s : State) : Host.Outcome State Fault Refusal :=
  treeWord w.s false (.treeRd w.k.toNat) w.d.toNat w.a none anyValue s

/-- NODE.PRUNE (R338). -/
def execNodePrune (w : SDA) (s : State) : Host.Outcome State Fault Refusal := treeWord true true .nodePrune w.d.toNat w.a none anyValue s

/-- NODE.COMMIT (R339): bits [31:1] of sB must be zero. -/
def execNodeCommit (w : SDAB) (s : State) : Host.Outcome State Fault Refusal :=
  treeWord true true .nodeCommit w.d.toNat w.a (some w.b) (fun _ b => if Nat.blt b 2 then none else some b) s

/-- KV.APPEND (R341): sB is 1 to 4,096. -/
def execKvAppend (w : SDAB) (s : State) : Host.Outcome State Fault Refusal :=
  treeWord true true .kvAppend w.d.toNat w.a (some w.b) (fun _ n => if Nat.ble 1 n && Nat.ble n 4096 then none else some n) s

/-- Send the requests of a per-lane word, one for each tree its lanes name. -/
def sendTrees (i : Nat) (op : EngOp) (d : Nat) (rows : List (Nat × List Nat)) : List Nat → State → State × List Held
  | [], s => (s, [])
  | t :: ts, s =>
    let mine := rows.filter (fun r => treeOf (r.2.getD 0 0) == t)
    let (u, id) := s.sendEng (s.engOf i op (t % 8) d [] mine)
    let (v, hs) := sendTrees i op d rows ts u
    (v, if op.outs == 0 then hs else .await id :: hs)

/-- A per-lane word on trees (R331, R352): the operands of each executing lane, the check of key bases, then one request for each tree; a lane
with a poisoned operand writes poison, and a tree whose home is lost is answered at once. -/
def laneTreeWord (closes : Bool) (op : EngOp) (poison : Nat) (d : Nat) (regs : Nat → List Nat) (ops : Nat → State → Nat → List PWord) (s : State) :
    Host.Outcome State Fault Refusal :=
  issueWord closes (fun i s => withRegs (regs i) (afterLoadsOf op (fun i s =>
    let die := dieOfCore (s.coreOf i)
    let rows := (lanesIn (s.widthOf i) (s.execMask i)).map (fun l => (l, ops i s l))
    let mg := op.isMask
    let handles := rows.filterMap (fun r => match r.2 with
      | .val h :: _ => some h.toNat
      | _ => none)
    match s.lineageOff die handles with
    | some t => (s, .trap 0x141 t)
    | none =>
      match (if mg then rows.find? (fun r => match r.2.getD 1 .poison with
          | .val k => !keyOk k.toNat
          | .poison => false) else none) with
      | some r => (s, .trap 0x162 ((r.2.getD 1 .poison).bits.toNat + r.1 * 2 ^ 32))
      | none =>
        let bad := rows.filter (fun r => r.2.any PWord.isPoison)
        match (if mrPX (s.split i).mr then bad.head? else none) with
        | some r => (s, .trap poison r.1)
        | none =>
          let good := (rows.filter (fun r => !r.2.any PWord.isPoison)).map (fun r => (r.1, r.2.map (fun v => v.bits.toNat)))
          let gone := if mg then [] else good.filter (fun r => (s.die (treeOf (r.2.getD 0 0) % 8)).lost.isSome)
          let sent := good.filter (fun r => !gone.contains r)
          let (t, hs) := sendTrees i op d sent (sent.map (fun r => treeOf (r.2.getD 0 0))).eraseDups s
          let now := bad.map (fun r => (r.1, List.replicate op.outs PWord.poison)) ++ (laneOps op (s.wgOf i).ldom gone s).2
          let sorted := (lanesIn 128 (BitVec.ofNat 128 (now.foldl (fun x r => x + 2 ^ r.1) 0))).filterMap (fun l => now.find? (fun r => r.1 == l))
          (t, .done ((if sorted.isEmpty || op.outs == 0 then [] else loadHeld (s.widthOf i) d op.outs sorted) ++
            (if hs.isEmpty then [] else .mark (s.split i).pc :: hs))))) i s) s

/-- NODE.FORK (R336). -/
def execNodeFork (w : V3N) (s : State) : Host.Outcome State Fault Refusal :=
  laneTreeWord w.s .nodeFork 0x145 w.d.toNat (fun i => w.d.toNat :: w.a.toNat :: s.vbreg i w.b)
    (fun i s l => [(s.vsrc i w.a).lane l, (s.vbsrc i w.b).lane l]) s

/-- NODE.RD (R337). -/
def execNodeRd (w : NodeRdF) (s : State) : Host.Outcome State Fault Refusal :=
  laneTreeWord w.s (.nodeRd w.k.toNat) 0x145 w.d.toNat (fun _ => [w.d.toNat, w.a.toNat]) (fun i s l => [(s.vsrc i w.a).lane l]) s

/-- NODE.PAY (R337). -/
def execNodePay (w : VAB) (s : State) : Host.Outcome State Fault Refusal :=
  laneTreeWord w.s .nodePay 0x145 0 (fun _ => [w.a.toNat, w.b.toNat, w.b.toNat + 1])
    (fun i s l => [(s.vsrc i w.a).lane l, (s.vsrc i w.b).lane l, ((s.warpOf i).reg (w.b.toNat + 1)).lane l]) s

/-- KV.SLOT (R340). -/
def execKvSlot (w : V3N) (s : State) : Host.Outcome State Fault Refusal :=
  laneTreeWord w.s .kvSlot 0x145 w.d.toNat (fun i => w.d.toNat :: (w.d.toNat + 1) :: w.a.toNat :: s.vbreg i w.b)
    (fun i s l => [(s.vsrc i w.a).lane l, (s.vbsrc i w.b).lane l]) s

/-- MASKGEN (R351, R352). -/
def execMaskgen (w : V3N) (s : State) : Host.Outcome State Fault Refusal :=
  laneTreeWord w.s (.maskgen false) 0x161 w.d.toNat (fun i => w.d.toNat :: w.a.toNat :: s.vbreg i w.b)
    (fun i s l => [(s.vsrc i w.a).lane l, (s.vbsrc i w.b).lane l]) s

/-- MASKGEN.S (R351, R353). -/
def execMaskgenS (w : V3N) (s : State) : Host.Outcome State Fault Refusal :=
  laneTreeWord w.s (.maskgen true) 0x161 w.d.toNat (fun i => w.d.toNat :: (w.d.toNat + 1) :: w.a.toNat :: s.vbreg i w.b)
    (fun i s l => [(s.vsrc i w.a).lane l, (s.vbsrc i w.b).lane l]) s

end Sys2Proof.Machine
end

