-- ==== Sys2Proof/Machine/Task.lean ====
section
/-! DEFINITION. The task engine (R360 to R381): deques, dependence counters and their automatic enqueue, the priority queues, the bound
registers, and the words of majors 0x35 and 0x36; and what a cancelled set does where it arrives (R344). -/

namespace Sys2Proof.Machine

/-! ## Accesses of the engine (R366) -/

/-- Translate an address for the engine: a translation cause is logged; a software-managed page and an address past the address space fail. With
`blind` the access only writes, and an uncorrectable granule does not make it fail (R213). A decrement of the matrix engine is of class 7 (R23). -/
def taskAt (r : EngReq) (va n : Nat) (a : Acc) (s : State) (blind : Bool := false) : State × Got Leaf :=
  let cls := match r.party with
    | .seq _ => 7
    | _ => 12
  if Nat.ble (2 ^ 56) va then (s, .bad 0x061)
  else
    match s.resolve r.core r.root r.rgen va n a r.prv .device with
    | (t, .ok l) =>
      if l.m then (t, .bad 0x068)
      else
        match t.homeCause (l.at va) n with
        | some c => if blind && c == 0x082 then (t, .ok l) else (t.recordHome r.core cls c (l.at va), .bad c)
        | none => (t, .ok l)
    | (t, .bad c) => (t.logXlat r.core cls c va, .bad c)
    | (t, .later) => (t, .later)

/-- Read bytes for the engine. -/
def taskRead (r : EngReq) (va n : Nat) (s : State) : State × Got (List Byte) :=
  match taskAt r va n .load s with
  | (t, .ok l) => (t, .ok (t.readMem l.key (l.at va) n))
  | (t, .bad c) => (t, .bad c)
  | (t, .later) => (t, .later)

/-- Write bytes whose address has been translated. -/
def taskPut (l : Leaf) (va : Nat) (bs : List Byte) (s : State) : State × Nat := s.homeStore l.key (l.at va) bs

/-- The fields of a record that the engine reads (R360): FLAGS, SUCC, KEY and LTAG. -/
structure TaskRec where
  flags : Nat
  succ : Nat
  key : Nat
  tag : Nat
  deriving DecidableEq, Repr

/-- Read the bytes of a record from `lo` on that an operation needs (R360); one that is not aligned cannot be read as a record. -/
def readRecord (r : EngReq) (va lo n : Nat) (s : State) : State × Got TaskRec :=
  if va % 64 != 0 || va == 0 then (s, .bad 0x062)
  else
    match taskRead r (va + lo) n s with
    | (t, .ok bs) =>
      let x := natOfBytes bs * 2 ^ (8 * lo)
      (t, .ok { flags := bitsOf x 224 32, succ := bitsOf x 256 64, key := bitsOf x 320 64, tag := bitsOf x 384 32 })
    | (t, .bad c) => (t, .bad c)
    | (t, .later) => (t, .later)

/-- SUCC, which TASK.END reads. -/
def readSucc (r : EngReq) (va : Nat) (s : State) : State × Got TaskRec := readRecord r va 0x20 8 s

/-- KEY and LTAG, which an insertion into a priority queue reads. -/
def readKey (r : EngReq) (va : Nat) (s : State) : State × Got TaskRec := readRecord r va 0x28 12 s

/-- FLAGS and LTAG, which are read when a record is popped, stolen or taken. -/
def readTag (r : EngReq) (va : Nat) (s : State) : State × Got TaskRec := readRecord r va 0x1C 24 s

/-! ## Deques (R367, R368, R370) -/

/-- What one operation of an engine comes to: a reply, or not yet. -/
abbrev Reply := State × Option EngReply

/-- The reply with a cause. -/
def EngReply.cause (c v : Nat) : EngReply := { trap := some (c, v) }

/-- A deque header (R367). -/
structure Deque where
  top : Nat
  bot : Nat
  clog : Nat
  buf : Nat
  ok : Bool
  deriving DecidableEq, Repr

/-- The fields of a header, with the check of R368. -/
def dequeOf (bs : List Byte) : Deque :=
  let x := natOfBytes bs
  let top := bitsOf x 0 32
  let bot := bitsOf x 32 32
  let clog := bitsOf x 64 8
  let buf := bitsOf x 128 64
  { top := top, bot := bot, clog := clog, buf := buf
    ok := Nat.ble 1 clog && Nat.ble clog 20 && Nat.ble ((bot + 2 ^ 32 - top) % 2 ^ 32) (2 ^ clog) && buf % 8 == 0 && Nat.blt buf (2 ^ 56) &&
      bitsOf x 72 56 == 0 && bitsOf x 192 320 == 0 }

/-- Entries in a deque. -/
def Deque.count (q : Deque) : Nat := (q.bot + 2 ^ 32 - q.top) % 2 ^ 32

/-- The address of an entry. -/
def Deque.entry (q : Deque) (i : Nat) : Nat := q.buf + 8 * (i % 2 ^ q.clog)

/-- TOP and BOT as the header holds them. -/
def Deque.bytes (q : Deque) : List Byte := bytesOfNat 4 q.top ++ bytesOfNat 4 q.bot

/-- Read a header for an operation that writes it. -/
def readDeque (r : EngReq) (va : Nat) (s : State) : State × Got (Deque × Leaf) :=
  match taskAt r va 64 .store s with
  | (t, .ok l) => (t, .ok (dequeOf (t.readMem l.key (l.at va) 64), l))
  | (t, .bad c) => (t, .bad c)
  | (t, .later) => (t, .later)

/-- TQ.PUSH at the header's home (R368). -/
def dequePush (r : EngReq) (hdr record : Nat) (s : State) : Reply :=
  match readDeque r hdr s with
  | (t, .bad _) => (t, some (.cause 0x184 hdr))
  | (t, .later) => (t, none)
  | (t, .ok (q, l)) =>
    if !q.ok then (t, some (.cause 0x183 hdr))
    else if q.count == 2 ^ q.clog then (t, some (.one r.d 1))
    else
      match taskAt r (q.entry q.bot) 8 .store t true with
      | (u, .bad _) => (u, some (.cause 0x184 (q.entry q.bot)))
      | (u, .later) => (u, none)
      | (u, .ok e) =>
        let v := taskPut e (q.entry q.bot) (bytesOfNat 8 record) u
        let w := taskPut l hdr ({ q with bot := (q.bot + 1) % 2 ^ 32 } : Deque).bytes v.1
        (w.1, some { EngReply.one r.d 0 with ct := max v.2 w.2, ready := max v.2 w.2 })

/-- The reply that carries a record: its address, its tag for a workgroup that takes it (R361), and what a give-back needs (R370). -/
def recordReply (d record : Nat) (x : TaskRec) (c : Nat) : EngReply :=
  { EngReply.two d record with
    ct := c, ready := c, ltag := if x.flags % 2 == 1 then some x.tag else none, record := some { key := x.key, addr := record, tag := x.tag } }

/-- TQ.POP and TQ.STEAL (R368): records with a cancelled tag are discarded. -/
def dequeTake (r : EngReq) (hdr : Nat) (steal : Bool) (l : Leaf) (q0 : Deque) : Nat → Deque → State → Reply
  | 0, _, s => (s, some (.two r.d 0))
  | k + 1, q, s =>
    let put (x : Deque) (t : State) : State × Nat := if x == q0 then (t, 0) else taskPut l hdr x.bytes t
    if q.count == 0 then
      let w := put q s
      (w.1, some { EngReply.two r.d 0 with ct := w.2, ready := w.2 })
    else
      let i := if steal then q.top else (q.bot + 2 ^ 32 - 1) % 2 ^ 32
      let q1 : Deque := if steal then { q with top := (q.top + 1) % 2 ^ 32 } else { q with bot := i }
      match taskRead r (q.entry i) 8 s with
      | (t, .bad _) => (t, some (.cause 0x184 (q.entry i)))
      | (t, .later) => (t, none)
      | (t, .ok bs) =>
        let record := natOfBytes bs
        match readTag r record t with
        | (u, .later) => (u, none)
        | (u, .bad _) => let w := put q1 u; (w.1, some { EngReply.cause 0x184 record with ct := w.2, ready := w.2 })
        | (u, .ok x) =>
          if u.tagCancelled r.die x.tag then dequeTake r hdr steal l q0 k q1 u
          else
            let w := put q1 u
            (w.1, some (recordReply r.d record x w.2))

/-- Whether another operation on the deque that reached the engine in the same cycle comes first (R369): pushes and pops before steals, then
in the order of core, warp id and split-table index. -/
def State.dequeAhead (s : State) (r : EngReq) : Bool :=
  let key (q : EngReq) : Nat := (if q.op == .tqSteal then 2 ^ 32 else 0) + q.rank
  s.reqs.any (fun q =>
    match q with
    | .eng q => (q.op == .tqPush || q.op == .tqPop || q.op == .tqSteal) && q.reply.isNone && q.time == r.time && q.die == r.die &&
        q.vals.head? == r.vals.head? && Nat.blt (key q) (key r) && !s.noRoute (dieOfCore q.core) q.die
    | _ => false)

/-- One operation on a deque (R368). -/
def performDeque (r : EngReq) (s : State) : Reply :=
  let hdr := r.vals.getD 0 0
  if s.noRoute (dieOfCore r.core) r.die || s.opBehind r || s.dequeAhead r then (s, none)
  else if r.op == .tqPush then dequePush r hdr (r.vals.getD 1 0) s
  else
    match readDeque r hdr s with
    | (t, .bad _) => (t, some (.cause 0x184 hdr))
    | (t, .later) => (t, none)
    | (t, .ok (q, l)) => if !q.ok then (t, some (.cause 0x183 hdr)) else dequeTake r hdr (r.op == .tqSteal) l q (q.count + 1) q t

/-- Whether an operation is one on a deque. -/
def EngOp.isDeque (o : EngOp) : Bool := o == .tqPush || o == .tqPop || o == .tqSteal

/-- DEQUE_OPERATION (R368, R369). -/
def execDequeOperation (id : Nat) (s : State) : Host.Outcome State Fault Refusal := serveEng id EngOp.isDeque performDeque s

/-! ## The priority queue (R371, R372) -/

/-- Whether an entry comes before another (R371). -/
def PqEntry.before (a b : PqEntry) : Bool := Nat.blt a.key b.key || (a.key == b.key && Nat.blt a.seq b.seq)

/-- Put an entry in its place. -/
def pqPut (e : PqEntry) : List PqEntry → List PqEntry
  | [] => [e]
  | x :: xs => if e.before x then e :: x :: xs else x :: pqPut e xs

/-- Insert into a die's queue with the next sequence number. -/
def pqInsert (d : Nat) (e : PqEntry) (s : State) : State :=
  s.modDie d (fun x => { x with pq := pqPut { e with seq := x.pqSeq } x.pq, pqSeq := (x.pqSeq + 1) % 2 ^ 32 })

/-- Whether a die's queue has room. -/
def State.pqRoom (s : State) (d : Nat) : Bool := Nat.blt (s.die d).pq.length 65536

/-- Insert, or join the pending list (R364); none when that is full as well. -/
def pqQueue (d : Nat) (e : PqEntry) (s : State) : Option State :=
  let x := s.die d
  if x.pqPend.isEmpty && s.pqRoom d then some (pqInsert d e s)
  else if Nat.blt x.pqPend.length 4096 then some (s.modDie d (fun y => { y with pqPend := y.pqPend ++ [e] }))
  else none

/-- The pending list drains in order as entries free (R364). -/
def pqDrain (d : Nat) : Nat → State → State
  | 0, s => s
  | k + 1, s =>
    match (s.die d).pqPend with
    | [] => s
    | e :: rest => if s.pqRoom d then pqDrain d k (pqInsert d e (s.modDie d (fun x => { x with pqPend := rest }))) else s

/-- Whether a request of an earlier cycle from the same other die to the same queue is still to be served (R219). -/
def State.pqBehind (s : State) (r : EngReq) : Bool :=
  dieOfCore r.core != r.die && s.reqs.any (fun q => match q with
    | .eng q => q.reply.isNone && q.die == r.die && q.object == r.object && dieOfCore q.core == dieOfCore r.core && Nat.blt q.time r.time
    | _ => false)

/-- The task records of a queue's die that are requested, in the order of R369. -/
def State.pqReqs (s : State) (d : Nat) (op : EngOp) : List EngReq :=
  let all := s.reqs.filterMap (fun q => match q with
    | .eng r => if r.op == op && r.die == d && r.reply.isNone && !s.noRoute (dieOfCore r.core) d && !s.pqBehind r then some r else none
    | _ => none)
  all.foldr insertReq []
where
  insertReq (r : EngReq) : List EngReq → List EngReq
    | [] => [r]
    | x :: xs => if Nat.blt x.rank r.rank then x :: insertReq r xs else r :: x :: xs

/-- Give a reply at once. -/
def replyNow (r : EngReq) (p : EngReply) (s : State) : State := answerEng r p s

/-- PQ.INS at its engine (R370, R371). -/
def pqIns (r : EngReq) (s : State) : State :=
  let record := r.vals.getD 0 0
  match readKey r record s with
  | (t, .later) => t
  | (t, .bad _) => replyNow r (.cause 0x184 record) t
  | (t, .ok x) =>
    if t.tagCancelled r.die x.tag then replyNow r (.one r.d 2) t
    else if !t.pqRoom r.die then replyNow r (.one r.d 1) t
    else replyNow r (.one r.d 0) (pqInsert r.die { key := x.key, addr := record, tag := x.tag } t)

/-- PQ.MIN requests take the entries of their ranks (R372), and the tags that their records hold now (R360, R361); an entry whose record cannot
be read stays, one whose tag is cancelled is never returned (R370). -/
def pqMins (d : Nat) : List EngReq → List PqEntry → State → State
  | [], _, s => s
  | r :: rs, [], s => pqMins d rs [] (replyNow r (.two r.d 0) s)
  | r :: rs, e :: es, s =>
    if s.tagCancelled d e.tag then pqMins d (r :: rs) es (s.modDie d (fun y => { y with pq := y.pq.filter (fun z => z != e) }))
    else
    match readTag r e.addr s with
    | (t, .later) => t
    | (t, .bad _) => pqMins d rs es (replyNow r (.cause 0x184 e.addr) t)
    | (t, .ok x) =>
      let u := t.modDie d (fun y => { y with pq := y.pq.filter (fun z => z != e) })
      pqMins d rs es (replyNow r (recordReply r.d e.addr { x with key := e.key } 0) u)

/-- PQ_ROUND (R372): the pending insertions, the cycle's PQ.INS, then up to 64 PQ.MIN; a queue on a lost die answers none of them (0x186), and the engine of
a die that has stopped does nothing (R232, R435). -/
def execPqRound (d : Nat) (s : State) : Host.Outcome State Fault Refusal :=
  if (s.die d).lost.isSome then
    .next (foldState (s.pqReqs d .pqIns ++ s.pqReqs d .pqMin) (fun r t => replyNow r (.cause 0x186 d) t) s)
  else if s.stopped d then .next s
  else
    let t := pqDrain d (s.die d).pqPend.length s
    let u := foldState (t.pqReqs d .pqIns) pqIns t
    .next (pqMins d ((u.pqReqs d .pqMin).take 64) (u.die d).pq u)

/-! ## Dependence counters (R362 to R364, R374) -/

/-- Record a lost record (R380): the cause of a failing read or 0, and the record's address. -/
def recordLost (d detail addr : Nat) (s : State) : State :=
  s.modDie d (fun x => { x with tk := x.tk.record { cause := 0x187, info := detail * 2 ^ 21, addr := addr } })

/-- Subtract from a counter at its home (R363); a firing decrement of an armed block starts the automatic enqueue. -/
def decrement (r : EngReq) (pa n : Nat) (l : Leaf) (s : State) : State × Nat × Nat :=
  let old := s.readNat l.key pa 4
  let new := (old + 2 ^ 32 - n % 2 ^ 32) % 2 ^ 32
  let w := s.homeStore l.key pa (bytesOfNat 4 new)
  let ctl := if pa % 16 == 0 then s.readNat l.key (pa + 4) 4 else 0
  let fires := old != 0 && new == 0 && ctl / 2 ^ 7 % 2 == 1
  let t := if fires then
      { w.1 with autos := w.1.autos ++ [{ pa := pa, key := l.key, ctl := ctl, addr := s.readNat l.key (pa + 8) 8, core := r.core
                                          root := r.root, rgen := r.rgen, prv := r.prv }] }
    else w.1
  (t, old, w.2)

/-- A counter by its virtual address. -/
def counterAt (r : EngReq) (va : Nat) (s : State) : State × Got (Leaf × Nat) :=
  match taskAt r va 4 .store s with
  | (t, .ok l) => (t, .ok (l, l.at va))
  | (t, .bad c) => (t, .bad c)
  | (t, .later) => (t, .later)

/-- The counter of an MCOMMIT, which was translated at issue (R266): its physical address stands unless the home refuses the translation as
stale, which is then made again (R240). A commit that a restore has brought back has its physical address alone (R273; log entry 61). -/
def commitAt (r : EngReq) (s : State) : State × Got (Leaf × Nat) :=
  let pa := r.vals.getD 0 0
  if s.stale r.leaf pa && Nat.blt (r.vals.getD 1 0) (2 ^ 56) then counterAt r (r.vals.getD 1 0) s
  else if r.leaf.m then (s, .bad 0x068)
  else if s.onHold pa || s.homeBusy (dieOfCore r.core) true pa 4 .device then (s.prompt true pa 4, .later)
  else
    match s.homeCause pa 4 with
    | some c => (s.recordHome r.core 7 c pa, .bad c)
    | none => (s, .ok (r.leaf, pa))

/-- DEP.DEC, TASK.END and MCOMMIT at the counter's home (R363, R374). A decrement that the matrix engine sends and that fails is dropped with
the time of the failure (R212). -/
def performDec (r : EngReq) (s : State) : Reply :=
  let go (va n : Nat) (tag : Option Nat) (t : State) : Reply :=
    match (match r.party with
      | .seq _ => commitAt r t
      | _ => counterAt r va t) with
    | (u, .later) => (u, none)
    | (u, .bad _) => (u, some { EngReply.cause 0x184 va with ct := u.failTime (r.vals.getD 0 0) (dieOfCore r.core) })
    | (u, .ok (l, pa)) =>
      let q := decrement r pa n l u
      (q.1, some { EngReply.one r.d q.2.1 with ct := q.2.2, ready := q.2.2, ltag := tag })
  if s.noRoute (dieOfCore r.core) r.die || s.opBehind r then (s, none)
  else
    match r.op with
    | .taskEnd =>
      let record := r.vals.getD 1 0
      let tag : Option Nat := match r.party with
        | .split i => some ((s.launch (s.wgOf i).launch).ltag)
        | _ => none
      match readSucc r record s with
      | (t, .later) => (t, none)
      | (t, .bad _) => (t, some (.cause 0x184 record))
      | (t, .ok x) =>
        if x.succ == 0 then (t, some { EngReply.one r.d 0 with ltag := tag })
        else if x.succ % 4 != 0 then (t, some (.cause 0x184 x.succ))
        else go x.succ 1 tag t
    | _ => go (r.vals.getD 1 0) (r.vals.getD 2 1) none s

/-- DEP_DECREMENT (R363). -/
def execDepDecrement (id : Nat) (s : State) : Host.Outcome State Fault Refusal :=
  serveEng id (fun o => o == .depDec || o == .taskEnd) performDec s

/-- The LOST bit of the CTL that memory holds now is set, and 0x187 is recorded (R364). -/
def autoLost (a : AutoEnq) (detail : Nat) (s : State) : State :=
  let ctl := s.readNat a.key (a.pa + 4) 4
  recordLost (homeDie a.pa) detail a.addr (s.homeStore a.key (a.pa + 4) (bytesOfNat 4 (ctl % 2 ^ 31 + 2 ^ 31))).1

/-- AUTO_ENQUEUE (R364). -/
def execAutoEnqueue (i : Nat) (s0 : State) : Host.Outcome State Fault Refusal :=
  match s0.autos[i]? with
  | none => .next s0
  | some a =>
    let d := homeDie a.pa
    let s := { s0 with autos := s0.autos.eraseIdx i }
    if bitsOf a.ctl 8 23 != 0 || bitsOf a.ctl 3 4 != 0 then .next (recordLost d 0 a.addr s)
    else
      let r : EngReq := { id := 0, party := .device, core := a.core, die := d, op := .pqIns, prv := a.prv, pc := 0, mr := 7
                          root := a.root, rgen := a.rgen }
      match readKey r a.addr s with
      | (_, .later) => .next s0
      | (t, .bad c) => .next (autoLost a c t)
      | (t, .ok x) =>
        let target := a.ctl % 8
        if t.tagCancelled d x.tag || t.tagCancelled target x.tag then .next t
        else if (t.die target).lost.isSome then .next (autoLost a 0 t)
        else
          match pqQueue target { key := x.key, addr := a.addr, tag := x.tag } t with
          | some u => .next u
          | none => .next (autoLost a 0 t)

/-- TASK_GIVE_BACK (R370). -/
def execTaskGiveBack (i : Nat) (s0 : State) : Host.Outcome State Fault Refusal :=
  match s0.gives[i]? with
  | none => .next s0
  | some g =>
    let s := { s0 with gives := s0.gives.eraseIdx i }
    let d := g.req.die
    if s.tagCancelled d g.entry.tag then .next s
    else if g.req.op == .pqMin then
      match pqQueue d g.entry s with
      | some t => .next t
      | none => .next (recordLost d 0 g.entry.addr s)
    else
      match dequePush g.req (g.req.vals.getD 0 0) g.entry.addr s with
      | (_, none) => .next s0
      | (t, some p) =>
        match p.trap with
        | some (c, _) => .next (recordLost d c g.entry.addr t)
        | none => if p.held == (EngReply.one g.req.d 1).held then .next (recordLost d 0 g.entry.addr t) else .next t

/-! ## The words of major 0x35 (R365, R366) -/

/-- Whether an address is aligned and in range (R366). -/
def taskAddrOk (a n : Nat) : Bool := a % n == 0 && Nat.blt a (2 ^ 56)

/-- The frame of a word of major 0x35: the operand checks, the release, then the request to a die. -/
def taskWord (release : Bool) (op : EngOp) (d : Nat) (vals : List (Option Nat)) (check : List Nat → State → Option (Nat × Nat))
    (home : List Nat → Nat → State → State × Got Nat) (s : State) : Host.Outcome State Fault Refusal :=
  issueWord true (afterLoads (fun i s =>
    if vals.any Option.isNone then (s, .trap 0x182 0)
    else
      let vs := vals.map (fun v => v.getD 0)
      match check vs s with
      | some (c, v) => (s, .trap c v)
      | none =>
        if release && s.scopeUnsync (dieOfCore (s.coreOf i)) 2 then (s, .trap 0x067 2)
        else
          match (if release then s.fenceWait i 2 else none) with
          | some c => (s, .wait c)
          | none =>
            match home vs i s with
            | (t, .bad v) => (t, .trap 0x184 v)
            | (t, .later) => (t.unlogged s, .wait t.memWait)
            | (t, .ok die) =>
              let (u, id) := t.sendEng (t.engOf i op die d vs [])
              (u, .done [.mark (t.split i).pc, .await id]))) s

/-- The die that homes an address, for the workgroup that names it; an address that does not translate fails. -/
def homeOfVa (va : Nat) (a : Acc) (i : Nat) (s : State) : State × Got Nat :=
  let g := s.wgOf i
  match s.translate g.core g.troot g.trgen va a (s.split i).prv with
  | (t, .leaf l) => (t, .ok (homeDie (l.at va)))
  | (t, .fault c) => (t.logXlat g.core 12 c va, .bad va)
  | (t, _) => (t, .later)

/-- TQ.PUSH (R365, R368). -/
def execTqPush (w : SDAB) (s : State) : Host.Outcome State Fault Refusal :=
  taskWord true .tqPush w.d.toNat [s.spair s.who.split w.a.toNat, s.spair s.who.split w.b.toNat]
    (fun vs _ =>
      let h := vs.getD 0 0
      let r := vs.getD 1 0
      if !taskAddrOk h 64 then some (0x181, h) else if !taskAddrOk r 64 || r == 0 then some (0x181, r) else none)
    (fun vs i t => homeOfVa (vs.getD 0 0) .store i t) s

/-- The check of the one deque header that TQ.POP and TQ.STEAL name. -/
def headerCheck (vs : List Nat) (_ : State) : Option (Nat × Nat) :=
  if taskAddrOk (vs.getD 0 0) 64 then none else some (0x181, vs.getD 0 0)

/-- TQ.POP (R365, R368). -/
def execTqPop (w : SDA) (s : State) : Host.Outcome State Fault Refusal :=
  taskWord false .tqPop w.d.toNat [s.spair s.who.split w.a.toNat] headerCheck (fun vs i t => homeOfVa (vs.getD 0 0) .store i t) s

/-- TQ.STEAL (R365, R368). -/
def execTqSteal (w : SDA) (s : State) : Host.Outcome State Fault Refusal :=
  taskWord false .tqSteal w.d.toNat [s.spair s.who.split w.a.toNat] headerCheck (fun vs i t => homeOfVa (vs.getD 0 0) .store i t) s

/-- The value of a scalar operand. -/
def State.snat (s : State) (r : BitVec 6) : Option Nat :=
  match s.sbsrc s.who.split r with
  | .val v => some v.toNat
  | .poison => none

/-- The check of a die operand (R366). -/
def dieCheck (s : State) (d : Nat) : Option (Nat × Nat) := if Nat.blt d 8 && (s.die d).lost.isNone then none else some (0x186, d)

/-- PQ.INS (R365, R371). -/
def execPqIns (w : SDAB) (s : State) : Host.Outcome State Fault Refusal :=
  taskWord true .pqIns w.d.toNat [s.spair s.who.split w.a.toNat, s.snat w.b]
    (fun vs t =>
      let r := vs.getD 0 0
      if !taskAddrOk r 64 || r == 0 then some (0x181, r) else dieCheck t (vs.getD 1 0))
    (fun vs _ t => (t, .ok (vs.getD 1 0))) s

/-- PQ.MIN (R365, R372). -/
def execPqMin (w : SDB) (s : State) : Host.Outcome State Fault Refusal :=
  taskWord false .pqMin w.d.toNat [s.snat w.b] (fun vs t => dieCheck t (vs.getD 0 0)) (fun vs _ t => (t, .ok (vs.getD 0 0))) s

/-- The check of a counter's address. -/
def counterCheck (vs : List Nat) (_ : State) : Option (Nat × Nat) :=
  if taskAddrOk (vs.getD 1 0) 4 then none else some (0x181, vs.getD 1 0)

/-- DEP.DEC (R363, R365). -/
def execDepDec (w : SDAB) (s : State) : Host.Outcome State Fault Refusal :=
  taskWord true .depDec w.d.toNat [some 0, s.spair s.who.split w.a.toNat, s.snat w.b] counterCheck
    (fun vs i t => homeOfVa (vs.getD 1 0) .store i t) s

/-- TASK.END (R365, R374). -/
def execTaskEnd (w : SDA) (s : State) : Host.Outcome State Fault Refusal :=
  taskWord true .taskEnd w.d.toNat [some 0, s.spair s.who.split w.a.toNat]
    (fun vs _ => if taskAddrOk (vs.getD 1 0) 64 && vs.getD 1 0 != 0 then none else some (0x181, vs.getD 1 0))
    (fun vs i t => homeOfVa (vs.getD 1 0) .load i t) s

/-- DEP.WAIT (R373): the word reads COUNT at its home, with the V of what it reads (R196, R201), a store to it that the core's L1 has accepted
comes first (R197, R199), and an older leased copy of the word goes (R199). While COUNT is not 0 the split is registered there: each write to the word tests it again (R363). -/
def execDepWait (w : SA) (s : State) : Host.Outcome State Fault Refusal :=
  issueWord true (afterLoads (fun i s =>
    match s.spair i w.a.toNat with
    | none => (s, .trap 0x182 0)
    | some va =>
      if !taskAddrOk va 4 then (s, .trap 0x181 va)
      else
        let r := s.engOf i .depDec 0 0 [] []
        match taskAt r va 4 .load s with
        | (t, .bad _) => (t, .trap 0x184 va)
        | (t, .later) => (t.unlogged s, .wait t.memWait)
        | (t, .ok l) =>
          let pa := l.at va
          match t.acceptedWrites (t.l1Core (s.coreOf i) pa) (spanOf pa 4) with
          | q :: _ => (t.stallOn q.id |>.unlogged s, .wait (.answered q.id))
          | [] =>
          let u := (t.joinG (.split i) (t.readV (spanOf pa 4))).dropL1 (t.l1Core (s.coreOf i) pa) (spanOf pa 4)
          if t.readNat l.key pa 4 == 0 then (u, .done []) else (u, .wait (.counterZero l.key pa)))) s

/-! ## Bound registers (R377, R378) -/

/-- A register of a list of eight. -/
def State.bound (s : State) (c k : Nat) : Nat := (s.bounds.getD c []).getD k 0

/-- Write a bound register. -/
def putBound (c k v : Nat) (s : State) : State := { s with bounds := s.bounds.modify c (fun l => l.set k v) }

/-- Change what each of the four cores of a cluster holds. -/
def eachCore (c : Nat) (f : Core → Core) (s : State) : State := foldState (List.range 4) (fun j z => z.modCore (4 * c + j) f) s

/-- The bound unit writes a register and sends the new value to the copy on each of the cluster's cores (R378). -/
def sendBound (c k v : Nat) (s : State) : State :=
  eachCore c (fun x => { x with bndWay := x.bndWay ++ [{ k := k, val := v, time := s.nowCore (4 * c) }] }) (putBound c k v s)

/-- The oldest value on its way to a core's copy of a bound register arrives there; a BND.MIN of the core that has been applied returns once
the copy is no greater than its operand (R378). -/
def copyBound (core k : Nat) (s : State) : State :=
  match (s.core core).bndWay.find? (fun w => w.k == k) with
  | none => s
  | some w =>
    let t := s.modCore core (fun x => { x with bnd := x.bnd.set k w.val, bndWay := x.bndWay.erase w })
    let done := t.reqs.filterMap (fun q => match q with
      | .eng r => if r.op == .bndMin k && r.core == core && r.reply.isSome && Nat.ble w.val (r.vals.getD 0 0) then some r else none
      | _ => none)
    foldState done (fun r z => answerEng r {} z) t

/-- A bound register and the copies on the cluster's cores take a value at once, after those that are on their way: what a launch asks for (R391). -/
def setBound (c k v : Nat) (s : State) : State :=
  let t := foldState (List.range 4) (fun j z =>
    foldState ((z.core (4 * c + j)).bndWay.filter (fun w => w.k == k)) (fun _ y => copyBound (4 * c + j) k y) z) s
  eachCore c (fun x => { x with bnd := x.bnd.set k v }) (putBound c k v t)

/-- Every value that was applied 20 ns ago or longer has arrived (R378). -/
def landBounds (s : State) : State :=
  let due (core : Nat) (w : BndSent) : Bool := Nat.ble (w.time + 320) (s.nowCore core)
  foldState (idxsOf s.cores (fun x => !x.bndWay.isEmpty)) (fun core t =>
    foldState ((s.core core).bndWay.filter (due core)) (fun w z => copyBound core w.k z) t) s

/-- BND.MIN (R377, R378). -/
def execBndMin (w : BndAF) (s : State) : Host.Outcome State Fault Refusal :=
  issueWord w.s (afterLoads (fun i s =>
    match s.spair i w.a.toNat with
    | none => (s, .trap 0x182 0)
    | some v =>
      let (t, id) := s.sendEng (s.engOf i (.bndMin w.k.toNat) (dieOfCore (s.coreOf i)) 0 [v] [])
      (t, .done [.await id]))) s

/-- BND.RD (R377, R378): it reads the copy on the issuing core. -/
def execBndRd (w : BndDF) (s : State) : Host.Outcome State Fault Refusal :=
  issueWord w.s (fun i s => (s, .done (pairSet w.d.toNat ((s.core (s.coreOf i)).bnd.getD w.k.toNat 0)))) s

/-- BND.SET (R377, R378): privileged. -/
def execBndSet (w : BndAF) (s : State) : Host.Outcome State Fault Refusal :=
  issueWord w.s (privileged (afterLoads (fun i s =>
    match s.spair i w.a.toNat with
    | none => (s, .trap 0x182 0)
    | some v => ((s.sendEng (s.engOf i (.bndSet w.k.toNat) (dieOfCore (s.coreOf i)) 0 [v] [])).1, .done [])))) s

/-- The updates of a bound register that arrived in the cycle of the oldest one, in the order of R378. -/
def State.boundReqs (s : State) (c : Nat) (op : EngOp) (time : Nat) : List EngReq :=
  let all := s.reqs.filterMap (fun q => match q with
    | .eng r => if r.op == op && clusterOfCore r.core == c && r.time == time && r.reply.isNone then some r else none
    | _ => none)
  all.foldr State.pqReqs.insertReq []

/-- A BND.MIN that has been applied returns at once where the issuing core's copy is no greater than its operand (R378). -/
def minApplied (k : Nat) (r : EngReq) (s : State) : State :=
  if Nat.ble ((s.core r.core).bnd.getD k 0) (r.vals.getD 0 0) then answerEng r {} s else s.setEng { r with reply := some {} }

/-- BOUND_UPDATE (R378): of the words that arrived in one cycle every BND.SET is applied first, then every BND.MIN. -/
def execBoundUpdate (c k : Nat) (s : State) : Host.Outcome State Fault Refusal :=
  match s.reqs.findSome? (fun q => match q with
    | .eng r => if (r.op == .bndMin k || r.op == .bndSet k) && clusterOfCore r.core == c && r.reply.isNone then some r.time else none
    | _ => none) with
  | none => .next s
  | some time =>
    let sets := s.boundReqs c (.bndSet k) time
    let mins := s.boundReqs c (.bndMin k) time
    let base := (sets.getLast?.map (fun r => r.vals.getD 0 0)).getD (s.bound c k)
    let v := mins.foldl (fun m r => min m (r.vals.getD 0 0)) base
    .next (foldState mins (minApplied k) (foldState sets (fun r t => answerEng r {} t) (sendBound c k v s)))

/-! ## What a cancelled set does (R298, R344, R370, R413) -/

/-- A slot of a die's collective engine. -/
def State.coll (s : State) (d k : Nat) : Option Coll := ((s.die d).colls.getD k none)

/-- Change a slot of a die's collective engine. -/
def State.setColl (s : State) (d k : Nat) (c : Option Coll) : State := s.modDie d (fun x => { x with colls := x.colls.set k c })

/-- A collective that has not ended fails at a rank (R413): the cause found first stands, and every other rank is sent ABORT. -/
def failColl (d k code : Nat) (s : State) : State :=
  match s.coll d k with
  | none => s
  | some c =>
    if c.fail.isSome || c.said.isSome then s
    else
      let others := (List.range c.ranks.length).filter (fun r => r != c.rank)
      let t := { s with fabric := s.fabric ++ others.map (fun r => FabPacket.abort d (c.ranks.getD r (0, 0)) c.team c.seq c.rank code) }
      t.setColl d k (some { c with fail := some code })

/-- The set reaches a die (R344): its workgroups with a matching LTAG are cancelled, copies and collectives with a matching tag stop, queued
records with a matching tag are removed. -/
def cancelArrive (d i : Nat) (s : State) : State :=
  match s.cancels[i]? with
  | none => s
  | some c =>
    if c.arrived.getLsbD d || (s.die d).lost.isSome || Nat.blt (s.nowDie (c.tree % 8)) c.sent then s
    else
      let tc := s.nowDie d
      let t := { s with cancels := s.cancels.set i { c with arrived := c.arrived ||| BitVec.ofNat 8 (2 ^ d) } }
      let mine := s.residentWgs.filter (fun g => dieOfCore (s.wg g).core == d && c.hits (s.wg g).ltag)
      let u := foldState mine (fun g z => cancelWork g tc z) t
      let v0 := stopCopies (fun x => dieOfCore x.core == d && c.hits x.ltag) u
      let posted := idxsOf (v0.die d).colls (fun k => k.any (fun x => c.hits x.ltag))
      let v := foldState posted (fun k z => failColl d k 0x1C7 z) v0
      v.modDie d (fun x => { x with pq := x.pq.filter (fun e => !c.hits e.tag), pqPend := x.pqPend.filter (fun e => !c.hits e.tag) })

/-- CANCEL_ARRIVAL (R344). -/
def execCancelArrival (d i : Nat) (s : State) : Host.Outcome State Fault Refusal := .next (cancelArrive d i s)

/-- One workgroup of a launch that a cause has ended is discarded, as under R133 (R395); one that is saved is dropped, once no header of it is to be
cleared (R401). -/
def discardMember (g : Nat) (s : State) : State :=
  let w := s.wg g
  match w.phase with
  | .running => if w.creq.isSome then s else stopCopies (fun c => c.wg == g) (cancelWork g (s.nowCore w.core) s)
  | .placed => discardWg g s
  | .saved => if w.revoke.isEmpty then discardWg g s else s
  | .free => s

/-- The workgroups of launches that a cause has ended are discarded (R395, R402). -/
def State.discardEnded (s : State) : State :=
  if s.launches.any (fun l => l.live && l.ended.isSome) then
    foldState (idxsOf s.wgs (fun w => w.phase != .free && (s.launch w.launch).live && (s.launch w.launch).ended.isSome)) discardMember s
  else s

/-- What is done no later than its bounds: a cancelled set reaches every die that can be told within 250 ns of the end of marking, and 2 µs later
what still runs is killed (R133, R344, R345); the writes of what is discarded are applied or dropped within 500 ns (R344), and by T_done a copy that the
set has stopped has released its spans (R345); a bound register's value reaches the copies within 20 ns (R378). -/
def State.meetBounds (s : State) : State :=
  let t := if s.cancels.isEmpty then s else
    foldState (List.range s.cancels.length) (fun i z => foldState (List.range 8) (fun d y =>
      match y.cancels[i]? with
      | some c => if Nat.ble (c.sent + 4000) (y.nowDie d) && !y.noRoute (c.tree % 8) d then cancelArrive d i y else y
      | none => y) z) s
  let u := foldState (idxsOf t.wgs (fun w => w.phase == .running && w.creq.isSome)) cancelKill t
  let v := foldState u.drainDue drainCopy (foldState u.overdue settleOrphan u)
  landBounds v

end Sys2Proof.Machine
end

