-- ==== Sys2Proof/Machine/Collective.lean ====
section
/-! DEFINITION. The collective engine and the fabric ports (R404 to R419): collectives, remote loads and stores, the fabric bound, and the
words of major 0x37. -/

namespace Sys2Proof.Machine

/-! ## Ports (R404, R405) -/

/-- Whether a die has a live port. -/
def State.portUp (s : State) (d : Nat) : Bool := (s.die d).ports.any (fun p => p.up)

/-- The die by whose ports a die's packets leave: itself, or the nearest across the mesh that has a live port; of two that are equally near, the lower
(R405; log entry 66). -/
def State.exitDie (s : State) (d : Nat) : Option Nat :=
  ((List.range 8).foldl (fun (b : Option (Nat × Nat)) e =>
    match (if s.portUp e then s.hops d e else none) with
    | some h => if b.all (fun (p : Nat × Nat) => Nat.blt h p.1) then some (h, e) else b
    | none => b) none).map Prod.snd

/-- Whether a die's packets have a way to the fabric (R405). -/
def State.fabPath (s : State) (d : Nat) : Bool := (s.exitDie d).isSome

/-- The port, as its die and number, by which a die's packets for an endpoint leave (R405): chosen by a fixed hash of the endpoint over the live ports of
the die that they leave by. -/
def State.exitPort (s : State) (d : Nat) (to_ : Nat × Nat) : Option (Nat × Nat) :=
  (s.exitDie d).bind (fun e =>
    let live := idxsOf (s.die e).ports (fun p => p.up)
    live[Config.portHash to_ % live.length]?.map (fun p => (e, p)))

/-- Change a port. -/
def State.modPort (s : State) (d p : Nat) (f : Port → Port) : State := s.modDie d (fun x => { x with ports := x.ports.modify p f })

/-- Record a fault of a die's collective engine in CEFSTAT (R406). -/
def recordCe (d cause : Nat) (s : State) : State := s.modDie d (fun x => { x with ce := x.ce.record { cause := cause } })

/-! ## The engine's own accesses -/

/-- What an access of the engine carries: the core, root and privilege of the party it acts for. -/
structure CeCtx where
  core : Nat
  root : Nat
  rgen : Nat
  prv : Bool
  deriving DecidableEq, Repr

/-- Translate an address for the engine, and check its home. An owning agent may not write a software-managed page (R206), and what only writes
does not fail on an uncorrectable granule (R213). -/
def ceAt (c : CeCtx) (va n : Nat) (a : Acc) (s : State) (blind : Bool := false) : State × Got Leaf :=
  if Nat.ble (2 ^ 56) va then (s, .bad 0x061)
  else
    match s.resolve c.core c.root c.rgen va n a c.prv .device with
    | (t, .ok l) =>
      if l.m && a == .store then (t, .bad 0x068)
      else
        match t.homeCause (l.at va) n with
        | some k => if blind && k == 0x082 then (t, .ok l) else (t.recordHome c.core 14 k (l.at va), .bad k)
        | none => (t, .ok l)
    | (t, .bad k) => (t.logXlat c.core 14 k va, .bad k)
    | (t, .later) => (t, .later)

/-- Read bytes for the engine, one block at a time. -/
def ceRead (c : CeCtx) : Nat → Nat → Nat → State → State × Got (List Byte)
  | 0, _, _, s => (s, .ok [])
  | k + 1, va, n, s =>
    if n == 0 then (s, .ok [])
    else
      let m := min n (256 - va % 256)
      match ceAt c va m .load s with
      | (t, .bad x) => (t, .bad x)
      | (t, .later) => (t, .later)
      | (t, .ok l) =>
        match ceRead c k (va + m) (n - m) t with
        | (u, .ok bs) => (u, .ok (t.readMem l.key (l.at va) m ++ bs))
        | (u, r) => (u, r)

/-- Write bytes for the engine as an owning agent, one block at a time (R203): how many bytes are written, the largest C, and the cause that ended
it; with neither a cause nor every byte, a home held it back. -/
def ceWrite (c : CeCtx) : Nat → Nat → List Byte → State → State × Nat × Nat × Option Nat
  | 0, _, _, s => (s, 0, 0, none)
  | k + 1, va, bs, s =>
    if bs.isEmpty then (s, 0, 0, none)
    else
      let m := min bs.length (256 - va % 256)
      match ceAt c va m .store s true with
      | (t, .bad x) => (t, 0, 0, some x)
      | (t, .later) => (t, 0, 0, none)
      | (t, .ok l) =>
        let w := t.homeStore l.key (l.at va) (bs.take m)
        let r := ceWrite c k (va + m) (bs.drop m) w.1
        (r.1, m + r.2.1, max w.2 r.2.2.1, r.2.2.2)

/-! ## Descriptors (R407, R408) -/

/-- The bytes of an element of a TYPE. -/
def elemBytes (type : Nat) : Nat :=
  match type / 16 % 4 with
  | 0 => 4
  | 1 => 8
  | _ => 2

/-- Whether the operation and the element of a TYPE go together; all-gather ignores the operation (R408). -/
def typeOk (kind type : Nat) : Bool :=
  type % 16 / 8 == 0 && Nat.blt type 64 && (kind == 1 || (if type % 8 == 7 then type / 16 != 1 else Nat.blt (type / 16) 2))

/-- A collective from the bytes of its descriptor and of its team (R407, R408); none when either is outside those rules, as a team is that names a die
at two ranks. -/
def collOf (kind desc d fabid : Nat) (g : Option Nat) (ltag now : Nat) (c : CeCtx) (db tb : List Byte) : Option Coll :=
  let x := natOfBytes db
  let y := natOfBytes tb
  let n := bitsOf y 0 32
  let rank := bitsOf y 32 32
  let ends := (List.range n).map (fun r => bitsOf y (512 + 64 * r) 64)
  let count := bitsOf x 192 32
  let type := bitsOf x 224 32
  let done := bitsOf x 256 64
  let tmo := bitsOf x 352 32
  if Nat.blt rank n && bitsOf y 96 416 == 0 && ends.all (fun e => e / 2 ^ 19 == 0) && ends.getD rank 0 == d * 2 ^ 16 + fabid &&
      ends.eraseDups.length == ends.length &&
      Nat.ble 1 count && Nat.ble count (2 ^ 28) && typeOk kind type && done % 4 == 0 && Nat.ble 1 tmo && Nat.ble tmo 1000000 &&
      bitsOf x 416 96 == 0 then
    some { kind := kind, desc := desc, team := bitsOf y 64 32, seq := bitsOf x 384 32
           ranks := ends.map (fun e => (e % 2 ^ 16, e / 2 ^ 16)), rank := rank, count := count, type := type
           src := bitsOf x 64 64, dst := bitsOf x 128 64, done := done, tmo := tmo, ltag := ltag, wg := g
           core := c.core, root := c.root, rgen := c.rgen, prv := c.prv, posted := now }
  else none

/-- Whose accesses a collective's engine makes. -/
def Coll.ctx (c : Coll) : CeCtx := { core := c.core, root := c.root, rgen := c.rgen, prv := c.prv }

/-- The bytes of one rank block. -/
def Coll.block (c : Coll) : Nat := c.count * elemBytes c.type

/-! ## The words (R409, R410) -/

/-- The frame of every word of the major: 0x1C9 without a usable fabric (R409). -/
def fabricWord (body : Nat → State → State × Out) : Nat → State → State × Out :=
  afterLoads (fun i s =>
    let d := dieOfCore (s.coreOf i)
    if !(s.die d).fabEn || s.epsFab d == noBound then (s, .trap 0x1C9 0) else body i s)

/-- Write the value of STATUS. -/
def writeStatus (c : Coll) (v : Nat) (s : State) : State × Got Nat :=
  let r := ceWrite c.ctx 2 (c.desc + 0x28) (bytesOfNat 4 v) s
  (r.1, if r.2.1 == 4 then .ok r.2.2.1 else match r.2.2.2 with
    | some k => .bad k
    | none => .later)

/-- Post a collective (R410): the release, the descriptors, then a free slot. One whose tag is cancelled fails as it starts (R344, R413). -/
def collWord (kind : Nat) (w : SDA) (s : State) : Host.Outcome State Fault Refusal :=
  issueWord true (fabricWord (fun i s =>
    match s.spair i w.a.toNat with
    | none => (s, .trap 0x1C1 0)
    | some va =>
      if va % 64 != 0 || Nat.ble (2 ^ 56) va then (s, .trap 0x1C1 0)
      else
        match s.fenceWait i 2 with
        | some c => (s, .wait c)
        | none =>
          let g := s.wgOf i
          let d := dieOfCore g.core
          let c : CeCtx := { core := g.core, root := g.troot, rgen := g.trgen, prv := (s.split i).prv }
          let bad (t : State) : State × Out := (t, .trap 0x1C2 0)
          match ceRead c 1 va 64 s with
          | (t, .bad _) => bad t
          | (t, .later) => (t.unlogged s, .wait t.memWait)
          | (t, .ok db) =>
            let team := natOfBytes (db.take 8)
            if team % 64 != 0 || Nat.ble (2 ^ 56) team then bad t
            else
              match ceRead c 1 team 64 t with
              | (u, .bad _) => bad u
              | (u, .later) => (u.unlogged s, .wait u.memWait)
              | (u, .ok tb) =>
                let n := natOfBytes (tb.take 4)
                if Nat.blt n 2 || Nat.blt 4096 n then bad u
                else
                  match ceRead c 130 (team + 64) (8 * n) u with
                  | (v, .bad _) => bad v
                  | (v, .later) => (v.unlogged s, .wait v.memWait)
                  | (v, .ok es) =>
                    match collOf kind va d (v.die d).fabid (some (v.wgIdxOf i)) g.ltag (v.nowDie d) c db (tb ++ es) with
                    | none => bad v
                    | some p =>
                      let said (n : Nat) : Out := .done [.sset w.d.toNat (.val (BitVec.ofNat 32 n))]
                      match (idxsOf (v.die d).colls Option.isNone).head? with
                      | none => (v, said 1)
                      | some k =>
                        match writeStatus p 0xFFFFFFFF (v.setColl d k (some p)) with
                        | (z, .later) => ((z.setColl d k none).unlogged s, .wait z.memWait)
                        | (z, .bad _) => (failColl d k 0x1CA z, said 0)
                        | (z, .ok _) => (if z.tagCancelled d g.ltag then failColl d k 0x1C7 z else z, said 0))) s

/-- COLL.AR (R409, R410). -/
def execCollAr (w : SDA) (s : State) : Host.Outcome State Fault Refusal := collWord 0 w s

/-- COLL.AG (R409, R410). -/
def execCollAg (w : SDA) (s : State) : Host.Outcome State Fault Refusal := collWord 1 w s

/-- COLL.RS (R409, R410). -/
def execCollRs (w : SDA) (s : State) : Host.Outcome State Fault Refusal := collWord 2 w s

/-! ## Results (R411) -/

/-- The exact sum of terms of a format rounded once to it in RNE (R118, R411). -/
def sumFmt (t : FFmt) (terms : List FVal) : Nat :=
  let pinf := terms.any (fun x => x == .inf false)
  let ninf := terms.any (fun x => x == .inf true)
  if terms.any FVal.isNan || (pinf && ninf) then t.nan
  else if pinf then t.infCode
  else if ninf then t.sign true + t.infCode
  else
    let d := dySum (terms.map FVal.dy)
    if d.n == 0 then t.sign (terms.all (fun x => x.isZero && x.neg)) else (t.finish .plain d.isNeg d.mag).1

/-- The combination of elements in rank order (R411). -/
def combine (type : Nat) (xs : List Nat) : Nat :=
  let n := elemBytes type
  let fold (f : AtomFn) : Nat :=
    match xs with
    | [] => 0
    | x :: rest => rest.foldl (fun a b => atomNew f n a b 0) x
  match type % 8 with
  | 0 => fold .add
  | 1 => fold .umin
  | 2 => fold .umax
  | 3 => fold .smin
  | 4 => fold .smax
  | 5 => fold .and
  | 6 => fold .or
  | _ =>
    let t := match type / 16 with
      | 0 => FFmt.fp32
      | 2 => FFmt.fp16
      | _ => FFmt.bf16
    sumFmt t (xs.map t.unpack)

/-- Block k of a list of bytes. -/
def blockOf (n k : Nat) (bs : List Byte) : List Byte := (bs.drop (n * k)).take n

/-- What rank `r` sends to rank `to_`: the block of SRC that the other needs (R411). -/
def Coll.packet (c : Coll) (src : List Byte) (to_ : Nat) : CollPacket :=
  { kind := c.kind, count := c.count, type := c.type, nrank := c.ranks.length
    data := if c.kind == 2 then blockOf c.block to_ src else src }

/-- The blocks of every rank, in rank order, once every rank has joined. -/
def Coll.blocks (c : Coll) : Option (List (List Byte)) :=
  match c.own with
  | none => none
  | some src =>
    (List.range c.ranks.length).mapM (fun r =>
      if r == c.rank then some (c.packet src r).data else (c.joined.find? (fun p => p.1 == r)).map (fun p => p.2))

/-- The bytes of DST (R411). -/
def Coll.result (c : Coll) (blocks : List (List Byte)) : List Byte :=
  if c.kind == 1 then blocks.flatten
  else
    let n := elemBytes c.type
    (List.range c.count).flatMap (fun j => bytesOfNat n (combine c.type (blocks.map (fun b => natOfBytes (blockOf n j b)))))

/-! ## The engine's steps (R411 to R414) -/

/-- Whether a rank's endpoint lies in this package, as its die sees it. -/
def State.ownEnd (s : State) (d : Nat) (e : Nat × Nat) : Bool := e.1 == (s.die d).fabid

/-- Take a packet between two ranks of this package off the fabric. -/
def State.takePacket? (s : State) (p : FabPacket → Bool) : Option (FabPacket × State) :=
  match s.fabric.find? p with
  | some x => some (x, { s with fabric := s.fabric.erase x })
  | none => none

/-- A rank's packet joins a collective (R411), or shows that the ranks disagree (R413). -/
def joinColl (d k rank : Nat) (pkt : CollPacket) (s : State) : State :=
  match s.coll d k with
  | none => s
  | some c =>
    if pkt.kind != c.kind || pkt.count != c.count || pkt.type != c.type || pkt.nrank != c.ranks.length then failColl d k 0x1C4 s
    else if pkt.data.length != c.block then s
    else s.setColl d k (some { c with joined := c.joined ++ [(rank, pkt.data)] })

/-- COLL_PEER_PACKET (R411, R413): from a rank of another package as it arrives, from a rank of this one as that rank has sent it. -/
def execCollPeerPacket (d k rank : Nat) (pkt : CollPacket) (s : State) : Host.Outcome State Fault Refusal :=
  match s.coll d k with
  | none => .next s
  | some c =>
    if s.stopped d || c.fail.isSome || rank == c.rank || Nat.ble c.ranks.length rank || c.joined.any (fun p => p.1 == rank) then .next s
    else if s.ownEnd d (c.ranks.getD rank (0, 0)) then
      let mine (p : FabPacket) : Bool := match p with
        | .coll _ e team seq r _ => e == c.ranks.getD c.rank (0, 0) && team == c.team && seq == c.seq && r == rank
        | _ => false
      match s.takePacket? mine with
      | some (.coll _ _ _ _ _ q, t) => .next (joinColl d k rank q t)
      | _ => .next s
    else .next (joinColl d k rank pkt s)

/-- Whether a packet of the fabric is for a collective, at its rank. -/
def Coll.packetFor (c : Coll) : FabPacket → Bool
  | .coll _ e team seq _ _ | .abort _ e team seq _ _ => e == c.ranks.getD c.rank (0, 0) && team == c.team && seq == c.seq
  | _ => false

/-- The slot of a collective is free (R412): its workgroup reports its largest C and may retire (R414). -/
def freeColl (d k : Nat) (c : Coll) (s : State) : State :=
  let w := { s.setColl d k none with fabric := s.fabric.filter (fun p => !c.packetFor p) }
  match c.wg with
  | none => w
  | some g => tryRetire g (w.modWg g (fun x => { x with report := max x.report c.latest }))

/-- The engine writes STATUS at the end of a collective (R412, R413), once DONE is known to be accessible: one that is not fails the collective. -/
def sayStatus (d k : Nat) (c : Coll) (s : State) : State :=
  match ceAt c.ctx c.done 4 .store s with
  | (t, .later) => t.unlogged s
  | (t, got) =>
    if (match got with
        | .ok _ => false
        | _ => true) && c.fail.isNone then failColl d k 0x1CA t
    else
      match writeStatus c (c.fail.getD 0) t with
      | (u, .later) => u.unlogged s
      | (u, .ok w) => u.setColl d k (some { c with said := some w })
      | (u, .bad _) => u.setColl d k (some { c with said := some 0 })

/-- The decrement of DONE and the free slot (R412). A DONE that cannot be written now fails the collective, or, after a failure, is recorded and
left (R413). -/
def decrementDone (d k : Nat) (c : Coll) (s : State) : State :=
  match ceAt c.ctx c.done 4 .store s with
  | (t, .later) => t.unlogged s
  | (t, .bad _) => if c.fail.isNone then failColl d k 0x1CA (t.setColl d k (some { c with said := none })) else freeColl d k c (recordCe d 0x1CA t)
  | (t, .ok l) =>
    let r : EngReq := { id := 0, party := .device, core := c.core, die := d, op := .depDec, prv := c.prv, pc := 0, mr := 7
                        root := c.root, rgen := c.rgen }
    freeColl d k c (decrement r (l.at c.done) 1 l t).1

/-- The end of a collective at a rank (R412, R413): STATUS; then, as a release at dev scope that covers it (R187, R412), the decrement of DONE. -/
def finishColl (d k : Nat) (c : Coll) (s : State) : State :=
  match c.said with
  | none => sayStatus d k c s
  | some w => if Nat.ble (w + s.epsRelease d 2) (s.nowDie d) then decrementDone d k c s else s

/-- Read this rank's SRC and send every other rank what it needs (R411, R412). -/
def sendSource (d k : Nat) (c : Coll) (s : State) : State :=
  let n := c.block * (if c.kind == 2 then c.ranks.length else 1)
  match ceRead c.ctx (n / 256 + 2) c.src n s with
  | (t, .later) => t.unlogged s
  | (t, .bad _) => failColl d k 0x1CA t
  | (t, .ok src) =>
    if !t.fabPath d then failColl d k 0x1C6 t
    else
      let others := (List.range c.ranks.length).filter (fun r => r != c.rank)
      let u := { t with fabric := t.fabric ++ others.map (fun r => FabPacket.coll d (c.ranks.getD r (0, 0)) c.team c.seq c.rank (c.packet src r)) }
      u.setColl d k (some { c with own := some src })

/-- Write what is left of DST (R412). -/
def writeResult (d k : Nat) (c : Coll) (bs : List Byte) (s : State) : State :=
  let r := ceWrite c.ctx (bs.length / 256 + 2) (c.dst + c.sent) (bs.drop c.sent) s
  let t := r.1.setColl d k (some { c with sent := c.sent + r.2.1, latest := max c.latest r.2.2.1 })
  if r.2.2.2.isSome then failColl d k 0x1CA t else t

/-- COLL_RANK_COMPLETE (R411 to R413): the engine's next step for a slot: SRC is read and sent; once every rank has joined DST is written;
at the largest C, or after a failure, STATUS is written and DONE decremented. -/
def execCollRankComplete (d k : Nat) (s : State) : Host.Outcome State Fault Refusal :=
  match s.coll d k with
  | none => .next s
  | some c =>
    let due := Nat.ble c.latest (s.nowDie d)
    if s.stopped d then .next s
    else if c.fail.isNone && c.blocks.isNone && c.ranks.any (fun e => s.ownEnd d e && ((s.die e.2).lost.isSome || !s.fabPath e.2)) then
      .next (failColl d k 0x1C6 s)
    else if c.fail.isSome then .next (if due then finishColl d k c s else s)
    else if c.own.isNone then .next (sendSource d k c s)
    else
      match c.blocks with
      | none => .next s
      | some blocks =>
        let bs := c.result blocks
        if Nat.blt c.sent bs.length then .next (writeResult d k c bs s)
        else .next (if due then finishColl d k c s else s)

/-- The cause that a rank records for what it is told (R413): a disagreement is 0x1C4 at every rank, an endpoint that has no live path is 0x1C6, and any
other ABORT is 0x1C7. -/
def abortCause (code : Nat) (told : Bool) : Nat := if code == 0x1C4 then 0x1C4 else if told && code == 0x1C6 then 0x1C6 else 0x1C7

/-- Whether a packet that a rank sent before its ABORT of the same collective is still on its way: they arrive in order (R405). -/
def Coll.sentBefore (c : Coll) (rank : Nat) (s : State) : Bool :=
  s.fabric.any (fun p => match p with
    | .coll _ _ _ _ r _ => r == rank && c.packetFor p && !c.joined.any (fun (j : Nat × List Byte) => j.1 == rank)
    | _ => false)

/-- COLL_ABORT (R405, R413): a rank receives ABORT, with the sender's code: as a rank of this package has sent it, or from another package; the transport's
word that the endpoint of a rank elsewhere has no live path is 0x1C6. -/
def execCollAbort (d : Nat) (m : AbortMsg) (s : State) : Host.Outcome State Fault Refusal :=
  let k := m.slot
  match s.coll d k with
  | none => .next s
  | some c =>
    if s.stopped d then .next s
    else
    let mine (p : FabPacket) : Bool := match p with
      | .abort _ _ _ _ r _ => c.packetFor p && !c.sentBefore r s
      | _ => false
    match s.takePacket? mine with
    | some (.abort _ _ _ _ _ n, t) => .next (failColl d k (abortCause n false) t)
    | some (_, t) => .next t
    | none => if c.ranks.all (s.ownEnd d) then .next s else .next (failColl d k (abortCause m.code true) s)

/-- COLL_TIMEOUT (R413): some rank has not joined within TMO µs of this rank's post. -/
def execCollTimeout (d k : Nat) (s : State) : Host.Outcome State Fault Refusal :=
  match s.coll d k with
  | none => .next s
  | some c =>
    if !s.stopped d && Nat.blt (c.joined.length + 1) c.ranks.length && Nat.ble (c.posted + c.tmo * 16000) (s.nowDie d) then .next (failColl d k 0x1C5 s)
    else .next s

/-! ## Remote loads and stores (R415 to R417) -/

/-- A peer entry (R415): its endpoint and window; none when it is invalid, names this package, or cannot be read. -/
def State.peerEntry (s : State) (d p : Nat) : State × Got ((Nat × Nat) × Nat) :=
  match s.engineRead d ((s.die d).cepeer + 16 * p) 16 .device with
  | (t, .later) => (t, .later)
  | (t, .bad c) => (t, .bad c)
  | (t, .ok bs) =>
    let x := natOfBytes bs
    if bitsOf x 31 1 == 1 && bitsOf x 0 16 != (s.die d).fabid then (t, .ok ((bitsOf x 0 16, bitsOf x 16 3), bitsOf x 32 8)) else (t, .bad 0x1C3)

/-- A remote access that a lane makes: the lane, the endpoint and window, the address, and the bytes of a store. -/
structure Remote where
  lane : Nat
  to_ : Nat × Nat
  window : Nat
  va : Nat
  data : List Byte
  deriving DecidableEq, Repr

/-- What the checks of a remote word come to. -/
inductive RemoteChecked where
  | trap (cause val : Nat)
  | wait
  | ok (rs : List Remote)
  deriving DecidableEq, Repr

/-- Look up the peer entries of the lanes in turn (R415). -/
def remoteLanes (d : Nat) (data : Nat → List Byte) : List (Nat × Nat) → State → State × RemoteChecked
  | [], s => (s, .ok [])
  | (lane, a) :: rest, s =>
    match s.peerEntry d (a / 2 ^ 56) with
    | (t, .later) => (t, .wait)
    | (t, .bad _) => (t, .trap 0x1C3 a)
    | (t, .ok (e, w)) =>
      match remoteLanes d data rest t with
      | (u, .ok rs) => (u, .ok ({ lane := lane, to_ := e, window := w, va := a % 2 ^ 56, data := data lane } :: rs))
      | (u, r) => (u, r)

/-- Send a remote access of a split; its number. -/
def sendRemote (i n d : Nat) (store : Bool) (reg : Nat) (r : Remote) (s : State) : State × Nat :=
  let op : EngOp := if store then .rst n else .rld n
  let (t, id) := s.sendEng (s.engOf i op d reg [r.to_.1, r.to_.2, r.window, r.va] [(r.lane, [])])
  ({ t with fabric := t.fabric ++ [.access d r.to_ id r.window r.va n (if store then some r.data else none)] }, id)

/-- The results of a remote load in a lane. -/
def remoteResult (width reg n lane : Nat) (ws : List PWord) : List Held := loadHeld width reg (n / 4) [(lane, ws)]

/-- The answer of a remote access reaches its split (R416, R417): a value or poison, the time plus the fabric bound into CT.G, and a cause in
CEFSTAT of the issuing die, precise for a load under MR.PX (R214). -/
def answerRemote (q : EngReq) (cause : Nat) (data : List Byte) (time : Nat) (s : State) : State :=
  let t0 := s.dropReq q.id
  let t := if cause == 0 then t0.joinG q.party (time + s.epsFab q.die) else recordCe q.die cause t0
  match q.party, q.op with
  | .split i, .rld n =>
    let lane := (q.lanes.headD (0, [])).1
    if cause == 0 then
      t.fill i q.id (remoteResult (s.widthOf i) q.d n lane
        ((List.range (n / 4)).map (fun j => .val (BitVec.ofNat 32 (natOfBytes ((data.drop (4 * j)).take 4))))))
    else if mrPX q.mr then wordTrap i q.pc q.mr cause (q.vals.getD 3 0) t
    else t.fill i q.id (remoteResult (s.widthOf i) q.d n lane (List.replicate (n / 4) .poison))
  | .split i, _ => stopSweep (s.wgIdxOf i) t
  | _, _ => t

/-- A remote access to an endpoint without a live path fails (R405, R416). -/
def failRemotes (ids : List Nat) (s : State) : State :=
  foldState ids (fun id t => match t.engReq id with
    | some q => answerRemote q 0x1C6 [] 0 t
    | none => t) s

/-- RLD and RST (R415): the addresses are checked, then each lane's access is sent; helper lanes store nothing (R11). -/
def remoteWord (store : Bool) (n : Nat) (closes : Bool) (a b : BitVec 6) (s : State) : Host.Outcome State Fault Refusal :=
  let reg := b.toNat
  let k := n / 4
  let regs (s : State) : List Nat := if store && (s.split s.who.split).lit.isSome then [] else groupRegs reg k
  issueWord closes (withRegs (regs s ++ [a.toNat, a.toNat + 1]) (fabricWord (fun i s =>
    let x := s.split i
    let d := dieOfCore (s.coreOf i)
    let width := s.widthOf i
    let m := s.execMask i
    let lanes := lanesIn width (if store then m &&& ~~~s.helpersOf i else m)
    let poisoned := lanes.filter (fun l => (s.vpair i a.toNat l).isNone)
    let good := lanes.filterMap (fun l => (s.vpair i a.toNat l).map (fun v => (l, v)))
    if !poisoned.isEmpty && (store || mrPX x.mr) then (s, .trap 0x1C1 0)
    else
      match good.find? (fun p => p.2 % n != 0) with
      | some p => (s, .trap 0x1C1 p.2)
      | none =>
        let data (l : Nat) : List Byte :=
          if store then
            match x.lit with
            | some w => wordBytes w
            | none => (storeBytes .plain n x.mr (s.group i reg k l)).1
          else []
        match remoteLanes d data good s with
        | (t, .trap c v) => (t, .trap c v)
        | (t, .wait) => (t.unlogged s, .wait t.memWait)
        | (t, .ok rs) =>
          let p := rs.foldl (fun (p : State × List Nat) r =>
            let q := sendRemote i n d store reg r p.1
            (q.1, p.2 ++ [q.2])) (t, [])
          let lost := poisoned.flatMap (fun l => remoteResult width reg n l (List.replicate k .poison))
          let held := if store then [] else .mark x.pc :: lost ++ p.2.map Held.await
          (p.1, .done held)))) s

/-- RLD.B32 (R409, R415). -/
def execRldB32 (w : VDA) (s : State) : Host.Outcome State Fault Refusal := remoteWord false 4 w.s w.a w.d s

/-- RLD.B64 (R409, R415). -/
def execRldB64 (w : VDA) (s : State) : Host.Outcome State Fault Refusal := remoteWord false 8 w.s w.a w.d s

/-- RST.B32 (R409, R415). -/
def execRstB32 (w : VAB) (s : State) : Host.Outcome State Fault Refusal := remoteWord true 4 w.s w.a w.b s

/-- RST.B64 (R409, R415). -/
def execRstB64 (w : VAB) (s : State) : Host.Outcome State Fault Refusal := remoteWord true 8 w.s w.a w.b s

/-- REMOTE_ACCESS_RESPONSE (R416, R417). -/
def execRemoteAccessResponse (r : RemoteReply) (s : State) : Host.Outcome State Fault Refusal :=
  match s.engReq r.id with
  | none => .next s
  | some q =>
    let ok := match q.op with
      | .rld n => r.cause != 0 || r.data.length == n
      | .rst _ => true
      | _ => false
    if !ok || (r.cause != 0 && r.cause != 0x1C6 && r.cause != 0x1C8) then .next s
    else if !s.fabPath q.die then .next (answerRemote q 0x1C6 [] 0 s)
    else .next (answerRemote q r.cause r.data r.time s)

/-- REMOTE_ACCESS_TARGET (R416): the export entry, the translation as an unprivileged access, then the access at its home with no lease. The answer goes to
the endpoint that asked (R405). A translation or a home that fails is recorded here too (R214, R246): a collective engine has no global core number, so
what CORE shows is a free value (log entry 62). -/
def execRemoteAccessTarget (r : RemoteAccess) (s : State) : Host.Outcome State Fault Refusal :=
  let d := r.die
  let x := s.die d
  let store := r.store.isSome
  let answer (cause : Nat) (data : List Byte) (time : Nat) (t : State) : State := { t with fabric := t.fabric ++ [.reply d r.src cause data time] }
  let bad (t : State) : Host.Outcome State Fault Refusal := .next (answer 0x1C8 [] 0 t)
  let core (t : State) : Nat := (Config.freeWord t.free).toNat % 256
  let noLeaf (c : Nat) (t : State) : Host.Outcome State Fault Refusal := bad ({ t with free := t.free + 1 }.logXlatOn d (core t) 14 c r.va)
  let noData (c pa : Nat) (t : State) : Host.Outcome State Fault Refusal := bad ({ t with free := t.free + 1 }.recordHomeOn d (core t) 14 c pa)
  if Nat.ble 8 d || x.lost.isSome || s.stopped d || s.dev.ps == 2 || !x.fabEn || !(r.n == 4 || r.n == 8) then .next s
  else
    match s.engineRead d (x.cexport + 32 * (r.window % 256)) 32 .device with
    | (t, .later) => .next t
    | (t, .bad _) => bad t
    | (t, .ok bs) =>
      let e := natOfBytes bs
      if bitsOf e 0 1 == 0 || (store && bitsOf e 1 1 == 0) || Nat.ble (2 ^ 56) r.va || r.va % r.n != 0 then bad t
      else
        match t.walk d (bitsOf e 64 64) (bitsOf e 128 16) r.va with
        | .again _ => .next t
        | .host pa => .next (t.prompt false pa 16)
        | .fault c => noLeaf c t
        | .leaf l =>
          let pa := l.at r.va
          if !l.allows (if store then .store else .load) false then noLeaf 0x0A2 t
          else if !t.keyOn l.key then noLeaf 0x0A5 t
          else if store && l.m then bad t
          else if t.stale l pa then .next t
          else if t.onHold pa || t.homeBusy d store pa r.n .device then .next (t.prompt store pa r.n)
          else
            match t.homeCause pa r.n, r.store with
            | some c, some v =>
              if c == 0x082 then let w := t.homeStore l.key pa (v.take r.n); .next (answer 0 [] w.2 w.1) else noData c pa t
            | some c, none => noData c pa t
            | none, some v => let w := t.homeStore l.key pa (v.take r.n); .next (answer 0 [] w.2 w.1)
            | none, none => .next (answer 0 (t.readMem l.key pa r.n) (t.readV (spanOf pa r.n)) t)

/-! ## Ports that change (R404, R405) -/

/-- The slots in use of a die. -/
def State.busySlots (s : State) (d : Nat) : List Nat := idxsOf (s.die d).colls Option.isSome

/-- Whether a die has anything on its way to the fabric: a collective, or a remote access. -/
def State.usesFabric (s : State) : Bool :=
  s.dies.any (fun x => x.colls.any Option.isSome) || s.reqs.any (fun q => match q with
    | .eng r => match r.op with
      | .rld _ | .rst _ => true
      | _ => false
    | _ => false)

/-- What has lost its way to the fabric, to a port, a link or a partition, fails with 0x1C6 (R405, R413, R416). -/
def cutFabric (s : State) : State :=
  let cut := (List.range 8).filter (fun d => !s.fabPath d)
  let ids := s.reqs.filterMap (fun q => match q with
    | .eng r => match r.op with
      | .rld _ | .rst _ => if cut.contains r.die then some r.id else none
      | _ => none
    | _ => none)
  let t := failRemotes ids s
  foldState cut (fun d z => foldState (z.busySlots d) (fun k y => failColl d k 0x1C6 y) z) t

/-- A port is declared down: it stays down until the next warm start (R404). -/
def portDown (d p : Nat) (s : State) : State := cutFabric (s.modPort d p (fun x => { x with up := false, lanes := 0, dead := true }))

/-- Paths to the fabric that a link or a partition has cut (R405). -/
def State.noteCut (s : State) : State := if s.usesFabric then cutFabric s else s

/-- FABRIC_LANE_LOSS (R404): below four lanes the port is declared down. -/
def execFabricLaneLoss (d p : Nat) (s : State) : Host.Outcome State Fault Refusal :=
  let x := (s.die d).ports.getD p {}
  if !x.up then .next s
  else if Nat.ble x.lanes 4 then .next (portDown d p s)
  else .next (s.modPort d p (fun y => { y with lanes := y.lanes - 1 }))

/-- FABRIC_PORT_DOWN (R404): sixteen consecutive resends of one flit have failed. -/
def execFabricPortDown (d p : Nat) (s : State) : Host.Outcome State Fault Refusal :=
  let x := (s.die d).ports.getD p {}
  if x.up && Nat.ble 16 x.resends then .next (portDown d p s) else .next s

/-- FABRIC_PORT_TRAINED (R404): the port comes up with eight lanes and the switch's port id; a port declared down stays down. -/
def execFabricPortTrained (d p : Nat) (link : BitVec 16) (s : State) : Host.Outcome State Fault Refusal :=
  let x := (s.die d).ports.getD p {}
  if Nat.ble 8 d || Nat.ble 4 p || x.up || x.dead || (s.die d).lost.isSome then .next s
  else .next (s.modPort d p (fun y => { y with up := true, lanes := 8, link := link.toNat }))

/-! ## The fabric bound (R418) -/

/-- The endpoints of the valid peer entries. -/
def State.validPeers (s : State) (d : Nat) : List (Nat × (Nat × Nat)) :=
  (List.range 256).filterMap (fun p =>
    let x := s.readNat 0 ((s.die d).cepeer + 16 * p) 16
    if bitsOf x 31 1 == 1 && bitsOf x 0 16 != (s.die d).fabid then some (p, (bitsOf x 0 16, bitsOf x 16 3)) else none)

/-- FABRIC_SYNC_SEND (R418): every 10 µs, to the die of each valid peer entry. -/
def execFabricSyncSend (d : Nat) (s : State) : Host.Outcome State Fault Refusal :=
  let x := s.die d
  if Nat.ble 8 d || !x.fabEn || s.stopped d || s.dev.ps == 2 || x.lost.isSome || Nat.blt x.now (x.fabSync + 160000) then .next s
  else
    let t := s.modDie d (fun y => { y with fabSync := y.now })
    .next { t with fabric := t.fabric ++ (s.validPeers d).map (fun p => .sync d p.2 x.now) }

/-- FABRIC_SYNC_RECEIVE (R418): the reply gives the offset o, the round trip d and the peer's package bound. -/
def execFabricSyncReceive (d peer : Nat) (offset : Int) (rtt bound : Nat) (s : State) : Host.Outcome State Fault Refusal :=
  let x := s.die d
  let mine (p : FabPacket) : Bool := match p with
    | .sync f e t => f == d && t == x.fabSync && (s.validPeers d).any (fun v => v.1 == peer && v.2 == e)
    | _ => false
  match s.takePacket? mine with
  | none => .next s
  | some (_, t) =>
    .next (t.modDie d (fun y =>
      { y with peers := { peer := peer, off := offset.natAbs, rtt := rtt, bound := bound, time := y.now } ::
                          y.peers.filter (fun p => p.peer != peer) }))

end Sys2Proof.Machine
end

