-- ==== Sys2Proof/Machine/Spokes.lean ====
section
/-! DEFINITION. The load core and the store core (R301 to R319): the frame of a spoke instruction, RV64IM with Zba and Zbb, data accesses,
atomics and fences, and the extension. -/

namespace Sys2Proof.Machine

/-! ## The frame of an instruction (R301, R303, R316) -/

/-- What a spoke instruction does: a register to write, where to go on when that is not the next instruction, and what happens once it has
completed; a cause; or a wait after which it executes again. -/
inductive XRes where
  | ok (s : State) (rd : Nat) (v : DWord) (pc : Option Nat)
  | sent (s : State) (id : Nat)
  | trap (cause val : Nat) (s : State)
  | wait (c : Cond) (s : State)
  deriving DecidableEq, Repr

/-- The party of a spoke context. -/
def spokeParty (g : Nat) (st : Bool) : Party := .spoke g st

/-- An x register; x0 is never written (R301). -/
def State.xval (s : State) (g : Nat) (st : Bool) (r : BitVec 5) : DWord := (s.spoke g st).x.getD r.toNat 0

/-- Run one instruction of n bytes for the spoke context that acts: `act` is what it does to the context once it has completed. A request is
sent with the pc past it, and the instruction retires with the answer. A pre-emption stops the context at its next boundary (R316). -/
def spokeWord (n : Nat) (body : Nat → Bool → State → XRes) (act : Nat → Bool → State → State := fun _ _ s => s) (s : State) :
    Host.Outcome State Fault Refusal :=
  let g := s.who.wg
  let st := s.who.store
  let pc := (s.spoke g st).pc
  let s1 := s.modSpoke g st (fun c => { c with cycle := (c.cycle + 1) % 2 ^ 64 })
  let stop (t : State) : State := if (t.wg g).preq.isSome then stopSpoke g st t else t
  match body g st s1 with
  | .ok t rd v target =>
    let u := (t.setCtxReg (.spoke g st) rd v).modSpoke g st (fun c =>
      { c with pc := target.getD ((pc + n) % 2 ^ 64), instret := (c.instret + 1) % 2 ^ 64, phase := .ready })
    .next (stop (act g st u))
  | .sent t id => .next (t.modSpoke g st (fun c => { c with pc := (pc + n) % 2 ^ 64, phase := .retest (.answered id) }))
  | .trap c v t => .next (haltCtx (.spoke g st) c pc v t)
  | .wait c t => .next (stop (t.modSpoke g st (fun x => { x with phase := .retest c })))

/-- A completed instruction without effect on the registers. -/
def XRes.done (s : State) : XRes := .ok s 0 0 none

/-! ## RV64IM, Zba and Zbb (R47) -/

/-- The low word sign-extended. -/
def sx32 (x : DWord) : DWord := (x.setWidth 32).signExtend 64

/-- The low word zero-extended. -/
def zx32 (x : DWord) : DWord := (x.setWidth 32).setWidth 64

/-- One for true. -/
def flag (b : Bool) : DWord := if b then 1 else 0

/-- Rotate right by a number below 64. -/
def ror64 (x : DWord) (k : Nat) : DWord := (x >>> k) ||| (x <<< (64 - k))

/-- Rotate the low word right by a number below 32, sign-extended. -/
def ror32 (x : DWord) (k : Nat) : DWord := sx32 ((zx32 x >>> k) ||| (zx32 x <<< (32 - k)))

/-- A register-immediate operation. -/
def rvImm (op : RvImmOp) (a : DWord) (i : BitVec 12) : DWord :=
  let imm := i.signExtend 64
  let k := i.toNat % 64
  let w := i.toNat % 32
  match op with
  | .addi => a + imm
  | .slti => flag (a.slt imm)
  | .sltiu => flag (a.ult imm)
  | .xori => a ^^^ imm
  | .ori => a ||| imm
  | .andi => a &&& imm
  | .slli => a <<< k
  | .srli => a >>> k
  | .srai => a.sshiftRight k
  | .rori => ror64 a k
  | .addiw => sx32 (a + imm)
  | .slliw => sx32 (a <<< w)
  | .srliw => sx32 (zx32 a >>> w)
  | .sraiw => (sx32 a).sshiftRight w
  | .roriw => ror32 a w
  | .slliUw => zx32 a <<< k

/-- Signed division as RISC-V defines it: by zero gives all ones, an overflow gives the dividend. -/
def rvDiv (a b : Int) : Int := if b == 0 then -1 else a.tdiv b

/-- Signed remainder: by zero gives the dividend. -/
def rvRem (a b : Int) : Int := if b == 0 then a else a.tmod b

/-- A register-register operation. -/
def rvReg (op : RvRegOp) (a b : DWord) : DWord :=
  let k := b.toNat % 64
  let w := b.toNat % 32
  let a32 : Int := (a.setWidth 32).toInt
  let b32 : Int := (b.setWidth 32).toInt
  let au := a.toNat % 2 ^ 32
  let bu := b.toNat % 2 ^ 32
  let of32 (x : Int) : DWord := (BitVec.ofInt 32 x).signExtend 64
  match op with
  | .add => a + b
  | .sub => a - b
  | .sll => a <<< k
  | .slt => flag (a.slt b)
  | .sltu => flag (a.ult b)
  | .xor => a ^^^ b
  | .srl => a >>> k
  | .sra => a.sshiftRight k
  | .or => a ||| b
  | .and => a &&& b
  | .addw => sx32 (a + b)
  | .subw => sx32 (a - b)
  | .sllw => sx32 (a <<< w)
  | .srlw => sx32 (zx32 a >>> w)
  | .sraw => (sx32 a).sshiftRight w
  | .mul => a * b
  | .mulh => BitVec.ofInt 64 (a.toInt * b.toInt / 2 ^ 64)
  | .mulhsu => BitVec.ofInt 64 (a.toInt * (b.toNat : Int) / 2 ^ 64)
  | .mulhu => BitVec.ofNat 64 (a.toNat * b.toNat / 2 ^ 64)
  | .div => BitVec.ofInt 64 (rvDiv a.toInt b.toInt)
  | .divu => if b == 0 then BitVec.allOnes 64 else BitVec.ofNat 64 (a.toNat / b.toNat)
  | .rem => BitVec.ofInt 64 (rvRem a.toInt b.toInt)
  | .remu => if b == 0 then a else BitVec.ofNat 64 (a.toNat % b.toNat)
  | .mulw => of32 (a32 * b32)
  | .divw => of32 (rvDiv a32 b32)
  | .divuw => if bu == 0 then BitVec.allOnes 64 else of32 (au / bu : Nat)
  | .remw => of32 (rvRem a32 b32)
  | .remuw => if bu == 0 then sx32 a else of32 (au % bu : Nat)
  | .sh1add => (a <<< 1) + b
  | .sh2add => (a <<< 2) + b
  | .sh3add => (a <<< 3) + b
  | .addUw => zx32 a + b
  | .sh1addUw => (zx32 a <<< 1) + b
  | .sh2addUw => (zx32 a <<< 2) + b
  | .sh3addUw => (zx32 a <<< 3) + b
  | .andn => a &&& ~~~b
  | .orn => a ||| ~~~b
  | .xnor => ~~~(a ^^^ b)
  | .min => if a.slt b then a else b
  | .minu => if a.ult b then a else b
  | .max => if a.slt b then b else a
  | .maxu => if a.ult b then b else a
  | .rol => ror64 a ((64 - k) % 64)
  | .ror => ror64 a k
  | .rolw => ror32 a ((32 - w) % 32)
  | .rorw => ror32 a w

/-- Leading zeros below bit n. -/
def leadZeros (n x : Nat) : Nat := n - (if x == 0 then 0 else Nat.log2 x + 1)

/-- Trailing zeros of a number of n bits. -/
def trailZeros (n x : Nat) : Nat := ((List.range n).find? (fun k => x.testBit k)).getD n

/-- Set bits of a number of n bits. -/
def popBits (n x : Nat) : Nat := ((List.range n).filter (fun k => x.testBit k)).length

/-- A unary operation of Zbb. -/
def rvUn (op : RvUnOp) (a : DWord) : DWord :=
  let x := a.toNat
  let w := x % 2 ^ 32
  match op with
  | .clz => BitVec.ofNat 64 (leadZeros 64 x)
  | .ctz => BitVec.ofNat 64 (trailZeros 64 x)
  | .cpop => BitVec.ofNat 64 (popBits 64 x)
  | .clzw => BitVec.ofNat 64 (leadZeros 32 w)
  | .ctzw => BitVec.ofNat 64 (trailZeros 32 w)
  | .cpopw => BitVec.ofNat 64 (popBits 32 w)
  | .sextB => (a.setWidth 8).signExtend 64
  | .sextH => (a.setWidth 16).signExtend 64
  | .zextH => (a.setWidth 16).setWidth 64
  | .orcB => BitVec.ofNat 64 ((List.range 8).foldl (fun acc k => if x / 2 ^ (8 * k) % 256 == 0 then acc else acc + 255 * 2 ^ (8 * k)) 0)
  | .rev8 => BitVec.ofNat 64 ((List.range 8).foldl (fun acc k => acc + x / 2 ^ (8 * k) % 256 * 2 ^ (8 * (7 - k))) 0)

/-- A branch condition. -/
def rvCond (c : RvCond) (a b : DWord) : Bool :=
  match c with
  | .eq => a == b
  | .ne => a != b
  | .lt => a.slt b
  | .ge => !(a.slt b)
  | .ltu => a.ult b
  | .geu => !(a.ult b)

/-- A displacement from a pc: image offsets are 64 bits wide (R302). -/
def pcPlus (pc : Nat) (off : Int) : Nat := (((pc : Int) + off) % ((2 ^ 64 : Nat) : Int)).toNat

/-- Every instruction of RV64IM, Zba and Zbb without a row of its own (R47). -/
def execSpokeOtherInstruction (c : Bool) (op : RvOp) (s : State) : Host.Outcome State Fault Refusal :=
  let n := if c then 2 else 4
  spokeWord n (fun g st s =>
    let pc := (s.spoke g st).pc
    let x := s.xval g st
    match op with
    | .lui rd i => .ok s rd.toNat ((i.signExtend 64) <<< 12) none
    | .auipc rd i => .ok s rd.toNat (BitVec.ofNat 64 pc + ((i.signExtend 64) <<< 12)) none
    | .jal rd off => .ok s rd.toNat (BitVec.ofNat 64 (pc + n)) (some (pcPlus pc off.toInt))
    | .jalr rd a i => .ok s rd.toNat (BitVec.ofNat 64 (pc + n)) (some ((x a + i.signExtend 64).toNat / 2 * 2))
    | .branch k a b off => .ok s 0 0 (if rvCond k (x a) (x b) then some (pcPlus pc off.toInt) else none)
    | .imm f rd a i => .ok s rd.toNat (rvImm f (x a) i) none
    | .reg f rd a b => .ok s rd.toNat (rvReg f (x a) (x b)) none
    | .un f rd a => .ok s rd.toNat (rvUn f (x a)) none) (s := s)

/-! ## Data accesses (R304, R305) -/

/-- The space of an address, and the offset within it; none is 0x124. -/
def State.spokeSpace (s : State) (g : Nat) (a : DWord) (n : Nat) (write : Bool) : Option (Space × Nat) :=
  let w := s.wg g
  let x := a.toNat
  let top := x / 2 ^ 56
  let off := x % 2 ^ 32
  if top == 0 then some (.global, x)
  else if x / 2 ^ 32 % 2 ^ 24 != 0 then none
  else if top == 0xFE then (if write || Nat.blt w.cwsize (off + n) then none else some (.const, off))
  else if top == 0xFF then (if Nat.blt w.scratchSize (off + n) then none else some (.scratch, off))
  else none

/-- The checks of R304 before an access: the space, then the alignment. -/
def spokeAccess (g : Nat) (a : DWord) (n : Nat) (write : Bool) (s : State) (f : Space → Nat → XRes) : XRes :=
  match s.spokeSpace g a n write with
  | none => .trap 0x124 a.toNat s
  | some (sp, off) => if a.toNat % n != 0 then .trap 0x123 a.toNat s else f sp off

/-- Translate a global address for a spoke: a cause halts it; `atomic` adds the refusal of software-managed pages (R307). The home compares the
generation of a store or an atomic as it is sent (R193), and a refusal is walked again (R240). -/
def spokeXlat (g va : Nat) (acc : Acc) (atomic : Bool) (s : State) (f : State → Leaf → XRes) : XRes :=
  let w := s.wg g
  let go (t : State) : State × Walk := t.translate w.core w.troot w.trgen va acc w.prv
  let (t, r) : State × Walk :=
    match go s with
    | (t, .leaf l) => if (atomic || acc == .store) && t.stale l (l.at va) then go (t.dropXlat w.core (fun x => x.leaf == l)) else (t, .leaf l)
    | p => p
  match r with
  | .fault c => .trap c va (t.logXlat w.core 9 c va)
  | .leaf l =>
    if (atomic || acc == .store) && t.stale l (l.at va) then .wait (.retry w.core w.troot w.trgen va acc) t
    else if (atomic || acc == .store) && t.onHold (l.at va) then .wait (t.stallAt true (l.at va) 1).memWait t
    else if atomic && l.m then .trap 0x068 va t
    else f t l
  | _ => .wait t.memWait t

/-- A request of a spoke to a home. -/
def State.spokeReq (s : State) (g : Nat) (st : Bool) (op : MemOp) (va : Nat) (l : Leaf) (data : Nat) : MemReq :=
  let w := s.wg g
  { id := 0, party := .spoke g st, core := w.core, op := op, lanes := [{ lane := 0, va := va, pa := l.at va, data := data }], leaf := l
    policy := 0, prv := w.prv, pc := (s.spoke g st).pc, mr := 7, l1 := s.l1Core w.core (l.at va), root := w.troot, rgen := w.trgen
    strict := match op with
      | .xlr _ _ | .xsc _ _ | .xamo _ _ _ => true
      | _ => false }

/-- A value of n bytes as a load leaves it in a register (R305). -/
def loadExt (n : Nat) (unsigned : Bool) (bs : List Byte) : DWord :=
  BitVec.ofNat 64 (if unsigned then natOfBytes bs else signExtend64 n (natOfBytes bs))

/-- A load of a spoke (R305). -/
def execSpokeLoad (r : RvLoad) (s : State) : Host.Outcome State Fault Refusal :=
  let n := 2 ^ r.w.toNat
  spokeWord (if r.c then 2 else 4) (fun g st s =>
    let w := s.wg g
    let a := s.xval g st r.rs1 + r.imm.signExtend 64
    spokeAccess g a n false s (fun sp off =>
      match sp with
      | .scratch => .ok s r.rd.toNat (loadExt n r.u (w.scratchRead off n)) none
      | .const =>
        let va := w.cwin + off
        match s.vaRead g va n w.prv (.spoke g st) 9 with
        | (t, .ok bs) => .ok t r.rd.toNat (loadExt n r.u bs) none
        | (t, .bad c) => .trap c va t
        | (t, .later) => .wait t.memWait t
      | .global =>
        spokeXlat g off .load false s (fun t l =>
          let pa := l.at off
          let q := t.spokeReq g st (.xload n r.u r.rd.toNat) off l 0
          let span := spanOf pa n
          match t.l1Entry q.l1 span.block with
          | some e =>
            if t.l1Hit w.core e span l && !t.earlierRead (.spoke g st) [span] then
              .ok (t.joinG (.spoke g st) e.v) r.rd.toNat (loadExt n r.u (e.bytesAt pa n)) none
            else let p := t.sendMem q; .sent p.1 p.2
          | none => let p := t.sendMem q; .sent p.1 p.2))) (s := s)

/-- A store of a spoke (R305): it is posted, and CT.L moves on. -/
def execSpokeStore (r : RvStore) (s : State) : Host.Outcome State Fault Refusal :=
  let n := 2 ^ r.w.toNat
  spokeWord (if r.c then 2 else 4) (fun g st s =>
    let w := s.wg g
    let a := s.xval g st r.rs1 + r.imm.signExtend 64
    let v := (s.xval g st r.rs2).toNat % 2 ^ (8 * n)
    let bs := bytesOfNat n v
    let now := s.nowCore w.core
    spokeAccess g a n true s (fun sp off =>
      match sp with
      | .scratch => .done ((s.scratchWrite g off bs).joinL (.spoke g st) now)
      | .const => .trap 0x124 a.toNat s
      | .global =>
        spokeXlat g off .store false s (fun t l =>
          let pa := l.at off
          if l.m then
            match t.untrackedWait w.core l w.troot w.trgen off n [(pa, bs)] (.spoke g st) with
            | some u => .wait u.memWait u
            | none => .done ((storeUntracked w.core l w.troot w.trgen off n [(pa, bs)] t).joinL (.spoke g st) now)
          else .done ((sendStore (t.spokeReq g st (.store n) off l v) [(pa, bs)] t).joinL (.spoke g st) now)))) (s := s)

/-! ## Fences and atomics (R306, R307) -/

/-- What a release of a spoke waits for: every access returned, and a time. -/
def State.spokeRelease (s : State) (g : Nat) (st : Bool) (scope t : Nat) : Option Cond :=
  if s.outstanding (.spoke g st) then some (.fence scope none)
  else if Nat.ble t (s.nowCore (s.wg g).core) then none
  else some (.fence scope (some t))

/-- FENCE (R306): a release and an acquire at dev scope, each for a set that is not empty; FENCE.TSO, whose sets are both rw, has both. -/
def execSpokeFence (r : RvFence) (s : State) : Host.Outcome State Fault Refusal :=
  let rel := r.pred != 0
  let acq := r.succ != 0
  spokeWord 4 (fun g st s =>
    if (rel || acq) && s.scopeUnsync (dieOfCore (s.wg g).core) 2 then .trap 0x067 2 s
    else
      match (if rel then s.spokeRelease g st 2 (s.spoke g st).ctg else none) with
      | some c => .wait c s
      | none => .done s) (s := s)

/-- FENCE.I has no effect (R302). -/
def execSpokeFenceI (s : State) : Host.Outcome State Fault Refusal := spokeWord 4 (fun _ _ s => .done s) (s := s)

/-- The operation of an AMO (R307, R183). -/
def amoFn (op : AmoOp) : AtomFn :=
  match op with
  | .swap => .exch
  | .add => .add
  | .xor => .xor
  | .and => .and
  | .or => .or
  | .min => .smin
  | .max => .smax
  | .minu => .umin
  | .maxu => .umax

/-- What the ordering bits of an AMO, LR or SC ask for first: neither is taken on an unsynchronised die, and `rl` waits as a release. -/
def spokeOrder (aq rl : Bool) (g : Nat) (st : Bool) (s : State) (f : XRes) : XRes :=
  if (aq || rl) && s.scopeUnsync (dieOfCore (s.wg g).core) 2 then .trap 0x067 2 s
  else
    match (if rl then s.spokeRelease g st 2 (s.spoke g st).ctg else none) with
    | some c => .wait c s
    | none => f

/-- Send an atomic of a spoke: its L1's copy of the bytes is dropped (R184). -/
def sendAtomic (r : MemReq) (s : State) : XRes := let p := (s.dropL1 r.l1 r.span).sendMem r; .sent p.1 p.2

/-- AMO (R307). -/
def execSpokeAmo (r : RvAmo) (s : State) : Host.Outcome State Fault Refusal :=
  let n := if r.dbl then 8 else 4
  spokeWord 4 (fun g st s =>
    let w := s.wg g
    let a := s.xval g st r.rs1
    let v := (s.xval g st r.rs2).toNat % 2 ^ (8 * n)
    let now := s.nowCore w.core
    spokeAccess g a n true s (fun sp off =>
      match sp with
      | .const => .trap 0x124 a.toNat s
      | .scratch =>
        spokeOrder r.aq r.rl g st s (
          let old := natOfBytes (w.scratchRead off n)
          let t := (s.scratchWrite g off (bytesOfNat n (atomNew (amoFn r.op) n old v 0))).joinL (.spoke g st) now
          .ok t r.rd.toNat (BitVec.ofNat 64 (signExtend64 n old)) none)
      | .global =>
        spokeXlat g off .store true s (fun t l =>
          spokeOrder r.aq r.rl g st t (
            sendAtomic (t.spokeReq g st (.xamo (amoFn r.op) n r.rd.toNat) off l v) (t.joinL (.spoke g st) now))))) (s := s)

/-- LR (R307). -/
def execSpokeLr (r : RvLr) (s : State) : Host.Outcome State Fault Refusal :=
  let n := if r.dbl then 8 else 4
  spokeWord 4 (fun g st s =>
    let w := s.wg g
    let a := s.xval g st r.rs1
    spokeAccess g a n true s (fun sp off =>
      match sp with
      | .const => .trap 0x124 a.toNat s
      | .scratch =>
        spokeOrder r.aq r.rl g st s (
          let t := s.modSpoke g st (fun c => { c with resv := some { scratch := true, addr := off, n := n, time := s.nowCore w.core } })
          .ok t r.rd.toNat (BitVec.ofNat 64 (signExtend64 n (natOfBytes (w.scratchRead off n)))) none)
      | .global =>
        spokeXlat g off .load true s (fun t l =>
          spokeOrder r.aq r.rl g st t (sendAtomic (t.spokeReq g st (.xlr n r.rd.toNat) off l 0) t)))) (s := s)

/-- SC (R307). -/
def execSpokeSc (r : RvSc) (s : State) : Host.Outcome State Fault Refusal :=
  let n := if r.dbl then 8 else 4
  spokeWord 4 (fun g st s =>
    let w := s.wg g
    let a := s.xval g st r.rs1
    let v := (s.xval g st r.rs2).toNat % 2 ^ (8 * n)
    let now := s.nowCore w.core
    spokeAccess g a n true s (fun sp off =>
      match sp with
      | .const => .trap 0x124 a.toNat s
      | .scratch =>
        spokeOrder r.aq r.rl g st s (
          let held := match (s.spoke g st).resv with
            | some q => q.scratch && Nat.ble q.addr off && Nat.ble (off + n) (q.addr + q.n) && Nat.blt now (q.time + 64000)
            | none => false
          let t := s.modSpoke g st (fun c => { c with resv := none })
          if held then .ok ((t.scratchWrite g off (bytesOfNat n v)).joinL (.spoke g st) now) r.rd.toNat 0 none
          else .ok t r.rd.toNat 1 none)
      | .global =>
        spokeXlat g off .store true s (fun t l =>
          spokeOrder r.aq r.rl g st t (
            sendAtomic (t.spokeReq g st (.xsc n r.rd.toNat) off l v) (t.joinL (.spoke g st) now))))) (s := s)

/-! ## Control (R303) -/

/-- A counter read (R303): cycle, time and instret, and no other register. -/
def execSpokeCsrRead (r : RvCsr) (s : State) : Host.Outcome State Fault Refusal :=
  spokeWord 4 (fun g st s =>
    let c := s.spoke g st
    match r.csr.toNat with
    | 0xC00 => .ok s r.rd.toNat (BitVec.ofNat 64 c.cycle) none
    | 0xC01 => .ok s r.rd.toNat (BitVec.ofNat 64 (s.nowCore (s.wg g).core)) none
    | 0xC02 => .ok s r.rd.toNat (BitVec.ofNat 64 c.instret) none
    | k => .trap 0x121 (k * 2 ^ 20 + (if r.clear then 3 else 2) * 2 ^ 12 + r.rd.toNat * 2 ^ 7 + 0x73) s) (s := s)

/-- WFI ends the context once every earlier access is back, and reports its CT.G (R303). -/
def execSpokeWfi (s : State) : Host.Outcome State Fault Refusal :=
  spokeWord 4 (fun g st s => if s.outstanding (.spoke g st) then .wait .returned s else .done s)
    (fun g st t =>
      let c := (t.spoke g st).ctg
      tryRetire g ((t.modWg g (fun w => { w with report := max w.report c })).modSpoke g st (fun x => { x with phase := .ended }))) s

/-- ECALL (R303). -/
def execSpokeEcall (s : State) : Host.Outcome State Fault Refusal := spokeWord 4 (fun _ _ s => .trap 0x125 0 s) (s := s)

/-- EBREAK (R303). -/
def execSpokeEbreak (c : Bool) (s : State) : Host.Outcome State Fault Refusal :=
  spokeWord (if c then 2 else 4) (fun _ _ s => .trap 0x125 0 s) (s := s)

/-- Whether a pc cannot be fetched (R302): at an odd offset, or beyond the image, whose second half an instruction of 4 bytes needs too. -/
def Spoke.badFetch (c : Spoke) : Bool :=
  c.pc % 2 != 0 || Nat.blt c.image.length (c.pc + 2) ||
  ((natOfBytes ((c.image.drop c.pc).take 1)) % 4 == 3 && Nat.blt c.image.length (c.pc + 4))

/-- An illegal instruction, or a fetch that fails (R47, R302). -/
def execSpokeIllegalInstruction (w : Word) (s : State) : Host.Outcome State Fault Refusal :=
  spokeWord 4 (fun g st s =>
    let c := s.spoke g st
    if c.badFetch then .trap 0x122 c.pc s else .trap 0x121 w.toNat s) (s := s)

/-! ## The extension (R308 to R314) -/

/-- A handle operation as a spoke instruction does it. -/
def HRes.xres (r : HRes) (s : State) (f : State → Nat → XRes) : XRes :=
  match r with
  | .ok t v => f t v
  | .trap c v => .trap c v s
  | .wait c => .wait c s

/-- A copy form (R309). -/
def spokeCopy (kind : Nat) (win : Bool) (w : RvAB) (s : State) : Host.Outcome State Fault Refusal :=
  spokeWord 4 (fun g st s =>
    let x := (s.xval g st w.a).toNat
    let y (k : Nat) : Nat := ((s.spoke g st).x.getD (w.b.toNat + k) 0).toNat
    let half (v k : Nat) : Int := (BitVec.ofNat 32 (v / 2 ^ (32 * k))).toInt
    let va := x / 64 * 64
    let prv := (s.wg g).prv
    match s.readLayout (.spoke g st) g va prv with
    | (t, .bad c) => .trap c va t
    | (t, .later) => .wait t.memWait (t.unlogged s)
    | (t, .ok (_, rec_)) =>
      let q : CopyReq :=
        { kind := kind, win := win, h := x % 64, recAddr := va, rec_ := rec_
          coord := [half (y 0) 0, half (y 0) 1, half (y 1) 0, half (y 1) 1, half (y 2) 0]
          aux := if kind == 4 then y 2 / 2 ^ 32 % 16 else y 2 / 2 ^ 32, prv := prv }
      (issueCopy (.spoke g st) g q t).xres t (fun u _ => .done u)) (s := s)

/-- CP.TENSOR of a spoke. -/
def execSpokeCpTensor (w : RvAB) (s : State) : Host.Outcome State Fault Refusal := spokeCopy 1 false w s
/-- CP.TENSOR.W of a spoke. -/
def execSpokeCpTensorW (w : RvAB) (s : State) : Host.Outcome State Fault Refusal := spokeCopy 1 true w s
/-- CP.STORE of a spoke. -/
def execSpokeCpStore (w : RvAB) (s : State) : Host.Outcome State Fault Refusal := spokeCopy 2 false w s
/-- CP.GATHER of a spoke. -/
def execSpokeCpGather (w : RvAB) (s : State) : Host.Outcome State Fault Refusal := spokeCopy 3 false w s
/-- CP.MCAST of a spoke. -/
def execSpokeCpMcast (w : RvAB) (s : State) : Host.Outcome State Fault Refusal := spokeCopy 4 false w s

/-- A handle form (R310): the result is zero-extended into rd. -/
def spokeHandle (a : BitVec 5) (rd : Nat) (op : Nat → Nat → State → HRes) (s : State) : Host.Outcome State Fault Refusal :=
  spokeWord 4 (fun g st s =>
    (op g ((s.xval g st a).toNat % 64) s).xres s (fun t v => .ok t rd (BitVec.ofNat 64 v) none)) (s := s)

/-- HB.ACQ of a spoke. -/
def execSpokeHbAcq (w : RvDA) (s : State) : Host.Outcome State Fault Refusal := spokeHandle w.a w.d.toNat hbAcq s
/-- HB.REL of a spoke. -/
def execSpokeHbRel (w : RvA) (s : State) : Host.Outcome State Fault Refusal := spokeHandle w.a 0 hbRel s
/-- HB.STATE of a spoke. -/
def execSpokeHbState (w : RvDA) (s : State) : Host.Outcome State Fault Refusal := spokeHandle w.a w.d.toNat hbState s
/-- CP.RESUME of a spoke. -/
def execSpokeCpResume (w : RvA) (s : State) : Host.Outcome State Fault Refusal := spokeHandle w.a 0 cpResume s
/-- CP.ABORT of a spoke. -/
def execSpokeCpAbort (w : RvA) (s : State) : Host.Outcome State Fault Refusal := spokeHandle w.a 0 cpAbort s

/-- CP.FREC of a spoke. -/
def execSpokeCpFrec (w : RvDAB) (s : State) : Host.Outcome State Fault Refusal :=
  let k := (s.xval s.who.wg s.who.store w.b).toNat % 16
  spokeHandle w.a w.d.toNat (fun g h s => cpFrec g h k s) s

/-- HB.WAIT of a spoke: its return joins CDONE (R286, R310). -/
def execSpokeHbWait (w : RvA) (s : State) : Host.Outcome State Fault Refusal :=
  spokeWord 4 (fun g st s =>
    let v := s.xval g st w.a
    (hbWait g (v.toNat % 64) (v.getLsbD 6) s).xres s (fun t c =>
      .done ((t.joinL (.spoke g st) c).joinG (.spoke g st) c))) (s := s)

/-- A ring form (R311). -/
def spokeRing (w : RvRing) (advance : Bool) (s : State) : Host.Outcome State Fault Refusal :=
  spokeWord 4 (fun g st s =>
    (rgCursor g ((s.xval g st w.a).toNat % 32) w.c advance s).xres s (fun t v => .ok t w.d.toNat (BitVec.ofNat 64 v) none)) (s := s)

/-- RG.NEXT of a spoke. -/
def execSpokeRgNext (w : RvRing) (s : State) : Host.Outcome State Fault Refusal := spokeRing w true s
/-- RG.PEEK. -/
def execSpokeRgPeek (w : RvRing) (s : State) : Host.Outcome State Fault Refusal := spokeRing w false s

/-- A form that writes a value to rd (R312). -/
def spokeValue (d : BitVec 5) (f : Nat → Bool → State → Nat) (s : State) : Host.Outcome State Fault Refusal :=
  spokeWord 4 (fun g st s => .ok s d.toNat (BitVec.ofNat 64 (f g st s)) none) (s := s)

/-- RDMT (R312). -/
def execSpokeRdmt (w : RvD) (s : State) : Host.Outcome State Fault Refusal := spokeValue w.d (fun g _ s => s.nowCore (s.wg g).core) s
/-- RDEPS (R312). -/
def execSpokeRdeps (w : RvD) (s : State) : Host.Outcome State Fault Refusal :=
  spokeValue w.d (fun g _ s => s.epsPkg (dieOfCore (s.wg g).core)) s
/-- RDCTX (R312). -/
def execSpokeRdctx (w : RvD) (s : State) : Host.Outcome State Fault Refusal :=
  spokeValue w.d (fun g st s => (s.wg g).core * 256 + st.toNat * 4 + (s.wg g).slot.getD 0 % 4) s

/-- A barrier form (R314): an arrival waits for earlier accesses and for CT.L. -/
def spokeBar (a : BitVec 5) (arrives : Bool) (act : Nat → Bool → Nat → State → State) (s : State) : Host.Outcome State Fault Refusal :=
  let b (g : Nat) (st : Bool) (s : State) : Nat := (s.xval g st a).toNat
  let k := b s.who.wg s.who.store s
  spokeWord 4 (fun g st s =>
    match s.ctxBarCause g k arrives with
    | some c => .trap c 0 s
    | none =>
      match (if arrives then s.spokeRelease g st 0 (s.spoke g st).ctl else none) with
      | some c => .wait c s
      | none => .done s) (fun g st t => act g st k t) s

/-- SBAR.ARV. -/
def execSpokeSbarArv (w : RvDA) (s : State) : Host.Outcome State Fault Refusal :=
  spokeBar w.a true (fun g st b t => ctxArrive (.spoke g st) g b (some w.d.toNat) t) s

/-- SBAR.WAIT. -/
def execSpokeSbarWait (w : RvAB) (s : State) : Host.Outcome State Fault Refusal :=
  let tok := (s.xval s.who.wg s.who.store w.b).getLsbD 0
  spokeBar w.a false (fun g st b t => ctxWait (.spoke g st) g b tok t) s

/-- SBAR.SYNC. -/
def execSpokeSbarSync (w : RvA) (s : State) : Host.Outcome State Fault Refusal :=
  spokeBar w.a true (fun g st b t => ctxArrive (.spoke g st) g b none t) s

end Sys2Proof.Machine
end

