-- ==== Sys2Proof/Machine/Issue.lean ====
section
/-! DEFINITION. Who may issue (R16, R17, R85, R249, R301): the wake conditions, the choice of a split in a partition and of a context on a
core, the bytes a party fetches, and the passing of time. -/

namespace Sys2Proof.Machine

/-! ## Wake conditions (R17) -/

/-- Whether what a party waits for holds: `waiting` says that its group still awaits results, `unsettled` that one of these can bring a cause,
`absent` the granules it lacks. -/
def State.holds (s : State) (p : Party) (g : Nat) (waiting unsettled : Bool) (absent : BitVec 8) (c : Cond) : Bool :=
  let w := s.wg g
  let q := w.seq
  let now := s.nowCore w.core
  match c with
  | .returned => !s.outstanding p && !waiting
  | .loadsReturned => !waiting
  | .settled => !unsettled
  | .time t => Nat.ble t now
  | .entryFree h => (w.entry h).st == .free
  | .entryFull h ph => ((w.entry h).st == .full && (w.entry h).phase == ph) || (w.entry h).fault
  | .rowReady => q.queue.head?.any (fun r => Nat.ble r.time now)
  | .rowRoom => Nat.blt q.queue.length 64
  | .signalFree k => (q.sig.getD k none).isNone
  | .signalValid k => (q.sig.getD k none).isSome
  | .commandRoom => Nat.blt q.cmds.length 16
  | .commandsDone => s.seqDrained g
  | .mldDone => !q.cmds.any Cmd.isMld
  | .readsDone => !q.cmds.any Cmd.reads
  | .inflClear t => !q.infl t
  | .tileDone t => s.tileQuiet g t
  | .counterZero key pa => (s.homeCause pa 4).isSome || s.readNat key pa 4 == 0
  | .retry core root rgen va _ => s.walkEnds core root rgen va
  | .run base n => !s.runBusy (dieOfCore w.core) { base := base, n := n } && !({ base := base, n := n } : Run).frames.any s.onHold
  | .home write pa n => !s.onHold pa && !s.homeBusy (dieOfCore w.core) write pa n p
  | .granule k => !absent.getLsbD k
  | .answered id => !s.reqs.any (fun r => r.id == id)
  | .fence scope t =>
    s.scopeUnsync (dieOfCore w.core) scope || (match t with
      | none => !s.outstanding p && !waiting
      | some t => Nat.ble t now)

/-- Whether a split may issue: it is ready, or the event that its word waits for has come (R16, R17). -/
def State.issuable (s : State) (i : Nat) : Bool :=
  let x := s.split i
  x.live && (s.wgOf i).phase == .running && !s.stopped (dieOfCore (s.coreOf i)) &&
  (match x.phase with
    | .ready => true
    | .parked (.retest _) => x.woken
    | _ => false)

/-- Whether a context may issue; a stop that waits for the context's next boundary is made when it is its turn. -/
def State.ctxIssuable (s : State) (p : Party) (g : Nat) : Bool :=
  (s.wg g).phase == .running && !s.stopped (dieOfCore (s.wg g).core) &&
  (match s.ctxPhase p with
    | .ready => true
    | .retest c => s.holds p g false false 0 c
    | _ => false)

/-- A waiting split becomes ready at its word; GENWAIT receives its time and ends (R243). -/
def wake (i : Nat) (s : State) : State :=
  match (s.split i).phase with
  | .parked (.retest _) => readySplit i s
  | .parked (.genwait t d) => finishWord i true (pairSet d t) s
  | _ => s

/-- What a wait asks of the host while it lasts: the lines that its access, or a walk which is repeated, does not find at the proxy, and the block
that the host holds (R210, R211, R240). -/
def noteWalk (c : Cond) (s : State) : State :=
  match c with
  | .home write pa n => s.prompt write pa n
  | .retry core root rgen va _ =>
    match s.walk (dieOfCore core) root rgen va with
    | .host pa => s.prompt false pa 16
    | _ => s
  | _ => s

/-- The events of R17 that have come: a split whose wait is over may issue from this cycle on, and so may a context. -/
def State.noteWakes (s : State) : State :=
  let t := { s with splits := s.splits.mapIdx (fun i x => match x.phase with
    | .parked (.retest c) =>
      if x.live && !x.woken && s.holds (.split i) (s.wgIdxOf i) x.awaiting (s.unsettled i) (s.warpOf i).absent c then
        { x with woken := true, since := s.cycleOf i }
      else x
    | _ => x) }
  let u := foldState (s.splits.filter (fun x => x.live)) (fun x z => match x.phase with
    | .parked (.retest c) => noteWalk c z
    | _ => z) t
  foldState s.residentWgs (fun g z => foldState (ctxsOf g) (fun p y => match s.ctxPhase p with
    | .retest (.answered _) => y
    | .retest c => if s.holds p g false false 0 c then y.setCtxPhase p .ready else noteWalk c y
    | _ => y) z) u

/-! ## The choice of a split (R85) -/

/-- The splits of a partition that may issue. -/
def State.candidates (s : State) (core part : Nat) : List Nat :=
  idxsOf s.splits (fun x => x.live && (s.warp x.warp).part == part && (s.wg (s.warp x.warp).wg).core == core) |>.filter s.issuable

/-- The element of a list with the least key. -/
def leastBy (key : Nat → Nat) : List Nat → Option Nat
  | [] => none
  | x :: xs =>
    match leastBy key xs with
    | none => some x
    | some y => if Nat.ble (key x) (key y) then some x else some y

/-- The split that a partition starts a word from (R85): boosted splits first, in the order in which they became ready; else the highest
class, round robin by warp id; ties go to the lower split-table index. -/
def State.pick (s : State) (core part : Nat) : Option Nat :=
  let l := s.candidates core part
  let boosted := l.filter (fun i => (s.split i).boosted)
  let id (i : Nat) : Nat := (s.warpOf i).id % 128
  let tix (i : Nat) : Nat := if (s.split i).primary then 0 else 1 + (s.split i).tix
  if !boosted.isEmpty then leastBy (fun i => (s.split i).since * 2 ^ 16 + id i * 2 ^ 8 + tix i) boosted
  else
    let top := l.foldl (fun m i => max m (s.wgOf i).pri) 0
    let last := (s.core core).rr.getD part 0
    leastBy (fun i => (id i + 127 - last % 128) % 128 * 2 ^ 8 + tix i) (l.filter (fun i => (s.wgOf i).pri == top))

/-- The workgroups of a core whose context of a kind may issue, the next in turn first (R249, R301). -/
def State.pickCtx (s : State) (core : Nat) (party : Nat → Party) (last : Nat) : Option Nat :=
  let l := (idxsOf s.wgs (fun w => w.phase == .running && w.core == core)).filter (fun g => s.ctxIssuable (party g) g)
  leastBy (fun g => ((s.wg g).slot.getD 0 + 3 - last % 4) % 4) l

/-! ## Time (R222) -/

/-- The arithmetic clock of an operating point, in 100 MHz (R218). -/
def clockOf (point : Nat) : Nat := [33, 29, 24, 18, 10].getD point 10

/-- One die's step of time: `p` units of 1/16 ns of the reference oscillator, and the core cycles of its operating point in them (R218); a correction
of the servo enters at no more than 500 parts in a million (R222). What is left of a cycle, and of the room for a correction, is kept. -/
def Die.advance (p : Nat) (d : Die) : Die :=
  let k : Int := (((d.sfrac + p) / 2000 : Nat) : Int)
  let c := max (-k) (min k d.slew)
  let f := d.cfrac + p * clockOf d.point
  { d with now := ((d.now : Int) + (p : Int) + c).toNat, cycle := d.cycle + f / 160, cfrac := f % 160, slew := d.slew - c, sfrac := (d.sfrac + p) % 2000 }

/-- The counters whose event a die's time drives (R437): core cycles and Meridian ns. -/
def Die.pmTick (old : Die) (d : Die) : Die := (d.pmCount 0x01 0 (d.cycle - old.cycle)).pmCount 0x02 0 (d.now / 16 - old.now / 16)

/-- The events of R437 that no rule gives a number for: L2 misses and flits. -/
def pmFree : List Nat := [0x05, 0x10, 0x11, 0x18, 0x19]

/-- The die that a request comes from and the die of its home. -/
def Req.ends : Req → Nat × Nat
  | .mem r => (dieOfCore r.core, homeDie r.pa)
  | .eng r => (dieOfCore r.core, r.die)

/-- Requests between dies (R437, log entry 68): events 0x13 and 0x14 count one that has been sent since the last count, at the die that sent it, and one
that has been served since, at its home; a lost home serves none. -/
def State.countAway (s : State) : State :=
  let out := s.reqs.filter (fun q => q.ends.1 != q.ends.2)
  let new := out.filter (fun q => !s.away.any (fun a => a.1 == q.id))
  let done := s.away.filter (fun a => !out.any (fun q => q.id == a.1))
  if new.isEmpty && done.isEmpty then s
  else
    let t := foldState new (fun q z => pmCount q.ends.1 0x13 0 1 z) s
    let u := foldState (done.filter (fun a => (s.die a.2).lost.isNone)) (fun a z => pmCount a.2 0x14 0 1 z) t
    { u with away := out.map (fun q => (q.id, q.ends.2)) }

/-- The counters of a die that are set to such an event. -/
def Die.pmOpen (d : Die) : List Nat := if d.pmfrz then [] else (List.range 8).filter (fun k => pmFree.contains (d.pmsel.getD k 0 % 256))

/-- Such a counter advances by a free value (log entry 4). -/
def countFree (s : State) : State :=
  foldState (List.range 8) (fun d t =>
    foldState (t.die d).pmOpen (fun k u => { u.modDie d (fun x => x.pmAdd k (Config.freeWord u.free).toNat) with free := u.free + 1 }) t) s

/-- The splits of a die that are parked at a fence above cl scope (R437). -/
def State.fencing (s : State) (d : Nat) : Nat :=
  (idxsOf s.splits (fun x => x.live && (match x.phase with
    | .parked (.retest (.fence scope _)) => Nat.ble 2 scope
    | _ => false))).countP (fun i => dieOfCore (s.coreOf i) == d)

/-- Whether work is resident (R433): a workgroup on a core, or a launch that goes on placing workgroups once its queue is in error or disabled. -/
def State.workResident (s : State) : Bool :=
  s.wgs.any Wg.resident ||
  s.queues.any (fun q => (q.state == .error || q.state == .disabled) && q.launches.any (fun l => (s.launch l).live))

/-- Whether every queue that is active is idle and no work is resident (R433): no ready packet, no launch in flight, no parked WAIT. -/
def State.queuesIdle (s : State) : Bool :=
  !s.workResident && s.queues.all (fun q => q.state == .disabled || q.state == .error || q.state == .lost || q.state == .saved ||
    (q.state == .active && q.launches.isEmpty && q.waiting.isNone && q.signal.isNone && q.qdb == q.qrd))

/-- Since when the queues are idle and since when they are all disabled, on die 0's clock; a device in PS1 returns to PS0 once a queue has work,
or LATTOL no longer allows the wait (R433). -/
def notePower (s : State) : State :=
  let x := s.dev
  if x.st != 1 then s
  else
    let now := s.nowDie 0
    let idle := s.queuesIdle
    let off := s.queues.all (fun q => q.state == .disabled)
    let t := { s with dev := { x with
        idleAt := if idle then some (x.idleAt.getD now) else none
        offAt := if off then some (x.offAt.getD now) else none } }
    if x.ps == 1 && (!idle || Nat.blt x.lattol.toNat 20) then { t with dev := { t.dev with ps := 0 } }.settlePoints else t

/-- The operations that wait at an engine of their own core, in the order in which they were issued: those of R139, R208 and R269; and the causes
that wait for the matrix words before them (R251). -/
def performPending (s : State) : State :=
  let t := foldState s.reqs (fun q t => match q with
    | .eng r => performTile r (performSys r t)
    | _ => t) s
  let u := foldState (idxsOf t.wgs (fun w => w.phase == .running && w.seq.fault.isSome)) settleFault t
  if u.owners.any (fun o => o.agent == .device) then releaseAll (fun o => o.agent == .device) u else u

/-- Time passes on every die (log entry 5): by the next value of `pace`, or one unit; what counts time counts it, what waits at an engine of its
own core is performed, and spans whose agent is gone are released (R205). -/
def State.flow (s : State) : State :=
  let p := s.pace.headD 1
  let t := { s with pace := s.pace.drop 1, steps := s.steps + 1, dies := s.dies.mapIdx (fun d x =>
    let y := Die.advance p x
    if y.pmfrz then y else (y.pmTick x).pmCount 0x15 0 ((y.now / 16 - x.now / 16) * s.fencing d)) }
  performPending (notePower (if t.dies.any (fun d => !d.pmOpen.isEmpty) then countFree t else t)).countAway

/-- Words issued (R437): a word is counted when it first issues, a LIMM triple as three. -/
def countIssue (i : Nat) (s : State) : State :=
  if (s.split i).phase == .ready then pmCount (dieOfCore (s.coreOf i)) 0x03 0 (if (s.split i).lit.isSome then 2 else 1) s else s

/-! ## Fetch (R25, R239, R302) -/

/-- The bytes from an address of a stream: k words, or the first cause with its address. -/
def fetchWords (g : Nat) (prv : Bool) (cls : Nat) : Nat → Nat → State → State × Got (List Byte) × Nat
  | 0, va, s => (s, .ok [], va)
  | k + 1, va, s =>
    match s.fetchWord g va prv cls with
    | (t, .ok w) =>
      match fetchWords g prv cls k (va + 4) t with
      | (u, .ok bs, a) => (u, .ok (wordBytes w ++ bs), a)
      | r => r
    | (t, .bad c) => (t, .bad c, va)
    | (t, .later) => (t, .later, va)

/-- The bytes at a spoke's pc: four of its image, zeros past its end. -/
def Spoke.fetch (c : Spoke) : List Byte := let bs := (c.image.drop c.pc).take 4; bs ++ List.replicate (4 - bs.length) 0

end Sys2Proof.Machine
end

