-- ==== Sys2Proof/Machine/Restart.lean ====
section
/-! DEFINITION. What a start of the device discards (R429), and the host transactions that reach the device or wake it (R421, R434). -/

namespace Sys2Proof.Machine

/-! ## What a start discards (R429) -/

/-- A write that a party has issued and its home has not applied lands, as the home would apply it (R196). -/
def landReq (q : Req) (s : State) : State :=
  match q with
  | .eng _ => s
  | .mem r =>
    if (s.wholeCause r.pa).isSome then s
    else
      match r.op with
      | .store n => (s.homeStores r.leaf.key (r.lanes.map (fun l => (l.pa, bytesOfNat n l.data)))).1
      | .writeBack dirty data => (s.homeStores r.leaf.key ((dirtyRuns dirty data).map (fun p => (r.span.block * 256 + p.1, p.2)))).1
      | .atomic fn n _ | .xamo fn n _ => r.lanes.foldl (fun t l => (atomicLane r fn n l t).1) s
      | .xsc n rd => storeConditional r n rd s
      | _ => s

/-- The dirty bytes of an L1 entry land under the checks of their write-back (R178, R239); a home that is not lost does not hold them back now. -/
def landEntry (core : Nat) (e : L1Entry) (s : State) : State :=
  if e.dirty == 0 then s
  else
    match writeBackEntry core e s with
    | (t, .later) =>
      if t.stale e.leaf e.span.base || (t.wholeCause e.span.base).isSome then t
      else (t.homeStores e.key ((dirtyRuns e.dirty e.blockData).map (fun p => (e.span.block * 256 + p.1, p.2)))).1
    | (t, _) => t

/-- The dirty bytes that an L1 holds land. -/
def landL1 (core : Nat) (s : State) : State := foldState (s.core core).l1 (landEntry core) s

/-- The units that a copy into global memory has sent land (R284). -/
def landCopy (n : Nat) (s : State) : State :=
  match s.copyOf n with
  | none => s
  | some c =>
    if c.kind != 2 then s
    else foldState c.flight (fun u t => if (t.wholeCause u.span.base).isSome then t else (t.storeUnit u.leaf.key u.span (c.unitWrites u)).1) s

/-- Every issued store lands, and no line stays tagged with a key slot. -/
def landAll (s : State) : State :=
  let t := { foldState (List.range s.copies.length) landCopy (foldState s.reqs landReq s) with reqs := [], owners := [] }
  let u := foldState (List.range 128) landL1 t
  foldState (u.tags.map (fun p => p.1)) (fun g z => z.rekey 0 g) u

/-- A die whose registers are at their reset values; its clocks, its sensor and the order of its free values carry on, and with `keep` whether it
has a host bound (R434). -/
def Die.restart (keep : Bool) (x : Die) : Die :=
  { now := x.now, cycle := x.cycle, temp := x.temp, draws := x.draws, hunsync := if keep then x.hunsync else true }

/-- Everything resident is discarded without being saved, and no signal is written (R429): the device starts. -/
def beginStart (kind : StartKind) (s0 : State) : State :=
  let s := landAll s0
  let x := s.dev
  let keep := kind == .wake
  { s with
    dies := s.dies.map (Die.restart keep)
    cores := List.replicate 128 Core.reset
    wgs := [], warps := [], splits := [], launches := [], queues := List.replicate 256 {}
    leases := [], owners := [], pgen := [], tags := [], keys := []
    hlines := [], hreqs := [], hheld := [], hbinv := [], hwrites := [], hdown := false, hfail := []
    ptm := if keep then s.ptm else {}
    dev := { st := 0, start := some kind, positions := x.positions, identity := x.identity, signed := x.signed, svn := x.svn }
    msix := [], copies := [], trees := [], pool := [], cancels := [], autos := [], gives := []
    bounds := List.replicate 32 (List.replicate 8 0xFFFFFFFFFFFFFFFF), fabric := [], reqs := [], away := [], who := {} }

/-! ## What reaches the device from the host (R421, R426, R432, R434) -/

/-- Whether the host's writes reach the registers (R426, R432, R434): the device runs, outside PS2, and its link carries something. -/
def State.hostOn (s : State) : Bool := s.dev.st == 1 && s.dev.ps != 2 && !s.hdown

/-- A host transaction that the device does not carry out: in PS2 it wakes the device, which begins the warm start (R434); else it is lost. -/
def State.unheard (s : State) : State := if s.dev.ps == 2 && !s.hdown then beginStart .wake s else s

end Sys2Proof.Machine
end

