-- ==== Sys2Proof/Machine/CommandCore.lean ====
section
/-! DEFINITION. The command core (R382 to R395, R402): host queues and their states, packets and the parser, the checks of a launch,
placement (R20 to R22, R81), the start of a workgroup (R14, R53, R277, R302), completion, steals, and what a lost partition does to queues. -/

namespace Sys2Proof.Machine

/-! ## Reading and writing for the command core (R384) -/

/-- Go on with the value of an access. -/
def gotThen {α β : Type} (r : State × Got α) (f : State → α → State × Got β) : State × Got β :=
  match r with
  | (s, .ok a) => f s a
  | (s, .bad c) => (s, .bad c)
  | (s, .later) => (s, .later)

/-- The leaf an access of the command core of a die meets under a root: it takes no lease and caches nothing. -/
def State.rooted (s : State) (d root rgen va n : Nat) (a : Acc) : State × Got Leaf :=
  let wr := a == .store
  if Nat.ble (2 ^ 56) va then (s, .bad 0x0A1)
  else
    match s.walk d root rgen va with
    | .leaf l =>
      let pa := l.at va
      if !l.allows a true then (s, .bad 0x0A2)
      else if !s.keyOn l.key then (s, .bad 0x0A5)
      else if s.stale l pa then (s, .later)
      else if s.homeBusy d wr pa n .device then (s.prompt wr pa n, .later)
      else (s, .ok l)
    | .fault c => (s, .bad c)
    | .host pa => (s.prompt false pa 16, .later)
    | .again pa => (s.stallAt false pa 16, .later)

/-- The die whose command core acts for a queue: die 0 for one whose owner is lost (R402). -/
def State.ccDie (s : State) (q : Nat) : Nat := if (s.die (s.queue q).owner).lost.isSome then 0 else (s.queue q).owner

/-- Record that an access of a queue's command core failed, at a home (R214) or in translation (R246). A command core has no global core number, so
what CORE shows is a free value (log entry 62). -/
def State.ccFault (s : State) (q : Nat) (home : Bool) (c addr : Nat) : State :=
  let d := s.ccDie q
  let core := (Config.freeWord s.free).toNat % 256
  let t := { s with free := s.free + 1 }
  if home then t.recordHomeOn d core 13 c addr else t.logXlatOn d core 13 c addr

/-- Read bytes through a queue's root, a block at a time. -/
def ccRead (q : Nat) : Nat → Nat → Nat → State × Got (List Byte) → State × Got (List Byte)
  | 0, _, _, r => r
  | k + 1, va, n, (s, got) =>
    match got with
    | .ok acc =>
      if n == 0 then (s, got)
      else
        let m := min n (256 - va % 256)
        match s.rooted (s.ccDie q) (s.queue q).qroot (s.queue q).qrgen va m .load with
        | (t, .ok l) =>
          match t.homeCause (l.at va) m with
          | some c => (t.ccFault q true c (l.at va), .bad c)
          | none => ccRead q k (va + m) (n - m) (t, .ok (acc ++ t.readMem l.key (l.at va) m))
        | (t, .bad c) => (t.ccFault q false c va, .bad c)
        | (t, .later) => (t, .later)
    | _ => (s, got)

/-- Write bytes through a queue's root, a block at a time; answers the latest W. -/
def ccWrite (q : Nat) : Nat → Nat → List Byte → State × Got Nat → State × Got Nat
  | 0, _, _, r => r
  | k + 1, va, bs, (s, got) =>
    match got, bs with
    | .ok w, _ :: _ =>
      let n := min bs.length (256 - va % 256)
      match s.rooted (s.ccDie q) (s.queue q).qroot (s.queue q).qrgen va n .store with
      | (t, .ok l) =>
        match t.homeCause (l.at va) n with
        | some 0x082 | none =>
          let r := t.homeStore l.key (l.at va) (bs.take n)
          ccWrite q k (va + n) (bs.drop n) (r.1, .ok (max w r.2))
        | some c => (t.ccFault q true c (l.at va), .bad c)
      | (t, .bad c) => (t.ccFault q false c va, .bad c)
      | (t, .later) => (t, .later)
    | _, _ => (s, got)

/-- Read n bytes for a queue. -/
def State.queueRead (s : State) (q va n : Nat) : State × Got (List Byte) := ccRead q (n / 256 + 2) va n (s, .ok [])

/-- Write bytes for a queue. -/
def State.queueWrite (s : State) (q va : Nat) (bs : List Byte) : State × Got Nat := ccWrite q (bs.length / 256 + 2) va bs (s, .ok 0)

/-! ## Queue registers and states (R382, R383) -/

/-- HDIE. -/
def Queue.hdie (x : Queue) : Nat := x.qcfg.toNat % 8
/-- PRI. -/
def Queue.pri (x : Queue) : Nat := x.qcfg.toNat / 2 ^ 4 % 4
/-- PRIV. -/
def Queue.priv (x : Queue) : Bool := x.qcfg.getLsbD 6
/-- QLOG. -/
def Queue.qlog (x : Queue) : Nat := x.qcfg.toNat / 2 ^ 12 % 16
/-- CTXN. -/
def Queue.ctxn (x : Queue) : Nat := x.qcfg.toNat / 2 ^ 16 % 256
/-- Whether QLOG allows fetch. -/
def Queue.fetches (x : Queue) : Bool := Nat.ble 4 x.qlog
/-- The packets that are ready (R384). -/
def Queue.ready (x : Queue) : Nat := (x.qdb + 2 ^ 32 - x.qrd) % 2 ^ 32
/-- The code of a state (R383). -/
def QState.code : QState → Nat
  | .disabled => 0
  | .active => 1
  | .preempting => 2
  | .saved => 3
  | .error => 4
  | .lost => 5

/-- QSTAT (R382). -/
def Queue.stat (x : Queue) : Nat := x.state.code * 2 ^ 29 + x.owner * 2 ^ 26 + x.err

/-- Whether a class 13 cause moves a queue to error: an active one always (R383); one being saved where the rule of the cause says so, which is every
rule but that of a signal write that fails (R394 to R396, R402; log entry 65). -/
def Queue.fails (x : Queue) (cause : Nat) : Bool := x.state == .active || (x.state == .preempting && cause != 0x1A8)

/-- A class 13 cause of a queue (R403): it is recorded, and the queue goes to error where the state table or the rule of the cause says so. -/
def queueError (q cause : Nat) (s : State) : State :=
  s.modQueue q (fun x =>
    if x.fails cause then { x with err := cause, state := .error, waiting := none, signal := none } else { x with err := cause })

/-- The owner of a queue has had work (R393). -/
def noteWork (q : Nat) (s : State) : State :=
  let d := (s.queue q).owner
  s.modDie d (fun x => { x with busyAt := x.now })

/-- A lane has handed on or completed its packet: QRD passes it when the round ends (R386). -/
def passPacket (q : Nat) (s : State) : State := noteWork q (s.modQueue q (fun x => { x with passed := true, waiting := none, signal := none }))

/-- QRD passes the packet of a lane (R386). -/
def advanceRead (q : Nat) (s : State) : State :=
  s.modQueue q (fun x =>
    let rd := (x.qrd + 1) % 2 ^ 32
    { x with qrd := rd, passed := false, drained := if rd == x.qdb then s.nowDie x.owner else x.drained })

/-- A doorbell too far ahead of QRD is a malformed queue (R384). -/
def checkDoorbell (q : Nat) (s : State) : State :=
  let x := s.queue q
  if x.state == .active && Nat.blt (2 ^ x.qlog) x.ready then queueError q 0x1A1 s else s

/-- A write of QDB (R384). -/
def qdbWrite (q v : Nat) (s : State) : State :=
  checkDoorbell q (s.modQueue q (fun x => { x with qdb := v, drained := if v == x.qrd then s.nowDie x.owner else x.drained }))

/-- QDB_WRITE (R384, R421): a doorbell that the link or the device's state does not carry is lost. -/
def execQdbWrite (q : Nat) (v : Word) (s : State) : Host.Outcome State Fault Refusal :=
  if s.hostOn then .next (qdbWrite q v.toNat s) else .next s.unheard

/-- The saved workgroups of a queue. -/
def State.savedOf (s : State) (q : Nat) : List Nat := idxsOf s.wgs (fun w => w.phase == .saved && (s.launch w.launch).queue == q)

/-- The saved launches of a queue are abandoned (R383). -/
def abandonSaved (q : Nat) (s : State) : State :=
  let t := foldState (s.savedOf q) freeWg s
  foldState (t.queue q).launches (fun l z => z.modLaunch l (fun x => { x with live := false })) (t.modQueue q (fun x => { x with launches := [] }))

/-- EN := 1 with PREQ = 0 in a disabled queue (R383). -/
def enableQueue (q : Nat) (s : State) : State :=
  let x := s.queue q
  let d := x.hdie
  let t := s.modQueue q (fun x =>
    { x with state := .active, owner := d, waiting := none, signal := none, thief := none
             drained := if x.qrd == x.qdb then s.nowDie d else x.drained })
  if (s.die d).lost.isSome then t.modQueue q (fun x => { x with state := .lost, err := 0x1A5 }) else checkDoorbell q (noteWork q t)

/-- A write of QCTL (R383): EN := 0 is ignored while launches may be in flight. -/
def qctlWrite (q : Nat) (en preq : Bool) (s : State) : State :=
  let x := s.queue q
  if !en && (x.state == .active || x.state == .preempting) then s
  else
    let t := s.modQueue q (fun x => { x with en := en, preq := preq })
    match x.state with
    | .disabled => if en && !preq then enableQueue q t else t
    | .active =>
      if preq then
        noteWork q (t.modQueue q (fun x => { x with state := .preempting, tq := s.nowDie x.owner, savedDone := 0, waiting := none, thief := none, resume := false }))
      else t
    | .saved =>
      if !en then (abandonSaved q t).modQueue q (fun x => { x with state := .disabled })
      else if !preq then checkDoorbell q (noteWork q (t.modQueue q (fun x => { x with state := .active, resume := true })))
      else t
    | .error => if !en then t.modQueue q (fun x => { x with state := .disabled }) else t
    | _ => t

/-- QUEUE_ENABLE (R383). -/
def execQueueEnable (q : Nat) (s : State) : Host.Outcome State Fault Refusal :=
  if s.hostOn then .next (qctlWrite q true (s.queue q).preq s) else .next s.unheard

/-- QUEUE_DISABLE (R383). -/
def execQueueDisable (q : Nat) (s : State) : Host.Outcome State Fault Refusal :=
  if s.hostOn then .next (qctlWrite q false (s.queue q).preq s) else .next s.unheard

/-- QUEUE_RESUME (R400). -/
def execQueueResume (q : Nat) (s : State) : Host.Outcome State Fault Refusal :=
  if s.hostOn then .next (qctlWrite q (s.queue q).en false s) else .next s.unheard

/-! ## The parser (R385, R386) -/

/-- Whether a command core acts (R232, R402, R432). -/
def State.ccAlive (s : State) (d : Nat) : Bool := (s.die d).lost.isNone && !(s.die d).quiesced && !(s.die d).hung && s.dev.st != 2

/-- Whether the lane of a queue could take a packet, but for BAR (R386): the queue is active, its head packet is ready and not yet taken, nothing of it
waits to be restored (R400), and no four launches are in flight. -/
def State.laneOpen (s : State) (q : Nat) : Bool :=
  let x := s.queue q
  x.state == .active && x.fetches && x.ready != 0 && Nat.ble x.ready (2 ^ x.qlog) && x.signal.isNone && Nat.blt x.launches.length 4 &&
  !x.passed && s.ccAlive x.owner && !x.resume && (s.savedOf q).isEmpty

/-- The head packet of a queue. -/
def State.headPacket (s : State) (q : Nat) : State × Got (List Byte) :=
  let x := s.queue q
  s.queueRead q (x.qbase + 64 * (x.qrd % 2 ^ x.qlog)) 64

/-- A little-endian field of bytes. -/
def fieldOf (bs : List Byte) (o n : Nat) : Nat := natOfBytes ((bs.drop o).take n)

/-- The place of a TYPE in a round (R385). -/
def packetRank (ty : Nat) : Nat :=
  match ty with
  | 3 => 1
  | 2 => 2
  | 1 => 3
  | 4 => 4
  | _ => 5

/-- Whether BAR holds a packet back (R385): a SIGNAL always acts as if it were set. -/
def State.barred (s : State) (q : Nat) (p : List Byte) : Bool :=
  (fieldOf p 0 1 == 3 || fieldOf p 1 1 % 2 == 1) && !(s.queue q).launches.isEmpty

/-- The rank of the packet that a lane could take. -/
def State.roundRank (s : State) (q : Nat) : Option Nat :=
  if s.laneOpen q && (s.queue q).waiting.isNone then
    match s.headPacket q with
    | (_, .ok p) => if s.barred q p then none else some (packetRank (fieldOf p 0 1))
    | _ => none
  else none

/-- The lanes that have still to take their packet of a die's round. -/
def State.roundLeft (s : State) (d : Nat) : List Nat := (s.die d).round.filter (fun k => (s.queue k).owner == d && (s.roundRank k).isSome)

/-- Whether every packet that was taken in a die's round has been handed on or completed, and no lane has still to take one (R386): a SIGNAL is
complete once it is written. -/
def State.roundOver (s : State) (d : Nat) : Bool := (s.roundLeft d).isEmpty && !s.queues.any (fun x => x.owner == d && x.signal.isSome)

/-- The end of rounds (R386): QRD advances past each packet of a round that is over. -/
def State.endRounds (s : State) : State :=
  if s.queues.any (fun x => x.passed) then
    foldState (List.range 8) (fun d t =>
      if t.roundOver d then foldState (idxsOf t.queues (fun x => x.passed && x.owner == d)) advanceRead t else t) s
  else s

/-- The lanes that still hold a packet of a die's round; a new round, once the last has ended, has every lane whose head packet can be taken. A queue
that is granted to another die takes no packet of a new round (R386, R393). -/
def State.roundOf (s : State) (d : Nat) : List Nat :=
  let r := s.roundLeft d
  if !s.roundOver d || s.queues.any (fun x => x.passed && x.owner == d) then r
  else if r.isEmpty then
    (idxsOf s.queues (fun x => x.owner == d && x.state == .active && x.ready != 0 && x.thief.isNone)).filter (fun k => (s.roundRank k).isSome)
  else r

/-- Whether a lane is not next in its die's round: its packet is of a later round, or another lane goes first, one with an earlier type or a lower
lane of the same type (R386). -/
def State.laneBehind (s : State) (q rank : Nat) : Bool :=
  let r := s.roundOf (s.queue q).owner
  !r.contains q ||
  r.any (fun k =>
    k != q && (match s.roundRank k with
      | some m => Nat.blt (m * 256 + k) (rank * 256 + q)
      | none => false))

/-- What a lane has done with its packet of a round: once the packet is handed on or blocked, the lane's part in the round is over (R386). -/
def endTurn (q : Nat) (s t : State) : State :=
  if t.queue q == s.queue q then t
  else
    let d := (s.queue q).owner
    t.modDie d (fun x => { x with round := (s.roundOf d).filter (fun k => k != q) })

/-- A lane takes its head packet, when it is of the type that is asked for (R386). A packet that cannot be read raises 0x1A6. -/
def takePacket (q : Nat) (want : Nat → Bool) (act : List Byte → State → State) (s : State) : Host.Outcome State Fault Refusal :=
  if !s.laneOpen q then .next s
  else
    match s.headPacket q with
    | (t, .later) => .next t
    | (t, .bad _) => .next (queueError q 0x1A6 t)
    | (t, .ok p) =>
      let ty := fieldOf p 0 1
      if !want ty || t.barred q p || t.laneBehind q (packetRank ty) then .next t else .next (endTurn q t (act p t))

/-- A packet raises a cause: the queue goes to error after it (R383, R386). -/
def failPacket (q cause : Nat) (s : State) : State := queueError q cause (passPacket q s)

/-- REL of a packet. -/
def relOf (p : List Byte) : Nat := fieldOf p 0 4 / 2 ^ 9 % 4

/-- Whether the reserved header bits are zero. -/
def headerOk (p : List Byte) : Bool := fieldOf p 0 4 / 2 ^ 11 == 0

/-- NOP_PACKET (R385). -/
def execNopPacket (q : Nat) (s : State) : Host.Outcome State Fault Refusal :=
  takePacket q (fun ty => ty == 4) (fun p t => if headerOk p then passPacket q t else failPacket q 0x1A1 t) s

/-- RESERVED_PACKET (R385). -/
def execReservedPacket (q : Nat) (s : State) : Host.Outcome State Fault Refusal :=
  takePacket q (fun ty => packetRank ty == 5) (fun _ t => failPacket q 0x1A1 t) s

/-- Whether COND of a WAIT holds (R387). -/
def waitHolds (cond word value : Nat) : Bool :=
  match cond with
  | 0 => word == value
  | 1 => word != value
  | 2 => Nat.blt word value
  | _ => Nat.ble value word

/-- A WAIT completes: what it read is among the queue's earlier writes for a later SIGNAL (R201, R387). -/
def passWait (q pa : Nat) (s : State) : State :=
  passPacket q (s.modQueue q (fun x => { x with latest := max x.latest (s.readV (spanOf pa 8)) }))

/-- The test that a WAIT makes when its lane takes it (R387): it completes, or it is registered at the home of its word. -/
def takeWait (q : Nat) (p : List Byte) (s : State) : State :=
  let addr := fieldOf p 8 8
  let ok := headerOk p && fieldOf p 4 4 == 0 && addr % 8 == 0 && Nat.blt (fieldOf p 24 8) 4 && fieldOf p 32 32 == 0
  if !ok then failPacket q 0x1A1 s
  else
    match s.rooted (s.ccDie q) (s.queue q).qroot (s.queue q).qrgen addr 8 .load with
    | (t, .ok l) =>
      let pa := l.at addr
      match t.homeCause pa 8 with
      | some c => failPacket q 0x1A6 (t.ccFault q true c pa)
      | none =>
        let w : QWait := { key := l.key, pa := pa, cond := fieldOf p 24 1, value := fieldOf p 16 8 }
        if waitHolds w.cond (t.readNat w.key pa 8) w.value then passWait q pa t else t.modQueue q (fun x => { x with waiting := some w })
    | (t, .bad c) => failPacket q 0x1A6 (t.ccFault q false c addr)
    | (t, .later) => t

/-- WAIT_PACKET (R387): a lane that is not registered tests the word; a registered one goes on once a test has found COND true. -/
def execWaitPacket (q : Nat) (s : State) : Host.Outcome State Fault Refusal :=
  match (s.queue q).waiting with
  | none => takePacket q (fun ty => ty == 2) (takeWait q) s
  | some w =>
    if !w.woken || !s.laneOpen q then .next s
    else
      match s.homeCause w.pa 8 with
      | some c => .next (failPacket q 0x1A6 (s.ccFault q true c w.pa))
      | none => .next (passWait q w.pa s)

/-- Each write to a word that a WAIT names tests it again (R17, R387); a home that can no longer answer ends the wait (R212). -/
def State.noteWaits (s : State) : State :=
  { s with queues := s.queues.map (fun x => match x.waiting with
    | some w =>
      if !w.woken && ((s.homeCause w.pa 8).isSome || waitHolds w.cond (s.readNat w.key w.pa 8) w.value) then
        { x with waiting := some { w with woken := true } }
      else x
    | none => x) }

/-- SIGNAL_PACKET (R387): with every earlier packet completed, its wait starts. -/
def execSignalPacket (q : Nat) (s : State) : Host.Outcome State Fault Refusal :=
  takePacket q (fun ty => ty == 3) (fun p t =>
    let addr := fieldOf p 8 8
    let ok := headerOk p && fieldOf p 4 4 == 0 && addr % 8 == 0 && fieldOf p 24 40 == 0
    if ok then noteWork q (t.modQueue q (fun x => { x with signal := some (addr, fieldOf p 16 8, relOf p) })) else failPacket q 0x1A1 t) s

/-- Write a signal word of a queue (R387, R394): one that fails is dropped and records 0x1A8; none until it can be written. The drain of R187
comes first at sys scope; the queue's MSI-X vector is raised (R420). -/
def writeSignal (q addr value rel : Nat) (s : State) : Option State :=
  let t := if rel == 3 then s.drainCxl else s
  match t.queueWrite q addr (bytesOfNat 8 value) with
  | (u, .ok w) =>
    let v := u.modQueue q (fun x => { x with latest := max x.latest w })
    some (if v.hdown then v else { v with msix := v.msix ++ [q] })
  | (u, .bad _) => some (queueError q 0x1A8 u)
  | (_, .later) => none

/-- Whether Now has reached a time plus ε of a release scope, on the die of the writing command core (R439). -/
def State.signalDue (s : State) (q time rel : Nat) : Bool :=
  let d := s.ccDie q
  Nat.ble (time + s.epsRelease d rel) (s.nowDie d)

/-- Whether the command core that acts for a queue does (R232, R402). -/
def State.queueServed (s : State) (q : Nat) : Bool := s.ccAlive (s.ccDie q)

/-- The word that a queue's SIGNAL is to write. -/
def State.signalWord (s : State) (q : Nat) : Option Nat :=
  match (s.queue q).signal with
  | none => none
  | some (addr, _, _) =>
    match s.walk (s.ccDie q) (s.queue q).qroot (s.queue q).qrgen addr with
    | .leaf l => some (l.at addr)
    | _ => none

/-- Whether a lower lane of the same die has still to write the signal word that a queue's SIGNAL writes (R386). -/
def State.signalBehind (s : State) (q : Nat) : Bool :=
  (List.range q).any (fun k => (s.queue k).owner == (s.queue q).owner && (s.signalWord k).isSome && s.signalWord k == s.signalWord q)

/-- SIGNAL_VALUE_WRITE (R387): SIGNALs of one round on one word are written in ascending lane order (R386). -/
def execSignalValueWrite (q : Nat) (s : State) : Host.Outcome State Fault Refusal :=
  let x := s.queue q
  match x.signal with
  | none => .next s
  | some (addr, value, rel) =>
    if !(x.state == .active || x.state == .preempting) || !s.queueServed q || s.signalBehind q || !s.signalDue q x.latest rel then .next s
    else
      match writeSignal q addr value rel s with
      | some t => .next (passPacket q t)
      | none => .next (s.queueWrite q addr (bytesOfNat 8 value)).1

/-! ## Launches: packet, descriptor, checks (R388 to R390) -/

/-- A launch with what its packet says of it (R388). -/
def Launch.ofPacket (x : Launch) (p : List Byte) : Launch :=
  let lf := fieldOf p 4 4
  { x with
    packet := p, gx := fieldOf p 8 2, gy := fieldOf p 10 2, gz := fieldOf p 12 2, lanes := lf / 2 ^ 16 % 2 ^ 11
    dies := BitVec.ofNat 8 (fieldOf p 14 1), cgrp := 2 ^ (lf / 2 ^ 3 % 4), fuse := lf / 2 ^ 2 % 2 == 1, binit := lf / 2 ^ 5 % 2 == 1, pri := lf % 4
    prv := lf / 2 ^ 6 % 2 == 1, cwin := fieldOf p 0x18 8, cwsize := fieldOf p 0x20 4, argoff := fieldOf p 0x24 4, sig := fieldOf p 0x28 8
    sigval := fieldOf p 0x30 8, ltag := fieldOf p 0x38 4, rel := relOf p }

/-- A kernel descriptor's fields as a launch keeps them, or none when it is not valid for the packet (R389, R390). -/
def describe (p d rings : List Byte) : Option Launch :=
  let f (o n : Nat) : Nat := fieldOf d o n
  let wcode := f 4 1
  let roles := f 7 1
  let scratch := f 8 4
  let tiles := f 12 1
  let nring := f 13 1
  let ring (k : Nat) : Nat × Nat × Nat := (fieldOf rings (8 * k) 1, fieldOf rings (8 * k + 1) 3, fieldOf rings (8 * k + 4) 4)
  let rs := (List.range nring).map ring
  let spoke (on : Bool) (o : Nat) : Bool :=
    let a := f o 8
    let n := f (o + 8) 4
    let e := f (o + 12) 4
    if on then a != 0 && n != 0 && Nat.ble n 65536 && e % 2 == 0 && Nat.blt e n else a == 0 && n == 0 && e == 0
  let matrix := roles % 2 == 1
  let ok :=
    f 0 4 == 1 && Nat.ble wcode 5 && Nat.ble 1 (f 5 1) && Nat.ble (f 5 1) 64 && Nat.ble (f 6 1) 16 && Nat.blt roles 8 &&
    Nat.ble scratch 524288 && scratch % 1024 == 0 && Nat.ble nring 32 && f 14 2 == 0 && f 0x48 56 == 0 &&
    (if matrix then Nat.ble 1 tiles && Nat.ble tiles 16 && f 0x18 8 != 0 else tiles == 0 && f 0x18 8 == 0) &&
    spoke (roles / 2 % 2 == 1) 0x20 && spoke (roles / 4 % 2 == 1) 0x30 &&
    rs.all (fun r => Nat.ble 2 r.1 && Nat.ble r.1 32 && r.2.1 != 0 && r.2.1 % 256 == 0 && r.2.2 % 256 == 0 && Nat.ble (r.2.2 + r.1 * r.2.1) scratch) &&
    Nat.ble (rs.foldl (fun a r => a + r.1) 0) 64
  let x : Launch :=
    { live := true, width := 4 * 2 ^ wcode, regs := f 5 1, nbar := f 6 1, roles := roles, scratch := scratch, tiles := tiles, rings := rs
      ventry := f 0x10 8, mentry := f 0x18 8, ldImage := (f 0x20 8, f 0x28 4, f 0x2C 4), stImage := (f 0x30 8, f 0x38 4, f 0x3C 4), tvec := f 0x40 8 }
  if ok then some (x.ofPacket p) else none

/-- The first row of R390: what the packet itself must keep. -/
def packetOk (x : Queue) (p : List Byte) : Bool :=
  let lf := fieldOf p 4 4
  let lanes := lf / 2 ^ 16 % 2 ^ 11
  headerOk p && lf / 2 ^ 27 == 0 && lf / 2 ^ 7 % 2 ^ 9 == 0 && lf / 2 ^ 3 % 4 != 3 && fieldOf p 15 1 == 0 && fieldOf p 0x3C 4 == 0 &&
  Nat.ble 1 lanes && Nat.ble lanes 1024 && (lf / 2 ^ 6 % 2 == 0 || x.priv) && fieldOf p 8 2 != 0 && fieldOf p 10 2 != 0 && fieldOf p 12 2 != 0 &&
  fieldOf p 0x10 8 % 64 == 0 && fieldOf p 0x28 8 % 8 == 0 && Nat.ble 1 (fieldOf p 0x20 4) && Nat.ble (fieldOf p 0x20 4) 65536

/-! ## Room and placement (R20 to R22, R81, R179) -/

/-- The widths and first lanes of a launch's warps in one workgroup (R11). -/
def Launch.shape (l : Launch) : List (Nat × Nat) := (List.range ((l.lanes + l.width - 1) / l.width)).map (fun j => (l.width, j * l.width))

/-- The units that take warp slots, in ascending lane order: each warp of 32 lanes or more, and each slot of packed narrow warps; with the
first lane and the number of slots (R81). -/
def unitsOf (ws : List (Nat × Nat)) : List (Nat × Nat) :=
  (ws.map (fun w => (if Nat.blt w.1 32 then w.2 / 32 * 32 else w.2, max 1 (w.1 / 32)))).eraseDups

/-- The lowest run of k free slots in a partition that has the granules for it (R81). -/
def fitPart (used : List Nat × Nat) (k per : Nat) : Option Nat :=
  if Nat.ble (used.2 + k * per) 128 then
    (List.range (17 - k)).find? (fun f => (List.range k).all (fun j => !used.1.contains (f + j)))
  else none

/-- The slots a workgroup's units take, by a turn over the partitions (R81): partition and first slot of each. -/
def assignUnits (per : Nat) : List (List Nat × Nat) → Nat → List (Nat × Nat) → Option (List (Nat × Nat))
  | _, _, [] => some []
  | parts, turn, (_, k) :: us =>
    match (List.range 4).findSome? (fun j =>
        let p := (turn + j) % 4
        (fitPart (parts.getD p ([], 0)) k per).map (fun f => (p, f))) with
    | none => none
    | some (p, f) =>
      (assignUnits per (parts.modify p (fun u => (u.1 ++ (List.range k).map (fun j => f + j), u.2 + k * per))) ((p + 1) % 4) us).map
        (fun r => (p, f) :: r)

/-- The slots and granules in use in the partitions of a core (R21). -/
def State.partsOf (s : State) (core : Nat) : List (List Nat × Nat) :=
  (List.range 4).map (fun p =>
    let l := s.partSlots core p
    (l.map Prod.fst, l.foldl (fun a x => a + x.2) 0))

/-- The granules a warp slot takes. -/
def granulesFor (regs : Nat) : Nat := (regs + 7) / 8

/-- The lanes a workgroup takes of a core (R21). -/
def lanesTaken (lanes width : Nat) : Nat := min 1024 ((((lanes + width - 1) / width * width) + 31) / 32 * 32)

/-- The workgroups resident on a core. -/
def State.wgsOn (s : State) (core : Nat) : List Nat := idxsOf s.wgs (fun w => w.resident && w.core == core)

/-- Whether a workgroup takes a pipeline slot (R13). -/
def Launch.takesSlot (l : Launch) : Bool := l.roles != 0

/-- The slots that a core has for a workgroup of a launch, given the units of its warps, when it has room in every resource of R21. -/
def State.roomOn (s : State) (core : Nat) (l : Launch) (units : List (Nat × Nat)) : Option (List (Nat × Nat)) :=
  let on := (s.wgsOn core).map s.wg
  let sum (f : Wg → Nat) : Nat := on.foldl (fun a w => a + f w) 0
  if Nat.ble (sum (fun w => lanesTaken w.lanes w.width) + lanesTaken l.lanes l.width) 2048 &&
      Nat.ble (sum (fun w => w.scratchSize) + l.scratch) 524288 && Nat.ble (sum (fun w => 1 + w.nbar) + 1 + l.nbar) 32 &&
      Nat.ble (sum (fun w => w.tiles) + l.tiles) 16 && (!l.takesSlot || Nat.blt (sum (fun w => if w.slot.isSome then 1 else 0)) 4) then
    assignUnits (granulesFor l.regs) (s.partsOf core) 0 units
  else none

/-- Whether the rule of R179 lets a launch onto a core's cluster. -/
def State.fuseAllows (s : State) (core l : Nat) : Bool :=
  s.wgs.all (fun w => !w.resident || clusterOfCore w.core != clusterOfCore core || w.launch == l || !(w.fuse || (s.launch l).fuse))

/-- Whether a launch may use a die: it is in DIEMASK, and neither lost nor cut off. -/
def State.dieAllows (s : State) (l d : Nat) : Bool := (s.launch l).dies.getLsbD d && (s.die d).lost.isNone && !(s.die d).quiesced

/-- The cores of a launch's die set from the rotating pointer of a die on (R22). -/
def State.coreOrder (s : State) (d l : Nat) : List Nat :=
  ((List.range 128).map (fun j => (16 * d + (s.die d).turn + j) % 128)).filter (fun c => s.dieAllows l (dieOfCore c))

/-- Where workgroups with these units go together: one core, or distinct cores of one cluster for a group (R22). For a group the rule gives no order:
the model takes the first cluster in the order of the die's rotated cores that has room, gives ranks 0 upward to its cores in that order, and moves
the pointer past the core of the last rank (DESIGN CHOICE, log entry 67). -/
def State.placesFor (s : State) (d l : Nat) (shapes : List (List (Nat × Nat))) : Option (List (Nat × List (Nat × Nat))) :=
  let x := s.launch l
  let fit (c : Nat) (u : List (Nat × Nat)) : Option (List (Nat × Nat)) := if s.fuseAllows c l then s.roomOn c x u else none
  let order := s.coreOrder d l
  match shapes with
  | [u] => order.findSome? (fun c => (fit c u).map (fun a => [(c, a)]))
  | _ =>
    ((order.map clusterOfCore).eraseDups).findSome? (fun k =>
      let r := (order.filter (fun c => clusterOfCore c == k)).foldl (fun (p : List (Nat × List (Nat × Nat)) × List (List (Nat × Nat))) c =>
        match p.2 with
        | [] => p
        | u :: us =>
          match fit c u with
          | some a => (p.1 ++ [(c, a)], us)
          | none => p) ([], shapes)
      if r.2.isEmpty then some r.1 else none)

/-- The pointer of a die advances past a core (R22). -/
def advancePointer (d core : Nat) (s : State) : State := s.modDie d (fun x => { x with turn := (core + 1 + 128 - 16 * d % 128) % 128 })

/-- The context areas of a queue that nothing holds (R392). -/
def State.freeAreas (s : State) (q : Nat) : List Nat :=
  let held := (idxsOf s.wgs (fun w => w.phase != .free && (s.launch w.launch).queue == q)).map (fun g => (s.wg g).area)
  (List.range (s.queue q).ctxn).filter (fun k => !held.contains k)

/-- The base of a context area (R392). -/
def State.areaBase (s : State) (q k : Nat) : Nat := (s.queue q).qctx + 0x2F0000 * k

/-- Give a workgroup its warp slots: one warp for each width and first lane, at the place of its unit (R81). -/
def makeWarps (g : Nat) (units : List (Nat × Nat)) (at_ : List (Nat × Nat)) (ws : List (Nat × Nat)) (s : State) : State :=
  foldState ws (fun w z =>
    let start := if Nat.blt w.1 32 then w.2 / 32 * 32 else w.2
    let k := firstIdx (fun u => u.1 == start) units
    let a := at_.getD k (0, 0)
    let n := max 1 (w.1 / 32)
    let x : Warp :=
      { live := true, wg := g, width := w.1, part := a.1, slots := (List.range n).map (fun j => a.2 + j)
        q0 := if Nat.blt w.1 32 then w.2 % 32 / 4 else 0, base := w.2 }
    { z with warps := putAt z.warps (firstIdx (fun u => !u.live && !u.gone) z.warps) x }) s

/-- The lowest pipeline slot free on a core (R13). -/
def State.freeSlot (s : State) (core : Nat) : Nat :=
  let used := (s.wgsOn core).filterMap (fun g => (s.wg g).slot)
  ((List.range 4).find? (fun k => !used.contains k)).getD 0

/-- What dispatch sets of a workgroup (R53, R392); bits that a register of the workgroup reserves stay zero (R7). -/
def dispatched (s : State) (l core area : Nat) (w : Wg) : Wg :=
  let x := s.launch l
  let q := s.queue x.queue
  let ctx := s.areaBase x.queue area
  { w with
    launch := l, core := core, area := area, lanes := x.lanes, width := x.width, regs := x.regs, scratchSize := x.scratch, nbar := x.nbar
    slot := if x.takesSlot then some (s.freeSlot core) else none
    matrix := x.roles % 2 == 1, load := x.roles / 2 % 2 == 1, store := x.roles / 4 % 2 == 1, tiles := x.tiles, prv := x.prv, pri := x.pri
    tvec := x.tvec, troot := q.qroot % 2 ^ 52 / 2 ^ 12 * 2 ^ 12, trgen := q.qrgen, ldom := q.qdom, ltag := x.ltag
    save := (ctx + 0x1E8000) % 2 ^ 64, dspill := (ctx + 0x0E8000) % 2 ^ 56
    cwin := x.cwin, cwsize := x.cwsize, argoff := x.argoff, fuse := x.fuse, order := s.nextId }

/-- The first place for a workgroup that nothing in flight names. -/
def State.freeWgSlot (s : State) : Nat :=
  ((List.range s.wgs.length).find? (fun g => (s.wg g).phase == .free && !s.reqs.any (fun r => match r.party with
    | .spoke h _ | .seq h => h == g
    | _ => false))).getD s.wgs.length

/-- A new workgroup of a launch on a core, with its linear id (R19). -/
def placeNew (l core area lid rank : Nat) (at_ : List (Nat × Nat)) (s : State) : State :=
  let x := s.launch l
  let g := s.freeWgSlot
  let w := dispatched s l core area
    { phase := .placed, lid := lid, ix := lid % x.gx, iy := lid / x.gx % x.gy, iz := lid / (x.gx * x.gy), rank := rank
      cluster := clusterOfCore core, group := lid / x.cgrp }
  makeWarps g (unitsOf x.shape) at_ x.shape { s with wgs := putAt s.wgs g w, nextId := s.nextId + 1 }

/-- Workgroups of a launch in all (R19). -/
def Launch.total (l : Launch) : Nat := l.gx * l.gy * l.gz

/-- Whether a launch has a workgroup to place: what is saved of it comes first (R400). -/
def State.placeable (s : State) (l : Nat) : Bool :=
  let x := s.launch l
  let q := s.queue x.queue
  x.live && x.ended.isNone && Nat.blt x.next x.total && (q.state == .active || q.state == .error || q.state == .disabled) && !q.resume && q.launches.contains l &&
  s.ccAlive q.owner && !s.wgs.any (fun w => w.phase == .saved && w.launch == l)

/-- Where the next workgroup or group of a launch goes, with its areas. -/
def State.nextPlace (s : State) (l : Nat) : Option (List (Nat × List (Nat × Nat)) × List Nat) :=
  let x := s.launch l
  let areas := (s.freeAreas x.queue).take x.cgrp
  if s.placeable l && areas.length == x.cgrp then
    (s.placesFor (s.queue x.queue).owner l (List.replicate x.cgrp (unitsOf x.shape))).map (fun p => (p, areas))
  else none

/-- The launches handed to a die's dispatcher in run-list order (R391): the highest class first, then the queue that has waited longest
since it was last granted a placement, then packet order. -/
def State.runList (s : State) (d : Nat) : List Nat :=
  let qs := idxsOf s.queues (fun x => x.owner == d && !x.launches.isEmpty)
  let key (q : Nat) : Nat := (3 - (s.queue q).pri) * 2 ^ 64 + (s.queue q).granted
  let insert (l : List Nat) (q : Nat) : List Nat := l.takeWhile (fun k => Nat.ble (key k) (key q)) ++ q :: l.dropWhile (fun k => Nat.ble (key k) (key q))
  (qs.foldl insert []).flatMap (fun q => (s.queue q).launches)

/-- Write back and drop what the L1s of a cluster hold (R179): not before every dirty span can be written. -/
def flushCluster (k : Nat) (s : State) : State × Bool :=
  let cores := (List.range 4).map (fun j => 4 * k + j)
  match flushL1s cores s.reqs s with
  | (t, some _) => (foldState cores (fun c z => z.modCore c (fun x => { x with fused := false })) t, true)
  | (t, none) => (t, false)

/-- Flush clusters in turn. -/
def flushClusters : List Nat → State → State × Bool
  | [], s => (s, true)
  | k :: ks, s =>
    match flushCluster k s with
    | (t, true) => flushClusters ks t
    | r => r

/-- The clusters on which a fused launch has left L1 contents and is no longer resident (R179). -/
def State.fusedLeft (s : State) : List Nat :=
  (List.range 32).filter (fun k => (s.core (4 * k)).fused && !s.fusedAt (4 * k))

/-- WORKGROUP_PLACE (R22, R391): the dispatcher places the next workgroup, or group, of the first launch in its run list that has room. -/
def execWorkgroupPlace (l : Nat) (s : State) : Host.Outcome State Fault Refusal :=
  let q := (s.launch l).queue
  let d := (s.queue q).owner
  if (s.runList d).find? (fun k => (s.nextPlace k).isSome) != some l then .next s
  else
    match s.nextPlace l with
    | none => .next s
    | some (places, areas) =>
      match flushClusters (s.fusedLeft.filter (fun k => places.any (fun p => clusterOfCore p.1 == k))) s with
      | (t, false) => .next t
      | (t, true) =>
        let x := s.launch l
        let u := (List.range places.length).foldl (fun z j =>
          let p := places.getD j (0, [])
          placeNew l p.1 (areas.getD j 0) (x.next + j) (if x.cgrp == 1 then 0 else j) p.2 z) t
        let last := (places.getLast?.getD (0, [])).1
        let v := advancePointer d last (u.modLaunch l (fun y => { y with next := y.next + places.length }))
        .next (noteWork q (v.modQueue q (fun y => { y with granted := s.nowDie d })))

/-! ## The dispatch of a launch (R390) -/

/-- Whether one workgroup of a launch fits an empty core (R21). -/
def Launch.fits (l : Launch) : Bool := (assignUnits (granulesFor l.regs) (List.replicate 4 ([], 0)) 0 (unitsOf l.shape)).isSome

/-- The value of a signal that carries a cause (R394). -/
def causeValue (c : Nat) : Nat := 0xFFFFFFFFFFFFFE00 + c

/-- A launch is rejected (R390): its signal carries the cause, where the packet gives a signal that can be written. -/
def rejectLaunch (q cause : Nat) (p : List Byte) (s : State) : State :=
  let sig := fieldOf p 0x28 8
  if sig == 0 || sig % 8 != 0 then failPacket q cause s
  else
    match writeSignal q sig (causeValue cause) (relOf p) s with
    | some t => failPacket q cause t
    | none => (s.queueWrite q sig (bytesOfNat 8 (causeValue cause))).1

/-- The checks of R390 after the packet's own, in table order. -/
def launchCause (s : State) (l : Launch) : Option Nat :=
  let named := (List.range 8).filter (fun d => l.dies.getLsbD d)
  if !l.fits || !named.any (fun d => (s.die d).lost.isNone) || l.gx % l.cgrp != 0 then some 0x1A3
  else if named.any (fun d => (s.die d).lost.isSome) then some 0x1A5
  else none

/-- DISPATCH_PACKET (R390). -/
def execDispatchPacket (q : Nat) (s : State) : Host.Outcome State Fault Refusal :=
  takePacket q (fun ty => ty == 1) (fun p t =>
    if !packetOk (t.queue q) p then rejectLaunch q 0x1A1 p t
    else
      let kd := fieldOf p 0x10 8
      let got := gotThen (t.queueRead q kd 128) (fun u d =>
        gotThen (u.queueRead q (kd + 128) (if Nat.ble (fieldOf d 13 1) 32 then 8 * fieldOf d 13 1 else 0)) (fun v r => (v, .ok (d, r))))
      match got with
      | (u, .later) => u
      | (u, .bad _) => rejectLaunch q 0x1A2 p u
      | (u, .ok (d, r)) =>
        match describe p d r with
        | none => rejectLaunch q 0x1A2 p u
        | some x =>
          match launchCause u x with
          | some c => rejectLaunch q c p u
          | none =>
            let k := firstIdx (fun y => !y.live) u.launches
            passPacket q ({ u with launches := putAt u.launches k { x with queue := q } }.modQueue q (fun y =>
              { y with launches := y.launches ++ [k] }))) s

/-! ## The start of a workgroup (R14, R53, R277, R302) -/

/-- The entries of a launch's rings, and the rings, as they stand when nothing has filled them (R277, R278, R291). -/
def Launch.handles (l : Launch) : List Entry × List Ring :=
  let r := l.rings.foldl (fun (a : List Entry × List Ring) x =>
    let n := a.2.length
    let es : List Entry := (List.range x.1).map (fun k => { addr := x.2.2 + k * x.2.1, size := x.2.1, ring := n, stage := k })
    (a.1 ++ es, a.2 ++ [{ stages := x.1, first := a.1.length }])) ([], [])
  r

/-- The entries bound on a core (R277). -/
def State.boundEntries (s : State) (core : Nat) : Nat := (s.wgsOn core).foldl (fun a g => a + (s.wg g).entries.length) 0

/-- The code object of a launch's load or store core, as an image that can be shared: address, size and root (R302). -/
def State.imageOf (s : State) (l : Nat) (st : Bool) : Nat × Nat × Nat × Nat :=
  let x := s.launch l
  let q := s.queue x.queue
  let im := if st then x.stImage else x.ldImage
  (im.1, im.2.1, q.qroot, q.qrgen)

/-- The code objects whose images a core's instruction store holds, with their sizes: contexts of one code object share a copy (R302). -/
def State.imagesOn (s : State) (core : Nat) (st : Bool) : List (Nat × Nat × Nat × Nat) :=
  ((s.wgsOn core).filterMap (fun g =>
    let w := s.wg g
    if w.bound && (if st then w.store else w.load) then some (s.imageOf w.launch st) else none)).eraseDups

/-- Whether the image of a launch fits the instruction store of a spoke (R302). -/
def State.imageFits (s : State) (core l : Nat) (st : Bool) : Bool :=
  let im := s.imageOf l st
  let held := s.imagesOn core st
  im.2.1 == 0 || held.contains im || Nat.ble (held.foldl (fun a i => a + i.2.1) 0 + im.2.1) 65536

/-- Whether a placed workgroup may bind what it needs: those placed before it on its core come first (R277, R302). -/
def State.mayBind (s : State) (g : Nat) : Bool :=
  let w := s.wg g
  let x := s.launch w.launch
  !(s.wgsOn w.core).any (fun k => (s.wg k).phase == .placed && Nat.blt (s.wg k).order w.order) &&
  Nat.ble (s.boundEntries w.core + x.handles.1.length) 64 && s.imageFits w.core w.launch false && s.imageFits w.core w.launch true

/-- The copy of a code object that an instruction store of a core holds for another context (R302). -/
def State.heldImage (s : State) (core l : Nat) (st : Bool) : Option (List Byte) :=
  (s.wgsOn core).findSome? (fun g =>
    let w := s.wg g
    if w.bound && (if st then w.store else w.load) && s.imageOf w.launch st == s.imageOf l st then
      some (if st then w.sspoke else w.lspoke).image
    else none)

/-- One image of a launch for a core: the copy that the store holds, or one read now (R302). -/
def readImage (core l : Nat) (st : Bool) (s : State) : State × Got (List Byte) :=
  match s.heldImage core l st with
  | some b => (s, .ok b)
  | none => s.queueRead (s.launch l).queue (s.imageOf l st).1 (s.imageOf l st).2.1

/-- Both images of a launch for a core (R302). -/
def readImages (core l : Nat) (s : State) : State × Got (List Byte × List Byte) :=
  gotThen (readImage core l false s) (fun t a => gotThen (readImage core l true t) (fun u b => (u, .ok (a, b))))

/-- s0 to s3 of a workgroup (R53). -/
def Wg.launchScalars (w : Wg) : List Word :=
  [BitVec.ofNat 32 w.argoff, BitVec.ofNat 32 w.lid, BitVec.ofNat 32 (w.iy * 2 ^ 16 + w.ix),
   BitVec.ofNat 32 (w.rank * 2 ^ 24 + w.cluster * 2 ^ 16 + w.iz)]

/-- Every bound register of the clusters of a die set takes all ones (R391). -/
def initBounds (dies : BitVec 8) (s : State) : State :=
  foldState ((List.range 32).filter (fun c => dies.getLsbD (c / 4))) (fun c z => foldState (List.range 8) (fun k y => setBound c k 0xFFFFFFFFFFFFFFFF y) z) s

/-- The first split of a warp (R53). -/
def firstSplit (g w : Nat) (s : State) : Split :=
  let x := s.wg g
  let u := s.warp w
  let n := u.width
  let m := ordinaryMask x u ||| helperMask x u
  ({ live := true, warp := w, quads := BitVec.ofNat 32 (2 ^ (n / 4) - 1), pc := (s.launch x.launch).ventry, prv := x.prv
     s := x.launchScalars ++ List.replicate 28 0, since := (s.die (dieOfCore x.core)).cycle } : Split).setAct n m

/-- Start the warps of a workgroup (R53, R81). -/
def startWarps (g : Nat) (s : State) : State :=
  let x := s.launch (s.wg g).launch
  foldState (s.warpsOf g) (fun w z =>
    let u := z.warp w
    let t := z.modWarp w (fun u =>
      { u with exited := absentMask (z.wg g) u
               v := VReg.affine (BitVec.ofNat 32 u.base) 1 :: List.replicate 63 (.uniform .poison) })
    let sp := firstSplit g w z
    let empty := u.width == 0 || Nat.ble x.lanes u.base
    if empty then t else { t with splits := putAt t.splits (firstIdx (fun y => !y.live) t.splits) sp }) s

/-- The barriers of a workgroup at its start: every one tracks its warps (R111, R116). -/
def State.freshBars (s : State) (g : Nat) : List Barrier := List.replicate (1 + (s.wg g).nbar) { exp := s.warpCount g }

/-- The contexts of a workgroup at their start (R53, R248, R301). -/
def startContexts (g : Nat) (images : List Byte × List Byte) (s : State) : State :=
  let x := s.launch (s.wg g).launch
  let sc := ((s.wg g).launchScalars).map (fun (w : Word) => w.setWidth 64)
  let spoke (on : Bool) (im : List Byte) (entry : Nat) : Spoke :=
    if on then { phase := .ready, x := List.replicate 10 0 ++ sc ++ List.replicate 18 0, pc := entry, image := im } else {}
  let seed := s.free
  { s.modWg g (fun w =>
      { w with
        seq := if w.matrix then { phase := .ready, pc := x.mentry, g := sc ++ List.replicate 12 0, wseed := seed } else {}
        lspoke := spoke w.load images.1 x.ldImage.2.2
        sspoke := spoke w.store images.2 x.stImage.2.2 }) with free := seed + 65536 }

/-- The first workgroup of a fused launch on a cluster starts with the cluster's L1s empty (R179). -/
def fuseStart (g : Nat) (s : State) : State × Bool :=
  let w := s.wg g
  let k := clusterOfCore w.core
  if w.fuse && !s.wgs.any (fun x => x.phase == .running && clusterOfCore x.core == k) then
    match flushCluster k s with
    | (t, true) => (foldState (List.range 4) (fun j z => z.modCore (4 * k + j) (fun c => { c with fused := true })) t, true)
    | r => r
  else (s, true)

/-- Bind a workgroup's entries and read its images; work whose tag is cancelled on its die is discarded, and an image that cannot be read ends
the launch (R302, R344). `ok` says that the roles may start. -/
def bindWg (g : Nat) (s : State) : State × Option (List Byte × List Byte) :=
  let w := s.wg g
  let l := w.launch
  if s.tagCancelled (dieOfCore w.core) w.ltag then (discardWg g s, none)
  else if !s.mayBind g then (s, none)
  else
    match readImages w.core l s with
    | (t, .later) => (t, none)
    | (t, .bad _) => (endLaunch l 0x1A6 t, none)
    | (t, .ok im) =>
      match fuseStart g t with
      | (u, false) => (u, none)
      | (u, true) =>
        let x := s.launch l
        let v := if x.binit && !x.binitDone then (initBounds x.dies u).modLaunch l (fun y => { y with binitDone := true }) else u
        (v.modWg g (fun y => { y with entries := x.handles.1, rings := x.handles.2, bound := true }), some im)

/-- WORKGROUP_START (R14). -/
def execWorkgroupStart (g : Nat) (s : State) : Host.Outcome State Fault Refusal :=
  if (s.wg g).phase != .placed then .next s
  else
    match bindWg g s with
    | (t, none) => .next t
    | (t, some im) =>
      let u := startWarps g (startContexts g im t)
      .next (u.modWg g (fun w => { w with phase := .running, bars := u.freshBars g }))

/-! ## Completion and the end of a launch (R19, R394, R395) -/

/-- Whether nothing of a launch is left: no workgroup is placed, running or saved. -/
def State.launchGone (s : State) (l : Nat) : Bool := !s.wgs.any (fun w => w.phase != .free && w.launch == l)

/-- A launch leaves its queue (R386). -/
def closeLaunch (l time : Nat) (s : State) : State :=
  (s.modLaunch l (fun x => { x with live := false })).modQueue (s.launch l).queue (fun x =>
    { x with launches := x.launches.filter (fun k => k != l), latest := max x.latest time })

/-- Write the signal of a launch and close it, once what fused L1s hold has been written back (R179, R394). -/
def signalLaunch (l value time : Nat) (s : State) : Option State × State :=
  let x := s.launch l
  match flushClusters (if x.fuse then s.fusedLeft else []) s with
  | (t, false) => (none, t)
  | (t, true) =>
    if x.sig == 0 then (some (closeLaunch l time t), t)
    else
      match writeSignal x.queue x.sig value x.rel t with
      | some u => (some (closeLaunch l time u), u)
      | none => (none, (t.queueWrite x.queue x.sig (bytesOfNat 8 value)).1)

/-- LAUNCH_COMPLETION_SIGNAL (R19, R394). -/
def execLaunchCompletionSignal (l : Nat) (s : State) : Host.Outcome State Fault Refusal :=
  let x := s.launch l
  if !x.live || x.ended.isSome || x.cut || Nat.blt x.next x.total || !s.launchGone l || !s.queueServed x.queue || !s.signalDue x.queue x.largest x.rel then
    .next s
  else
    match signalLaunch l x.sigval x.largest s with
    | (some t, _) => .next t
    | (none, t) => .next t

/-- The cause that QSTAT.ERR takes when a launch is ended: its own where that is of class 13 (R302, R400, R402), 0x1A4 for one that was escalated
(R395). -/
def endError (cause : Nat) : Nat := if cause / 32 == 13 then cause else 0x1A4

/-- The time that the signal of a launch ended by a cause waits for: that of the last discarded party, and those that workgroups which had retired
reported (R394, R395). -/
def Launch.endDue (x : Launch) : Nat := max x.endTime x.largest

/-- LAUNCH_END_SIGNAL (R395): the queue's error is recorded and the signal written; a write that fails leaves 0x1A8 (R394). -/
def execLaunchEndSignal (l : Nat) (s : State) : Host.Outcome State Fault Refusal :=
  let x := s.launch l
  match x.ended with
  | none => .next s
  | some c =>
    if !x.live || !s.launchGone l || !s.queueServed x.queue || !s.signalDue x.queue x.endDue x.rel then .next s
    else
      match signalLaunch l (causeValue c) x.endDue (queueError x.queue (endError c) s) with
      | (some t, _) => .next t
      | (none, t) => .next t

/-! ## Steals (R393) -/

/-- Whether a die has a packet that a lane could take, or a workgroup to place. -/
def State.hasWork (s : State) (d : Nat) : Bool :=
  (idxsOf s.queues (fun x => x.owner == d && x.state == .active && x.ready != 0)).any (fun q =>
    (s.roundRank q).isSome || (s.queue q).waiting.any (fun w => w.woken)) ||
  (s.runList d).any (fun l => s.placeable l)

/-- A die with a packet that a lane could take, or a workgroup to place, is not idle (R393). -/
def State.noteBusy (s : State) : State :=
  if s.queues.all (fun x => x.state == .disabled && x.launches.isEmpty) then s
  else foldState ((List.range 8).filter s.hasWork) (fun d t => t.modDie d (fun x => { x with busyAt := x.now })) s

/-- The next live die in the ring 0, 1, …, 7 (R393). -/
def State.nextDie (s : State) (d : Nat) : Option Nat :=
  ((List.range 7).map (fun j => (d + 1 + j) % 8)).find? s.ccAlive

/-- STEAL_IDLE_REQUEST (R393). -/
def execStealIdleRequest (d : Nat) (s : State) : Host.Outcome State Fault Refusal :=
  let asked := s.dies.any (fun x => x.mail.contains d) || s.queues.any (fun x => x.thief == some d)
  if Nat.ble 8 d || !s.ccAlive d || asked || Nat.blt (s.nowDie d) ((s.die d).busyAt + 32000) || s.hasWork d then .next s
  else
    match s.nextDie d with
    | some e => .next (s.modDie e (fun x => { x with mail := x.mail ++ [d] }))
    | none => .next s

/-- The queues that a die owns. -/
def State.ownedBy (s : State) (d : Nat) : List Nat := idxsOf s.queues (fun x => x.owner == d && x.state != .disabled)

/-- The queue that a die grants: the lowest class, and within it the one granted most recently (R393). -/
def State.grantable (s : State) (d : Nat) : Option Nat :=
  let ok := (s.ownedBy d).filter (fun q =>
    let x := s.queue q
    x.state == .active && Nat.blt x.passed.toNat x.ready && x.launches.isEmpty && x.thief.isNone)
  ok.foldl (fun best q =>
    match best with
    | none => some q
    | some b =>
      let x := s.queue q
      let y := s.queue b
      if Nat.blt x.pri y.pri || (x.pri == y.pri && Nat.blt y.granted x.granted) then some q else some b) none

/-- STEAL_REQUEST_RECEIVE (R393). -/
def execStealRequestReceive (d : Nat) (s : State) : Host.Outcome State Fault Refusal :=
  match (s.die d).mail with
  | [] => .next s
  | thief :: rest =>
    let t := s.modDie d (fun x => { x with mail := rest })
    if thief == d || !s.ccAlive thief then .next (t.modDie thief (fun x => { x with busyAt := x.now }))
    else if !s.ccAlive d then .next t
    else
      match s.grantable d with
      | some q =>
        if Nat.blt (s.ownedBy thief).length 32 then .next (t.modQueue q (fun x => { x with thief := some thief }))
        else
          match s.nextDie d with
          | some e => .next (t.modDie e (fun x => { x with mail := x.mail ++ [thief] }))
          | none => .next t
      | none =>
        match s.nextDie d with
        | some e => .next (t.modDie e (fun x => { x with mail := x.mail ++ [thief] }))
        | none => .next t

/-- QUEUE_STEAL_HANDOFF (R393): between packets, once the old owner has finished its round; a grant lapses when the queue is no longer active
(R401). -/
def execQueueStealHandoff (q : Nat) (s : State) : Host.Outcome State Fault Refusal :=
  let x := s.queue q
  match x.thief with
  | none => .next s
  | some d =>
    let t := s.modQueue q (fun y => { y with thief := none })
    if x.state != .active || !s.ccAlive d then .next t
    else if x.passed || x.signal.isSome || x.waiting.isSome || !s.ccAlive x.owner || (s.roundOf x.owner).contains q then .next s
    else .next (noteWork q (t.modQueue q (fun y => { y with owner := d })))

/-- QUEUE_RETURN_HOME (R393). -/
def execQueueReturnHome (q : Nat) (s : State) : Host.Outcome State Fault Refusal :=
  let x := s.queue q
  if x.state == .active && x.owner != x.hdie && x.qrd == x.qdb && Nat.ble (x.drained + 160000) (s.nowDie x.owner) && s.ccAlive x.owner &&
      s.ccAlive x.hdie then
    .next (s.modQueue q (fun y => { y with owner := y.hdie, thief := none }))
  else .next s

/-! ## A lost partition (R402) -/

/-- Whether a context area of a queue lies on a lost die in any of its pages. -/
def State.areaLost (s : State) (q k : Nat) : Bool :=
  let base := s.areaBase q k
  (List.range 47).any (fun j =>
    match s.walk (s.ccDie q) (s.queue q).qroot (s.queue q).qrgen (base + 65536 * j) with
    | .leaf l => (s.die (homeDie (l.at (base + 65536 * j)))).lost.isSome
    | _ => false)

/-- Whether a launch of a surviving queue is ended when dies are lost (R402). -/
def State.hitByLoss (s : State) (l : Nat) : Bool :=
  let x := s.launch l
  let mine := (idxsOf s.wgs (fun w => w.phase != .free && w.launch == l)).map s.wg
  x.cut || mine.any (fun w => w.resident && (s.die (dieOfCore w.core)).lost.isSome) ||
  mine.any (fun w => s.areaLost x.queue w.area) ||
  (Nat.blt x.next x.total && (List.range 8).any (fun d => x.dies.getLsbD d && (s.die d).lost.isSome))

/-- What the loss of dies does to the queues (R402). -/
def partitionQueues (s : State) : State :=
  foldState (List.range s.queues.length) (fun q t =>
    let x := t.queue q
    if x.state != .lost && (t.die x.owner).lost.isSome then
      (foldState x.launches (endLaunch · 0x1A5) t).modQueue q (fun y =>
        { y with state := .lost, err := 0x1A5, waiting := none, signal := none, thief := none, passed := false, resume := false })
    else if x.state == .saved then t
    else foldState (x.launches.filter t.hitByLoss) (endLaunch · 0x1A5) t) s

end Sys2Proof.Machine
end

