-- ==== Sys2Proof/Machine/SaveRestore.lean ====
section
/-! DEFINITION. Saving and restoring a workgroup (R396 to R401): the context area, the context header and its records, the queue save
record, and the way back. -/

namespace Sys2Proof.Machine

/-! ## The records of a context area (R278, R291, R294, R316, R397, R398) -/

/-- An entry record (R278). -/
def Entry.record (e : Entry) : List Byte :=
  bytesOfNat 4 e.hstat ++ bytesOfNat 4 e.addr ++ bytesOfNat 4 e.size ++ bytesOfNat 4 e.expected ++ bytesOfNat 4 e.ltag ++
  bytesOfNat 4 (e.dpend.toNat * 2 ^ 16 + e.ring * 2 ^ 8 + e.stage) ++ bytesOfNat 8 e.cdone

/-- A fault record (R294). -/
def Entry.faultRecord (e : Entry) : List Byte :=
  match e.frec with
  | some f => (List.range 16).flatMap (fun k => bytesOfNat 4 (f.word k))
  | none => List.replicate 64 0

/-- The cursors of a ring (R397). -/
def Ring.record (r : Ring) : List Byte :=
  bytesOfNat 4 (r.pStage + r.pPar.toNat * 2 ^ 8) ++ bytesOfNat 4 (r.cStage + r.cPar.toNat * 2 ^ 8)

/-- The word for a stopped context's barrier wait (R121, R316, R398): the barrier and the token; a second arrival waits for the phase that is open to
complete. -/
def CtxPhase.barrierWait (p : CtxPhase) (bars : List Barrier) : Nat :=
  match p with
  | .stopped (some (b, tok)) _ _ => 1 + b * 2 ^ 4 + tok.toNat * 2 ^ 12
  | .stopped _ _ (some (b, _)) => 1 + b * 2 ^ 4 + (!(bars.getD b {}).par).toNat * 2 ^ 12
  | _ => 0

/-- A spoke record (R316). -/
def Spoke.record (bars : List Barrier) (c : Spoke) : List Byte :=
  let w : Nat := c.phase.barrierWait bars
  let halted := match c.phase with
    | .ended | .halted => 1
    | _ => 0
  bytesOfNat 8 0 ++ (c.x.drop 1).flatMap (fun v => bytesOfNat 8 v.toNat) ++ bytesOfNat 8 c.pc ++ bytesOfNat 8 c.ctl ++ bytesOfNat 8 c.ctg ++
  bytesOfNat 8 c.cycle ++ bytesOfNat 8 c.instret ++ bytesOfNat 4 w ++ bytesOfNat 4 halted ++ bytesOfNat 16 0

/-- WAIT of the sequencer record (R398). -/
def Seq.waitWord (bars : List Barrier) (q : Seq) : Nat :=
  match q.phase with
  | .stopped none (some (.entryFull h ph)) none => 2 + h % 32 * 2 ^ 4 + ph.toNat * 2 ^ 12
  | .stopped none (some (.signalValid k)) none => 3 + k * 2 ^ 14
  | .ended => 4
  | p => p.barrierWait bars

/-- An entry of the replay list (R398): the word, the g values it read at issue, and how many rows of an MPUSH have been pushed. -/
def Cmd.record (c : Cmd) : List Byte :=
  bytesOfNat 8 c.word.toNat ++ bytesOfNat 8 c.a.toNat ++ bytesOfNat 8 c.b.toNat ++ bytesOfNat 8 c.row

/-- The sequencer record (R398). -/
def Seq.record (bars : List Barrier) (q : Seq) : List Byte :=
  padTo 0x80 (q.g.flatMap (fun v => bytesOfNat 8 v.toNat)) ++ bytesOfNat 8 q.pc ++ bytesOfNat 4 (q.waitWord bars) ++
  bytesOfNat 4 (q.cmds.length + q.commits.length * 2 ^ 8 + q.queue.length * 2 ^ 16) ++
  (List.range 16).flatMap (fun t => bytesOfNat 4 (q.status t)) ++
  q.sig.flatMap (fun v => match v with
    | some w => bytesOfNat 4 w.toNat ++ bytesOfNat 4 1
    | none => bytesOfNat 8 0) ++
  q.slots.flatMap (fun p => match p with
    | some p => bytesOfNat 4 (p.fa + p.d.toNat * 32 + 64)
    | none => bytesOfNat 4 0) ++
  padTo 256 (q.commits.flatMap (fun c => bytesOfNat 8 c.tile ++ bytesOfNat 8 c.pa)) ++ padTo 512 (q.cmds.flatMap Cmd.record)

/-- The bytes of a tile: element (i, j) at 256i + 4j (R397). -/
def Tile.bytes (t : Tile) : List Byte :=
  (List.range 64).flatMap (fun i => (List.range 64).flatMap (fun j => wordBytes ((t.rows.getD i []).getD j 0)))

/-- Where the parts of a context area lie, from its base (R397): the sequencer's tiles, slots, window and rows. -/
def seqParts (tiles : Nat) (q : Seq) : List (Nat × List Byte) :=
  (List.range tiles).map (fun t => (0x3000 + 16384 * t, (q.tile t).bytes)) ++
  (List.range 4).flatMap (fun k => match q.slots.getD k none with
    | some p => [(0x53000 + 16384 * k, p.rows.flatMap (padTo 256))]
    | none => []) ++
  [(0x43000, q.windowRead 0 65536)] ++
  (List.range q.queue.length).flatMap (fun i => match q.queue[i]? with
    | some r => [(0x63000 + 256 * i, r.words.flatMap wordBytes), (0x67000 + 4 * i, wordBytes r.tag)]
    | none => [])

/-- What the routine of R396 stores before the header, in its order. -/
def State.saveParts (s : State) (g : Nat) : List (Nat × List Byte) :=
  let w := s.wg g
  [(0x1100, w.entries.flatMap Entry.record), (0x1900, w.entries.flatMap Entry.faultRecord), (0x400, w.rings.flatMap Ring.record)] ++
  (if w.load then [(0x500, w.lspoke.record w.bars)] else []) ++ (if w.store then [(0x700, w.sspoke.record w.bars)] else []) ++
  (if w.matrix then (0x900, w.seq.record w.bars) :: seqParts w.tiles w.seq else []) ++
  [(0x68000, w.scratchRead 0 w.scratchSize)]

/-- Store parts at their offsets from a base; answers the latest W. -/
def writeParts (q base : Nat) : List (Nat × List Byte) → State × Got Nat → State × Got Nat
  | [], r => r
  | p :: ps, (s, .ok w) =>
    match s.queueWrite q (base + p.1) p.2 with
    | (t, .ok v) => writeParts q base ps (t, .ok (max w v))
    | r => r
  | _, r => r

/-- The context header (R398). -/
def State.header (s : State) (g tdone : Nat) : List Byte :=
  let w := s.wg g
  let x := s.launch w.launch
  let p := w.preq.getD { tq := 0 }
  let forced := (s.warpsOf g).any (fun k => (s.warp k).forced)
  bytesOfNat 4 1 ++ bytesOfNat 4 (1 + forced.toNat * 2 + w.matrix.toNat * 4 + w.load.toNat * 8 + w.store.toNat * 16) ++ bytesOfNat 8 p.tq ++
  bytesOfNat 8 tdone ++ bytesOfNat 4 w.lid ++ bytesOfNat 4 w.ltag ++ bytesOfNat 4 w.entries.length ++ bytesOfNat 4 w.core ++
  bytesOfNat 8 (fieldOf x.packet 0x10 8) ++ x.packet

/-! ## SaveWorkgroup (R396) -/

/-- Whether the engine has performed what it started of a context (R273): an MPUSH on a full queue stops between rows. -/
def Seq.still (q : Seq) : Bool :=
  q.phase.still && q.fault.isNone && (match q.cmds with
    | [] => true
    | c :: _ =>
      c.row == 0 || (match c.op with
        | .mpush _ _ => Nat.ble 64 q.queue.length
        | _ => false))

/-- Whether the copy of an entry has run until it is full or faulted, or waits for deliveries only (R297). -/
def State.entryStill (s : State) (e : Entry) : Bool :=
  match e.st with
  | .free | .full => true
  | .draining => false
  | .filling =>
    e.kind == 0 || (match e.copy.bind s.copyOf with
      | none => true
      | some c => c.flight.isEmpty && ((e.fault && c.raised) || (e.dpend != 0 && c.fail.isNone && Nat.ble c.bytes c.sent)))

/-- Whether every role of a workgroup has stopped and its copies are still (R396). -/
def State.wgStill (s : State) (g : Nat) : Bool :=
  let w := s.wg g
  s.allStopped g && w.seq.still && w.lspoke.phase.still && w.sspoke.phase.still && w.entries.all s.entryStill &&
  !s.outstanding (.seq g) && !s.outstanding (.spoke g false) && !s.outstanding (.spoke g true)

/-- A saved workgroup leaves its core (R396): what its restore needs beside the area is kept, and what each of its splits waits for (log entry 62). -/
def shelveWg (g : Nat) (s : State) : State :=
  let ws := s.warpsById g
  { s with
    splits := s.splits.map (fun x => if x.live && (s.warp x.warp).live && (s.warp x.warp).wg == g then { x with live := false } else x)
    warps := s.warps.map (fun w => if w.live && w.wg == g then { w with live := false } else w)
    wgs := s.wgs.modify g (fun w =>
      { w with phase := .saved, entries := [], bound := false, slot := none, preq := none, scratch := []
               stored := ws.map (fun k => ((s.warp k).width, (s.warp k).base))
               waits := ws.map (fun k => (s.splitsInOrder k).map (fun i => (s.split i).waitsFor)) }) }

/-- A save that fails (R396): VALID stays clear, the workgroup stays stopped and resident, the queue goes to error. -/
def failSave (g q : Nat) (s : State) : State :=
  queueError q 0x1A6 (s.modWg g (fun w => { w with preq := w.preq.map (fun p => { p with failed := true }) }))

/-- A save that a cancellation or the end of its launch has overtaken is left with VALID clear (R133, R396, R401): the first header that is still
marked is cleared; one that cannot be written is left. -/
def clearValid (g : Nat) (s : State) : State :=
  let w := s.wg g
  let q := (s.launch w.launch).queue
  let done (t : State) : State := finishCancelled g (t.modWg g (fun x => { x with revoke := x.revoke.drop 1 }))
  match w.revoke with
  | [] => s
  | ctx :: _ =>
    match (if ctx then s.queueWrite q (s.areaBase q w.area + 4) (bytesOfNat 1 0) else saveBytes g 2 (w.save + 4) (bytesOfNat 1 0) (s, .ok 0)) with
    | (t, .later) => t
    | (t, _) => done t

/-- WORKGROUP_SAVE (R396): with every role stopped and the unit's report in, the routine stores its parts and then the header; once Now has
reached the W of that store the workgroup's resources are free. -/
def execWorkgroupSave (g : Nat) (s : State) : Host.Outcome State Fault Refusal :=
  let w := s.wg g
  let q := (s.launch w.launch).queue
  match w.preq with
  | none => .next (clearValid g s)
  | some p =>
    if w.phase != .running || !s.queueServed q || w.creq.isSome || (s.queue q).state != .preempting then .next s
    else if p.failed then .next (queueError q 0x1A6 s)
    else
      match p.header with
      | some v => if Nat.blt (s.nowDie (s.ccDie q)) v then .next s else .next (shelveWg g s)
      | none =>
        if !p.unitDone || !s.wgStill g then .next s
        else
          let base := s.areaBase q w.area
          match writeParts q base (s.saveParts g) (s, .ok 0) with
          | (t, .later) => .next t
          | (t, .bad _) => .next (failSave g q t)
          | (t, .ok v) =>
            let td := max v p.tdone
            match t.queueWrite q base (t.header g td) with
            | (u, .later) => .next u
            | (u, .bad _) => .next (failSave g q u)
            | (u, .ok x) =>
              .next ((u.modWg g (fun y => { y with preq := some { p with header := some x } })).modQueue q (fun y =>
                { y with savedDone := max y.savedDone td }))

/-- The largest time reported so far by a launch and by what is saved of it (R399). -/
def State.reportedBy (s : State) (l : Nat) : Nat :=
  s.wgs.foldl (fun m w => if w.phase != .free && w.launch == l then max m w.report else m) (s.launch l).largest

/-- The queue save record (R399). -/
def State.queueRecord (s : State) (q : Nat) : List Byte :=
  let x := s.queue q
  let areas := (s.savedOf q).map (fun g => (s.wg g).area)
  padTo 0x20 (bytesOfNat 4 1 ++ bytesOfNat 4 (1 + x.launches.length * 2 ^ 4) ++ bytesOfNat 8 x.savedDone) ++
  bytesOfNat 32 (areas.eraseDups.foldl (fun a k => a + 2 ^ k) 0) ++
  x.launches.flatMap (fun l =>
    let y := s.launch l
    padTo 128 (y.packet ++ bytesOfNat 4 y.next ++ bytesOfNat 4 y.retired ++ bytesOfNat 8 (s.reportedBy l)))

/-- Whether every launch of a pre-empting queue is saved: none is resident, and one that is complete or ended has had its signal (R396,
R401). -/
def State.allSaved (s : State) (q : Nat) : Bool :=
  let x := s.queue q
  x.state == .preempting && s.queueServed q && x.signal.isNone && !x.passed && x.launches.all (fun l =>
    let y := s.launch l
    !s.wgs.any (fun w => w.resident && w.launch == l) && y.ended.isNone &&
    (Nat.blt y.next y.total || s.wgs.any (fun w => w.phase == .saved && w.launch == l)))

/-- QUEUE_PREEMPT (R396, R399): PREQ stops fetch and requests the saves; once every launch in flight is saved, QSAVE is written and the queue is
saved. -/
def execQueuePreempt (q : Nat) (s : State) : Host.Outcome State Fault Refusal :=
  if s.allSaved q then
    match s.queueWrite q (s.queue q).qsave (s.queueRecord q) with
    | (t, .ok _) => .next (t.modQueue q (fun x => { x with state := .saved }))
    | (t, .bad _) => .next (queueError q 0x1A6 t)
    | (t, .later) => .next t
  else .next (if s.hostOn then qctlWrite q (s.queue q).en true s else s.unheard)

/-! ## RestoreWorkgroup (R400) -/

/-- Read parts of a context area. -/
def readParts (q : Nat) : List (Nat × Nat) → List (List Byte) → State → State × Got (List (List Byte))
  | [], acc, s => (s, .ok acc)
  | (va, n) :: ps, acc, s =>
    match s.queueRead q va n with
    | (t, .ok bs) => readParts q ps (acc ++ [bs]) t
    | (t, .bad c) => (t, .bad c)
    | (t, .later) => (t, .later)

/-- Word k of bytes. -/
def wordAt (bs : List Byte) (k : Nat) : Word := BitVec.ofNat 32 (fieldOf bs (4 * k) 4)

/-- A bit of a number as a truth value. -/
def onBit (x k : Nat) : Bool := x.testBit k

/-- A fault record read back (R294). -/
def copyFaultOf (bs : List Byte) : Option CopyFault :=
  let x := fieldOf bs 0 4
  if natOfBytes bs == 0 then none
  else
    some { valid := onBit x 31, detail := bitsOf x 16 9, dst := onBit x 15, cause := bitsOf x 0 9, off := fieldOf bs 4 4, va := fieldOf bs 8 8
           coord := (List.range 5).map (fun k => fieldOf bs (16 + 4 * k) 4), arrived := fieldOf bs 0x24 4 }

/-- An entry record read back (R278). -/
def entryOf (bs fr : List Byte) (copy : Option Nat) : Entry :=
  let h := fieldOf bs 0 4
  let x := fieldOf bs 0x14 4
  { st := match bitsOf h 30 2 with
      | 0 => .free
      | 1 => .filling
      | 2 => .full
      | _ => .draining
    phase := onBit h 29, fault := onBit h 28, win := onBit h 27, kind := bitsOf h 23 3, arrived := bitsOf h 0 20, addr := fieldOf bs 4 4
    size := fieldOf bs 8 4, expected := fieldOf bs 12 4, ltag := fieldOf bs 16 4, dpend := BitVec.ofNat 4 (bitsOf x 16 4), ring := bitsOf x 8 5
    stage := bitsOf x 0 5, cdone := fieldOf bs 0x18 8, copy := copy, frec := copyFaultOf fr }

/-- The copy that still belongs to a saved entry: its own, or one whose delivery it has accepted (R297). -/
def State.copyFor (s : State) (g h : Nat) : Option Nat :=
  (List.range s.copies.length).find? (fun k => match s.copyOf k with
    | some c => c.h == h && ((c.issuer && c.wg == g) || c.dests.any (fun d => d.accepted && d.wg == g))
    | none => false)

/-- The cursors of a ring read back. -/
def ringOf (r : Ring) (bs : List Byte) : Ring :=
  let p := fieldOf bs 0 4
  let c := fieldOf bs 4 4
  { r with pStage := bitsOf p 0 5, pPar := onBit p 8, cStage := bitsOf c 0 5, cPar := onBit c 8 }

/-- The wait that a context returns to (R316, R398): on its saved token, or to arrive again in the next phase (log entry 62). -/
def CtxPhase.resumed (old : CtxPhase) (b : Nat) (tok : Bool) : CtxPhase :=
  match old with
  | .stopped _ _ (some (c, d)) => if c == b then .barAgain b d else .barrier b tok
  | _ => .barrier b tok

/-- A spoke record read back (R316). -/
def spokeOf (old : Spoke) (image bs : List Byte) : Spoke :=
  let w := fieldOf bs 0x128 4
  { phase := if onBit (fieldOf bs 0x12C 4) 0 then .ended else if onBit w 0 then old.phase.resumed (bitsOf w 4 5) (onBit w 12) else .ready
    x := 0 :: (List.range 31).map (fun k => BitVec.ofNat 64 (fieldOf bs (8 + 8 * k) 8)), pc := fieldOf bs 0x100 8, ctl := fieldOf bs 0x108 8
    ctg := fieldOf bs 0x110 8, cycle := fieldOf bs 0x118 8, instret := fieldOf bs 0x120 8, image := image }

/-- What a replayed word asks of the engine (R256). -/
def cmdOfWord (w : Word) : CmdOp :=
  let x := w.toNat
  let t := bitsOf x 21 4
  let s := bitsOf x 17 4
  let f8 := bitsOf x 8 5
  let f3 := bitsOf x 3 5
  let b0 := onBit x 0
  match bitsOf x 25 6 with
  | 8 => .mldA (t % 4) (onBit t 2) f3
  | 9 => .mldB
  | 10 => .mma t (s % 4) f3 f8 b0
  | 11 => .mclr t b0
  | 12 => .mpush t b0
  | 13 => .mst t f3 (f8 / 4) (onBit f8 1) b0
  | 14 => .mspec t s b0
  | 16 => .mcommit t
  | _ => .mresolve

/-- What a word of the replay list does to the status at issue when it is issued again (R254, R273). -/
def Seq.reissue (q : Seq) (c : Cmd) : Seq :=
  match c.op with
  | .mldA slot d fa => { q with islots := q.islots.set slot (some (fa, d)) }
  | .mma t _ fa fb z =>
    q.setAt t (fun x => { x with valid := true, kind := if z || !x.valid then intFormat fa && intFormat fb else x.kind })
  | .mclr t int => q.setAt t (fun x => { x with valid := true, kind := int })
  | .mpush t k => if k && c.a.toNat % 64 == 0 && c.a.toNat / 256 % 128 == 64 then q.setAt t (fun x => { x with valid := false }) else q
  | .mst t _ _ _ k => if k then q.setAt t (fun x => { x with valid := false }) else q
  | .mspec u t _ => q.setAt u (fun x => { x with valid := true, shadow := true, target := t, kind := (q.at t).valid && (q.at t).kind })
  | .mresolve => q.resolveAt (c.a.toNat % 65536) (c.b != 0)
  | _ => q

/-- The sequencer record read back, with the bytes of its tiles, slots, window, rows and tags (R398). What no record holds, the times of its
stores, the addresses of the replayed words and the translations of pending MCOMMITs, stays as it was (log entry 62); an MCOMMIT of which only the record
is left has a physical address alone (log entry 61). -/
def seqOf (old : Seq) (bs : List Byte) (tiles slots : List (List Byte)) (window rows tags : List Byte) : Seq :=
  let wait := fieldOf bs 0x88 4
  let counts := fieldOf bs 0x8C 4
  let pc := fieldOf bs 0x80 8
  let tile (t : Nat) : Tile :=
    let x := fieldOf bs (0x90 + 4 * t) 4
    let data := tiles.getD t []
    { valid := onBit x 0, dirty := onBit x 1, ovf := onBit x 3, shadow := onBit x 4, kind := onBit x 5, target := bitsOf x 12 4
      rows := if data.isEmpty then [] else (List.range 64).map (fun i => (List.range 64).map (fun j => wordAt data (64 * i + j)))
      ctime := (old.tile t).ctime }
  let slot (k : Nat) : Option Panel :=
    let x := fieldOf bs (0xF0 + 4 * k) 4
    let fa := bitsOf x 0 5
    let d := onBit x 5
    if onBit x 6 then
      some { fa := fa, d := d, rows := (List.range 64).map (fun r =>
        (((slots.getD k []).drop (256 * r)).take (panelRecord fa (kDense ((fmtClass fa).getD 0) * (1 + d.toNat))))) }
    else none
  let ts := (List.range 16).map tile
  let ss := (List.range 4).map slot
  let cmds : List Cmd := (List.range (bitsOf counts 0 5)).map (fun k =>
    let o := 0x200 + 32 * k
    let w := BitVec.ofNat 32 (fieldOf bs o 4)
    { word := w, op := cmdOfWord w, a := BitVec.ofNat 64 (fieldOf bs (o + 8) 8), b := BitVec.ofNat 64 (fieldOf bs (o + 16) 8)
      pc := ((old.cmds[k]?).map (fun c => if c.word == w then c.pc else pc)).getD pc
      row := fieldOf bs (o + 24) 8 })
  let commits : List Commit := (List.range (bitsOf counts 8 5)).map (fun k =>
    let pa := fieldOf bs (0x108 + 16 * k) 8
    let c : Commit := { tile := fieldOf bs (0x100 + 16 * k) 1 % 16, va := 2 ^ 64, pa := pa, leaf := { pa := pa / 65536 * 65536 }, time := old.report }
    ((old.commits[k]?).map (fun x => if x.pa == pa && x.tile == c.tile then x else c)).getD c)
  let q : Seq :=
    { old with
      phase := match bitsOf wait 0 4 with
        | 1 => old.phase.resumed (bitsOf wait 4 5) (onBit wait 12)
        | 4 => .ended
        | _ => .ready
      pc := pc, g := (List.range 16).map (fun k => BitVec.ofNat 64 (fieldOf bs (8 * k) 8)), lit := none, n := 0, held := []
      tiles := ts, slots := ss
      issue := ts.map (fun t => { valid := t.valid, kind := t.kind, shadow := t.shadow, target := t.target })
      islots := ss.map (fun p => p.map (fun x => (x.fa, x.d)))
      window := (List.range 65536).map (fun a => (a, window.getD a 0))
      sig := (List.range 4).map (fun k => if onBit (fieldOf bs (0xD4 + 8 * k) 4) 0 then some (wordAt bs (0x34 + 2 * k)) else none)
      queue := (List.range (bitsOf counts 16 7)).map (fun i =>
        { tag := wordAt tags i, words := (List.range 64).map (fun j => wordAt rows (64 * i + j))
          time := ((old.queue[i]?).map (fun r => r.time)).getD old.report })
      cmds := cmds, commits := commits, fault := none }
  cmds.foldl Seq.reissue q

/-- A barrier record read back (R127). It has no place for a poisoned RESULT: the pattern comes back as a plain value (log entry 53). -/
def barrierOf (bs : List Byte) : Barrier :=
  let x := fieldOf bs 0 4
  let p := fieldOf bs 4 4
  let op := bitsOf x 26 3
  let raw := fieldOf bs 8 40
  let acc : Int := if op == 7 then (if raw.testBit 319 then (raw : Int) - ((2 ^ 320 : Nat) : Int) else (raw : Int)) else ((raw % 2 ^ 32 : Nat) : Int)
  let f := fieldOf bs 0x30 4
  let r := BitVec.ofNat 32 (fieldOf bs 0x34 4)
  { par := onBit x 31, trk := onBit x 30, pl := onBit x 29, op := op, arr := bitsOf x 11 11, exp := bitsOf x 0 11, acc := acc
    nan := onBit f 0, pinf := onBit f 1, ninf := onBit f 2, allNegZero := onBit f 3 || !onBit f 4, any := onBit f 4, poison := onBit f 5, result := .val r
    pend := if onBit p 31 then some (bitsOf p 0 11) else none }

/-- The chain of spilled entries of a split (R94, R129): slots from the newest, with the lanes each defers. -/
def readChain (q base : Nat) : Nat → Nat → List (Nat × Mask) → State → State × Got (List (Nat × Mask))
  | 0, _, acc, s => (s, .ok acc)
  | k + 1, slot, acc, s =>
    if slot == 0xFFFF then (s, .ok acc)
    else
      match s.queueRead q (base + 32 * slot) 32 with
      | (t, .ok bs) =>
        let e := divEntryOf bs
        readChain q base k e.2 (acc ++ [(slot, if e.1.rejoin then 0 else e.1.mask)]) t
      | (t, .bad c) => (t, .bad c)
      | (t, .later) => (t, .later)

/-- The wait that a restored split returns to (R121, R131): KIND and WAITARG say where it is parked, and the wait it was stopped in says what the
record has no field for, a destination, a payload or a limit of time (log entry 62); a REGANG whose wait is not known is executed again at its address,
as is every wait of KIND 0; the word of a FUSE is not. -/
def restoredPhase (old : Option Wait) (kind arg : Nat) : Phase :=
  let b := bitsOf arg 0 5
  let tok := onBit arg 8
  match kind, old with
  | 1, some (.barAgain c k) => if c == b then .parked (.barAgain b k) else .parked (.barrier b tok none)
  | 1, some (.barrier c _ d) => .parked (.barrier b tok (if c == b && onBit arg 9 then d else none))
  | 1, _ => .parked (.barrier b tok none)
  | 2, some (.regang _ trap cycles) => .parked (.regang b trap cycles)
  | 3, some (.fuse _ d) => .parked (.fuse (bitsOf arg 0 3) d)
  | 4, some (.gather c k) => .parked (.gather b (if c == b then k else .sync))
  | 4, _ => .parked (.gather b .sync)
  | _, _ => .ready

/-- Read back one split of a warp (R129). -/
def restoreSplit (q g wi : Nat) (primary : Bool) (old : Option Wait) (bs : List Byte) (s : State) : State × Got State :=
  let w := s.wg g
  let u := s.warp wi
  let x := fieldOf bs 0xA4 4
  let arg := fieldOf bs 0xA8 8
  let pc := fieldOf bs 0x88 8
  let kind := bitsOf x 0 4
  gotThen (readChain q (w.dspill + 4096 * (u.base / 4)) (bitsOf x 16 8) (fieldOf bs 0xB0 4) [] s) (fun t chain =>
      let tix := (t.freeTable w.core u.part).getD 0
      let phase := restoredPhase old kind arg
      let ts := fieldOf bs 0xB4 4
      let sp : Split :=
        { live := true, warp := wi, primary := primary, tix := if primary then 0 else tix, quads := BitVec.ofNat 32 (fieldOf bs 0xA0 4)
          pc := (match phase with
            | .parked (.regang _ _ _) => pc + 4
            | _ => pc)
          s := (List.range 32).map (wordAt bs), sp := BitVec.ofNat 32 (fieldOf bs 0x80 4), mr := BitVec.ofNat 32 (fieldOf bs 0x84 4 % 2 ^ 20)
          ctl := fieldOf bs 0x90 8, ctg := fieldOf bs 0x98 8, phase := phase
          gang := ((List.range (bitsOf x 8 5)).map (fun k => BitVec.ofNat 32 (fieldOf bs (0x100 + 4 * k) 4))).reverse
          spill := chain, timedOut := onBit x 4, prv := onBit ts 0, inTrap := onBit ts 1, pprv := onBit ts 2, tcause := fieldOf bs 0xB8 4 % 2 ^ 9
          tmr := BitVec.ofNat 32 (fieldOf bs 0xBC 4 % 2 ^ 20), tpc := fieldOf bs 0xC0 8, tval := fieldOf bs 0xC8 8
          since := (t.die (dieOfCore w.core)).cycle }
      (t, .ok { t with splits := putAt t.splits (firstIdx (fun y => !y.live) t.splits) sp }))

/-- Read back the splits of a warp in order. -/
def restoreSplits (q g wi : Nat) (waits : List (Option Wait)) (data : List Byte) : List Nat → State → State × Got State
  | [], s => (s, .ok s)
  | k :: ks, s =>
    gotThen (restoreSplit q g wi (k == 0) (waits.getD k none) ((data.drop (512 * k)).take 512) s) (fun _ t => restoreSplits q g wi waits data ks t)

/-- Read back one warp (R128, R130, R131): its registers stay absent, but for granules without a live register, which hold uniform poison. -/
def restoreWarp (q g wi at_ : Nat) (waits : List (Option Wait)) (s : State) : State × Got State :=
  gotThen (s.queueRead q at_ 256) (fun s hd =>
    let n := fieldOf hd 8 4
    let width := fieldOf hd 0 4
    let live := fieldOf hd 0x18 8
    gotThen (s.queueRead q (at_ + 256) (512 * n)) (fun s data =>
      gotThen (s.queueRead q (at_ + 256 + 512 * n) (roundUp width 64)) (fun s preds =>
        let t := s.modWarp wi (fun u =>
          { u with
            width := width, barArr := BitVec.ofNat 17 (fieldOf hd 0x10 8), exited := BitVec.ofNat 128 (fieldOf hd 0x38 16), forced := false
            p := (List.range 6).map (fun k => maskOf width (fun l => (preds.getD l 0).getLsbD k))
            absent := BitVec.ofNat 8 (bitsWhere 8 (fun k => live / 2 ^ (8 * k) % 256 != 0)), record := at_, tags := fieldOf hd 0x20 16 })
        restoreSplits q g wi waits data (List.range n) t)))

/-- Read back the warps of a workgroup: record k belongs to the k-th stored warp. -/
def restoreWarps (q g : Nat) (offsets : List Nat) (waits : List (List (Option Wait))) : List (Nat × Nat) → State → State × Got State
  | [], s => (s, .ok s)
  | (_, base) :: ws, s =>
    let w := s.wg g
    match (s.warpsOf g).find? (fun k => (s.warp k).base == base) with
    | none => restoreWarps q g (offsets.drop 1) (waits.drop 1) ws s
    | some wi =>
      gotThen (restoreWarp q g wi (w.save + offsets.headD 0) (waits.headD []) s) (fun _ t => restoreWarps q g (offsets.drop 1) (waits.drop 1) ws t)

/-- Warps by first lane. -/
def byFirstLane (ws : List (Nat × Nat)) : List (Nat × Nat) :=
  ws.foldl (fun l w => l.takeWhile (fun x => Nat.ble x.2 w.2) ++ w :: l.dropWhile (fun x => Nat.ble x.2 w.2)) []

/-- Bytes of n parts of the same size. -/
def splitParts (n size : Nat) (bs : List Byte) : List (List Byte) := (List.range n).map (fun k => (bs.drop (size * k)).take size)

/-- Restore a saved workgroup on a core (R400): the header is checked, VALID is cleared, its entries are bound, its contexts, tiles and
scratchpad are read back, and its roles start. Work whose tag is cancelled there is discarded. -/
def restoreWg (q g core : Nat) (at_ : List (Nat × Nat)) (s : State) : State × Got State :=
  let old := s.wg g
  let l := old.launch
  let x := s.launch l
  let base := s.areaBase q old.area
  gotThen (s.queueRead q base 0x70) (fun s hd =>
    if fieldOf hd 0 4 != 1 || !onBit (fieldOf hd 4 4) 0 then (s, .bad 0x1A7)
    else
      let ltag := fieldOf hd 0x1C 4
      let n := x.handles.1.length
      let unit := base + 0x1E8000
      let parts := [(base + 0x400, 256), (base + 0x500, 320), (base + 0x700, 320), (base + 0x900, 1024), (base + 0x1100, 32 * n),
        (base + 0x1900, 64 * n), (base + 0x68000, x.scratch), (unit, 4096)]
      gotThen (readParts q parts [] s) (fun s a =>
        let part (k : Nat) : List Byte := a.getD k []
        let sq := part 3
        let uh := part 7
        let rows := bitsOf (fieldOf sq 0x8C 4) 16 7
        let big := if old.matrix then
            (List.range old.tiles).map (fun t => (base + 0x3000 + 16384 * t, 16384)) ++
            (List.range 4).map (fun k => (base + 0x53000 + 16384 * k, if onBit (fieldOf sq (0xF0 + 4 * k) 4) 6 then 16384 else 0)) ++
            [(base + 0x43000, 65536), (base + 0x63000, 256 * rows), (base + 0x67000, 4 * rows)]
          else []
        if fieldOf uh 0 4 != 1 || !onBit (fieldOf uh 4 4) 0 then (s, .bad 0x1A7)
        else
          gotThen (readParts q big [] s) (fun s m =>
            gotThen (readImages core l s) (fun s im =>
              gotThen (s.queueWrite q (base + 4) (bytesOfNat 4 (fieldOf hd 4 4 / 2 * 2))) (fun s _ =>
                let es := (List.range n).map (fun h =>
                  entryOf ((part 4).drop (32 * h) |>.take 32) ((part 5).drop (64 * h) |>.take 64) (s.copyFor g h))
                let rs := (List.range x.handles.2.length).map (fun k =>
                  ringOf (x.handles.2.getD k { stages := 1, first := 0 }) ((part 0).drop (8 * k) |>.take 8))
                let w0 := dispatched s l core old.area old
                let w : Wg :=
                  { w0 with
                    phase := .running, ltag := ltag, entries := es, rings := rs, bound := true, preq := none, creq := none, sqfaddr := 0
                    scratch := cellsWrite [] 0 (part 6), bars := (splitParts (1 + x.nbar) 64 (uh.drop 0x40)).map barrierOf
                    seq := if old.matrix then
                        seqOf old.seq sq (m.take old.tiles) ((m.drop old.tiles).take 4) (m.getD (old.tiles + 4) []) (m.getD (old.tiles + 5) [])
                          (m.getD (old.tiles + 6) [])
                      else {}
                    lspoke := if old.load then spokeOf old.lspoke im.1 (part 1) else {}
                    sspoke := if old.store then spokeOf old.sspoke im.2 (part 2) else {} }
                let t := { s with
                  wgs := s.wgs.set g w, nextId := s.nextId + 1
                  copies := s.copies.map (fun c => if c.live && c.wg == g then { c with core := core, root := w.troot, rgen := w.trgen } else c) }
                let u := makeWarps g (unitsOf (byFirstLane old.stored)) at_ old.stored t
                let offsets := (List.range (fieldOf uh 8 4)).map (fun k => fieldOf uh (0x800 + 4 * k) 4)
                restoreWarps q g offsets old.waits old.stored u)))))

/-- Words of the replay list are issued again (R266, R273): the addresses of MCOMMITs are translated; a cause there halts the context once the
words before it are performed. A walk that has to wait lets the whole restore wait. -/
def reissueWords (w : Wg) : List Cmd → List Cmd → State → State × Got (List Cmd × Option Halt)
  | [], acc, s => (s, .ok (acc, none))
  | c :: cs, acc, s =>
    let halt (t : State) : State × Got (List Cmd × Option Halt) := (t, .ok (acc, some { cause := 0x0EA, pc := c.pc, val := c.a.toNat }))
    match c.op with
    | .mcommit _ =>
      match s.translate w.core w.troot w.trgen c.a.toNat .store w.prv with
      | (t, .leaf l) => if l.m then halt t else reissueWords w cs (acc ++ [{ c with leaf := l }]) t
      | (t, .fault x) => halt (t.logXlat w.core 7 x c.a.toNat)
      | (t, _) => (t, .later)
    | _ => reissueWords w cs (acc ++ [c]) s

/-- The replay of a restored sequencer context (R273). -/
def reissueSeq (g : Nat) (s : State) : State × Got State :=
  gotThen (reissueWords (s.wg g) (s.wg g).seq.cmds [] s) (fun t r =>
    let u := t.modSeq g (fun q => { q with cmds := r.1 })
    (u, .ok (match r.2 with
      | some h => settleFault g (u.modSeq g (fun q => { q with phase := .halted, fault := some h }))
      | none => u)))

/-- The replays of restored workgroups. -/
def reissueAll : List Nat → State → State × Got State
  | [], s => (s, .ok s)
  | g :: gs, s => gotThen (if (s.wg g).matrix then reissueSeq g s else (s, .ok s)) (fun _ t => reissueAll gs t)

/-- The saved workgroups that a restore of one takes with it: the others of its cluster group (R22). -/
def State.restoreSet (s : State) (g : Nat) : List Nat :=
  let w := s.wg g
  if (s.launch w.launch).cgrp == 1 then [g]
  else (idxsOf s.wgs (fun x => x.phase == .saved && x.launch == w.launch && x.group == w.group))

/-- The saved workgroup of a queue that is restored next: in packet order, and in walk order within a launch (R20, R400). -/
def State.nextRestore (s : State) (q : Nat) : Option Nat :=
  let key (g : Nat) : Nat := firstIdx (fun l => l == (s.wg g).launch) (s.queue q).launches * 2 ^ 48 + (s.wg g).lid
  ((s.savedOf q).filter (fun g => (s.launch (s.wg g).launch).ended.isNone)).foldl (fun best g => match best with
    | none => some g
    | some b => if Nat.blt (key g) (key b) then some g else some b) none

/-- Whether a core can bind what a workgroup to be restored needs (R277, R302). -/
def State.canBindOn (s : State) (g core : Nat) : Bool :=
  let l := (s.wg g).launch
  !(s.wgsOn core).any (fun k => (s.wg k).phase == .placed) && Nat.ble (s.boundEntries core + (s.launch l).handles.1.length) 64 &&
  s.imageFits core l false && s.imageFits core l true

/-- Restore workgroups at their places, one after another. -/
def restoreAll (q : Nat) : List (Nat × Nat × List (Nat × Nat)) → State → State × Got State
  | [], s => (s, .ok s)
  | (g, core, at_) :: ps, s => gotThen (restoreWg q g core at_ s) (fun _ t => restoreAll q ps t)

/-- What follows a restore: cancelled work is discarded, and what returned to the parked pool tests its condition at once (R131); a workgroup of which
only a collective was left retires where that has ended (R414). -/
def afterRestore (gs : List Nat) (s : State) : State :=
  foldState gs (fun g z =>
    if z.tagCancelled (dieOfCore (z.wg g).core) (z.wg g).ltag then discardWg g z
    else
      let bars := List.range (z.wg g).bars.length
      let t := foldState bars (fun b y =>
        settleBar g b (foldState (ctxsOf g) (fun p x => wakeCtx g b p x) (foldState (y.wgSplits g) (fun i x => wakeSplit g b i x) y))) z
      tryRetire g (foldState (t.warpsOf g) afterGone t)) s

/-- A launch as its part of the queue save record says it (R399). -/
def Launch.resumed (x : Launch) (r : List Byte) : Launch :=
  { x.ofPacket (r.take 64) with next := fieldOf r 64 4, retired := fieldOf r 68 4, largest := fieldOf r 72 8 }

/-- Every saved launch of a queue fails (R400). -/
def failResume (q cause : Nat) (s : State) : State :=
  foldState (s.queue q).launches (endLaunch · cause) (s.modQueue q (fun x => { x with resume := false }))

/-- Every saved launch of the record is resumed, in packet order (R400): what was saved of it is restored where its area's bit is set, and a launch
whose DIEMASK names a lost die is ended (R402). -/
def resumeLaunches (q : Nat) (hd recs : List Byte) (s : State) : State :=
  let bits := fieldOf hd 0x20 32
  let ls := (s.queue q).launches.take (bitsOf (fieldOf hd 4 4) 4 3)
  let gone := (s.savedOf q).filter (fun g => !ls.contains (s.wg g).launch || !bits.testBit (s.wg g).area)
  let t := foldState gone freeWg s
  let u := foldState (List.range ls.length) (fun n z => z.modLaunch (ls.getD n 0) (fun x => x.resumed ((recs.drop (128 * n)).take 128))) t
  let v := foldState ((s.queue q).launches.filter (fun l => !ls.contains l)) (fun l z => z.modLaunch l (fun x => { x with live := false })) u
  let w := v.modQueue q (fun x => { x with resume := false, launches := ls })
  foldState (ls.filter (fun l => (List.range 8).any (fun d => (w.launch l).dies.getLsbD d && (w.die d).lost.isSome))) (endLaunch · 0x1A5) w

/-- The owner reads the queue save record (R399, R400): one that is not valid is an invalid context, and one that cannot be read a failed access
(R403). -/
def resumeQueue (q : Nat) (s : State) : State :=
  match gotThen (s.queueRead q (s.queue q).qsave 0x40) (fun t hd =>
      if fieldOf hd 0 4 != 1 || !onBit (fieldOf hd 4 4) 0 then (t, .bad 0x1A7)
      else gotThen (t.queueRead q ((s.queue q).qsave + 0x40) (128 * bitsOf (fieldOf hd 4 4) 4 3)) (fun u r => (u, .ok (hd, r)))) with
  | (t, .later) => t
  | (t, .bad c) => failResume q (if c == 0x1A7 then 0x1A7 else 0x1A6) t
  | (t, .ok r) => resumeLaunches q r.1 r.2 t

/-- The first test of a restore (R400): FORMAT and VALID of each area. -/
def checkAreas (q : Nat) : List Nat → State → State × Got PUnit
  | [], s => (s, .ok PUnit.unit)
  | k :: ks, s =>
    gotThen (s.queueRead q (s.areaBase q k) 8) (fun t hd =>
      if fieldOf hd 0 4 != 1 || !onBit (fieldOf hd 4 4) 0 then (t, .bad 0x1A7) else checkAreas q ks t)

/-- Place the saved workgroups that go together and read their state back (R400): nothing happens where no cores have room for them. -/
def placeSaved (q g : Nat) (s : State) : State :=
  let l := (s.wg g).launch
  let gs := s.restoreSet g
  let shapes := gs.map (fun k => unitsOf (byFirstLane (s.wg k).stored))
  let d := (s.queue q).owner
  match s.placesFor d l shapes with
  | none => s
  | some places =>
    if !(List.range gs.length).all (fun j => s.canBindOn (gs.getD j 0) (places.getD j (0, [])).1) then s
    else
      let clusters := (places.map (fun p => clusterOfCore p.1)).eraseDups
      let first (k : Nat) : Bool := (s.launch l).fuse && !s.wgs.any (fun x => x.phase == .running && clusterOfCore x.core == k)
      match flushClusters (clusters.filter (fun k => s.fusedLeft.contains k || first k)) s with
      | (t, false) => t
      | (t, true) =>
        match gotThen (restoreAll q ((List.range gs.length).map (fun j => (gs.getD j 0, places.getD j (0, [])))) t) (fun _ u => reissueAll gs u) with
        | (_, .later) => t
        | (u, .bad c) => endLaunch l (if c == 0x1A7 then 0x1A7 else 0x1A6) u
        | (_, .ok u) =>
          let v := if (s.launch l).fuse then foldState places (fun p z => z.modCore (p.1 / 4 * 4) (fun y => { y with fused := true })) u else u
          noteWork q (afterRestore gs (advancePointer d (places.getLast?.getD (0, [])).1 v))

/-- WORKGROUP_RESTORE (R400): the save record is read first; then the saved workgroup of an area, the next of its queue, is tested, placed, and its
state read back. A launch whose DIEMASK names a lost die is ended (R402); an invalid context ends its launch with 0x1A7. -/
def execWorkgroupRestore (q area : Nat) (s : State) : Host.Outcome State Fault Refusal :=
  if (s.queue q).state != .active || !s.queueServed q then .next s
  else if (s.queue q).resume then .next (resumeQueue q s)
  else
    match s.nextRestore q with
    | none => .next s
    | some g =>
      let w := s.wg g
      let l := w.launch
      if w.area != area then .next s
      else if (List.range 8).any (fun d => (s.launch l).dies.getLsbD d && (s.die d).lost.isSome) then .next (endLaunch l 0x1A5 s)
      else
        match checkAreas q ((s.restoreSet g).map (fun k => (s.wg k).area)) s with
        | (t, .later) => .next t
        | (t, .bad c) => .next (endLaunch l (if c == 0x1A7 then 0x1A7 else 0x1A6) t)
        | (t, .ok _) => .next (placeSaved q g t)

end Sys2Proof.Machine
end

