-- ==== Sys2Proof/Machine/Crossing.lean ====
section
/-! DEFINITION. The steps of the crossing and time engine (R216 to R233): links, heartbeats, the servo, the bounds, PTM, and what a
partition does. -/

namespace Sys2Proof.Machine

/-! ## Links and the live graph (R219, R221, R231) -/

/-- Note, for every die, since when it has seen no live path to die 0, on its own clock, and since when die 0 has seen none to it, on die 0's
(R231). -/
def refreshPaths (s : State) : State :=
  { s with dies := s.dies.mapIdx (fun d x =>
      { x with noPath := if s.seesPath d d then none else some (x.noPath.getD x.now)
               unseen := if s.seesPath 0 d then none else some (x.unseen.getD (s.nowDie 0)) }) }

/-- A die declares one of its links down (R219, R231): it stops sending there, and records it. -/
def declareLinkDown (d dir : Nat) (s : State) : State :=
  refreshPaths (s.modDie d (fun x =>
    { x with linkUp := x.linkUp &&& ~~~(BitVec.ofNat 4 (2 ^ dir)), xf := x.xf.record { cause := 0x0C3, info := dir * 2 ^ 9 } }))

/-- Whether a die has stopped: at its thermal limit (R435), or with the whole device in PS2 (R433). -/
def State.asleep (s : State) (d : Nat) : Bool := (s.die d).hung || s.dev.ps == 2

/-- Whether a link, given as 4 × die + direction, is up at its die. -/
def State.linkOn (s : State) (link : Nat) : Bool :=
  Nat.blt link 32 && (s.neighbour (link / 4) (link % 4)).isSome && (s.die (link / 4)).linkUp.getLsbD (link % 4)

/-- LINK_DOWN (R219): sixteen consecutive resends of one flit have failed. Requests on their way stay, and go over the new route in their order
(R221). -/
def execLinkDown (link : Nat) (s : State) : Host.Outcome State Fault Refusal :=
  if s.linkOn link && !s.asleep (link / 4) && Nat.ble 16 ((s.die (link / 4)).resends.getD (link % 4) 0) then .next (declareLinkDown (link / 4) (link % 4) s) else .next s

/-- HEARTBEAT_TIMEOUT (R231): no heartbeat on a link for 8 µs. -/
def execHeartbeatTimeout (link : Nat) (s : State) : Host.Outcome State Fault Refusal :=
  let x := s.die (link / 4)
  if s.linkOn link && !s.asleep (link / 4) && Nat.ble (x.linkBeat.getD (link % 4) 0 + 128000) x.now then .next (declareLinkDown (link / 4) (link % 4) s)
  else .next s

/-! ## Heartbeats and bounds (R220, R223, R224) -/

/-- Note since when a die's bound has stayed below 1 µs (R224). -/
def trackBound (d : Nat) (s : State) : State :=
  let below := Nat.blt (s.pkgRaw d) 16000
  s.modDie d (fun x => { x with belowSince := if below then some (x.belowSince.getD x.now) else none })

/-- HEARTBEAT_SEND (R220): every 1 µs, with the departure time, δ and the die's link-state word. -/
def execHeartbeatSend (d : Nat) (s : State) : Host.Outcome State Fault Refusal :=
  let x := s.die d
  if Nat.ble 8 d || s.asleep d || Nat.blt x.now (x.sent.1 + 16000) then .next s
  else .next (s.modDie d (fun y => { y with sent := (y.now, s.deltaOf d, y.linkUp) }))

/-- The direction of a die's live link to a neighbour. -/
def State.linkTo (s : State) (d e : Nat) : Option Nat :=
  (List.range 4).find? (fun dir => s.neighbour d dir == some e && s.linkLive d dir)

/-- HEARTBEAT_RECEIVE (R223, R231): a heartbeat that has not been seen reaches a die, flooded over the live links, and brings the sender's link-state
word; from a neighbour it also keeps the link up. -/
def execHeartbeatReceive (d src : Nat) (s : State) : Host.Outcome State Fault Refusal :=
  let b := (s.die src).sent
  let seen := ((s.die d).beats.find? (fun p => p.1 == src)).elim 0 (fun p => p.2.2)
  if Nat.ble 8 d || d == src || s.asleep d || (s.hops src d).isNone || Nat.ble b.1 seen then .next s
  else
    let t := trackBound d s
    let u := t.modDie d (fun x =>
      { x with
        beats := (src, b.2.1, b.1) :: x.beats.filter (fun p => p.1 != src)
        linkBeat := match s.linkTo d src with
          | some dir => x.linkBeat.set dir x.now
          | none => x.linkBeat
        view := x.view.set src b.2.2 })
    .next (refreshPaths (trackBound d u))

/-- DIE_UNSYNC (R224): the bound exceeds 10 µs, or the oscillator fails its self-check. -/
def execDieUnsync (d : Nat) (oscillator : Bool) (s : State) : Host.Outcome State Fault Refusal :=
  let x := s.die d
  if Nat.ble 8 d || s.asleep d || x.unsync || !(oscillator || Nat.blt 160000 (s.pkgRaw d)) then .next s
  else .next (s.modDie d (fun y => { y with unsync := true, belowSince := none, xf := y.xf.record { cause := 0x0C5 } }))

/-- DIE_RESYNC (R224): the bound has stayed below 1 µs for 100 µs. -/
def execDieResync (d : Nat) (s : State) : Host.Outcome State Fault Refusal :=
  let x := s.die d
  match x.belowSince with
  | some t =>
    if x.unsync && !s.asleep d && Nat.blt (s.pkgRaw d) 16000 && Nat.ble (t + 1600000) x.now then .next (s.modDie d (fun y => { y with unsync := false }))
    else .next s
  | none => .next s

/-! ## The servo (R222) -/

/-- SYNC_SEND (R220): every 1 µs on the servo link; t₁ is kept, with the upstream die's count at that moment, before which the token cannot arrive. -/
def execSyncSend (d : Nat) (s : State) : Host.Outcome State Fault Refusal :=
  let x := s.die d
  if Nat.ble 8 d || s.asleep d || (s.upstream d).isNone || Nat.blt x.now (max ((x.sync.map Prod.fst).getD 0) x.lastSync + 16000) then .next s
  else .next (s.modDie d (fun y => { y with sync := some (y.now, s.nowDie ((s.upstream d).getD 0)) }))

/-- Whether the times of a SYNC exchange can be those of an exchange that ends now: the token left at t1, reached the upstream die at t2, and the
reply left at t3 and arrives at t4 (R220). -/
def State.syncTimes (s : State) (d t1 t2 t3 t4 : Nat) : Bool :=
  match (s.die d).sync, s.upstream d with
  | some (a, u), some e => a == t1 && Nat.ble u t2 && Nat.ble t2 t3 && Nat.ble t3 (s.nowDie e) && t4 == s.nowDie d
  | _, _ => false

/-- SYNC_RECEIVE (R222): the reply to the SYNC that left at t1 gives the offset ((t2 − t1) − (t4 − t3)) ÷ 2, which is slewed in; the bound is
1.5 ns for each hop of the servo path. An odd difference is halved to a whole unit of 1/16 ns, rounding down (DESIGN CHOICE, log entry 67). -/
def execSyncReceive (d t1 t2 t3 t4 : Nat) (s : State) : Host.Outcome State Fault Refusal :=
  if s.asleep d || !s.syncTimes d t1 t2 t3 t4 then .next s
  else
    let off : Int := (((t2 : Int) - (t1 : Int)) - ((t4 : Int) - (t3 : Int))) / 2
    let t := trackBound d s
    let u := t.modDie d (fun y =>
      { y with slew := off, delta := 24 * ((s.hops d 0).getD 0), lastSync := y.now, hold := false, sync := none })
    .next (trackBound d u)

/-- SERVO_HOLDOVER (R222): replies have stopped for 4 µs. -/
def execServoHoldover (d : Nat) (s : State) : Host.Outcome State Fault Refusal :=
  let x := s.die d
  if Nat.ble 8 d || d == 0 || x.hold || s.asleep d || Nat.blt x.now (x.lastSync + 64000) then .next s
  else .next (s.modDie d (fun y => { y with hold := true, xf := y.xf.record { cause := 0x0C4 } }))

/-! ## PTM (R222 to R224) -/

/-- Every die reads HUNSYNC from the package's one PTM requester. -/
def setHunsync (b : Bool) (s : State) : State := { s with dies := s.dies.map (fun x => { x with hunsync := b }) }

/-- PTM_EXCHANGE (R222, R223): die 0 slews its count toward 16 × the master time, which is in ns, and measures the uncertainty; the other three
values are in 1/16 ns. -/
def execPtmExchange (master rtt turnaround gran : Nat) (s : State) : Host.Outcome State Fault Refusal :=
  if !s.ptm.enabled || s.hdown || s.asleep 0 then .next s
  else
    let now := s.nowDie 0
    let t := s.modDie 0 (fun x => { x with slew := ((16 * master : Nat) : Int) - (now : Int) })
    .next (setHunsync false { t with ptm := { t.ptm with unc := (rtt - turnaround + 1) / 2 + gran, last := now, lost := false } })

/-- PTM_LOST (R224): responses have been missing for 1 ms. -/
def execPtmLost (s : State) : Host.Outcome State Fault Refusal :=
  if s.ptm.enabled && !s.asleep 0 && !s.ptm.lost && Nat.ble (s.ptm.last + 16000000) (s.nowDie 0) then
    .next (setHunsync true ({ s with ptm := { s.ptm with lost := true } }.modDie 0 (fun x => { x with xf := x.xf.record { cause := 0x0C7 } })))
  else .next s

/-! ## Partitions (R231, R232, R402) -/

/-- PARTITION_DECLARE (R231): die 0 declares lost a die to which it has had no live path for 16 µs. -/
def execPartitionDeclare (d : Nat) (s : State) : Host.Outcome State Fault Refusal :=
  let now := s.nowDie 0
  match (s.die d).unseen with
  | some t0 =>
    if Nat.blt 0 d && Nat.blt d 8 && (s.die d).lost.isNone && !s.asleep 0 && Nat.ble (t0 + 256000) now then
      let t := (s.modDie d (fun x => { x with lost := some now })).modDie 0 (fun x =>
        { x with xf := x.xf.record { cause := 0x0C6, info := d * 2 ^ 13 } })
      .next (partitionQueues t)
    else .next s
  | none => .next s

/-- DIE_PARTITIONED (R232): a die that has had no live path to die 0 for 16 µs stops; its parties end as under a kill, and their requests to
homes it cannot reach are dropped. The launches they belonged to are cut: no command core completes one (R402). -/
def execDiePartitioned (d : Nat) (s : State) : Host.Outcome State Fault Refusal :=
  let x := s.die d
  match x.noPath with
  | some t0 =>
    if Nat.blt 0 d && Nat.blt d 8 && !x.quiesced && s.dev.ps != 2 && Nat.ble (t0 + 256000) x.now then
      let t := foldState (s.residentWgs.filter (fun g => dieOfCore (s.wg g).core == d))
        (fun g z => discardWg g (z.modLaunch (z.wg g).launch (fun l => { l with cut := true }))) (s.modDie d (fun y => { y with quiesced := true }))
      .next { t with reqs := t.reqs.filter (fun r => match r with
          | .mem r => !(dieOfCore r.core == d && (t.hops d (homeDie r.pa)).isNone)
          | .eng r => !(dieOfCore r.core == d && (t.hops d r.die).isNone)) }
    else .next s
  | none => .next s

/-! ## Time waits (R17) -/

/-- Whether a phase waits for a time. -/
def Phase.timed (p : Phase) : Bool :=
  match p with
  | .parked (.retest (.time _)) | .parked (.retest (.fence _ _)) | .parked (.genwait _ _) => true
  | _ => false

/-- TIME_TARGET_REACHED (R17): the parties of a die whose time has come become issuable. -/
def execTimeTargetReached (d : Nat) (s : State) : Host.Outcome State Fault Refusal :=
  let mine := (idxsOf s.splits (fun x => x.live && x.phase.timed)).filter (fun i => dieOfCore (s.coreOf i) == d && (match (s.split i).phase with
    | .parked (.genwait t _) => Nat.ble t (s.nowOf i)
    | _ => s.issuable i))
  let t := foldState mine wake s
  let due (p : Party) (g : Nat) : Bool := match s.ctxPhase p with
    | .retest (.time _) => dieOfCore (s.wg g).core == d && s.ctxIssuable p g
    | _ => false
  .next (foldState s.residentWgs (fun g z => foldState (ctxsOf g) (fun p y => if due p g then y.setCtxPhase p .ready else y) z) t)

end Sys2Proof.Machine
end

