-- ==== Sys2Proof/Machine/HostSide.lean ====
section
/-! DEFINITION. The host's side of the CXL port (R210, R211, R213): snoops of lines that the proxy holds, its answers to the proxy, and its
own reads and writes of device memory. -/

namespace Sys2Proof.Machine

/-! ## The proxy as a caching agent (R210, R213) -/

/-- HOST_SNOOP (R210). -/
def execHostSnoop (line : Nat) (s : State) : Host.Outcome State Fault Refusal :=
  if s.hdown || s.dev.ps == 2 then .next s.unheard
  else .next { s with hlines := s.hlines.map (fun l => if l.line == line then { l with snooped := true } else l) }

/-- HOST_SNOOP_ANSWER (R210): the line leaves once the latest expiry granted on it has passed. -/
def execHostSnoopAnswer (line : Nat) (s : State) : Host.Outcome State Fault Refusal :=
  .next { s with hlines := s.hlines.filter (fun l => !(l.line == line && l.snooped && Nat.ble l.e (s.nowDie 0))) }

/-- The host's answer to a request fails (R213): the requests that wait for the line take 0x085, and so does what else asks for it in the
next 64 ns. -/
def failLine (line : Nat) (s : State) : State :=
  let hit (r : MemReq) : Bool := isHost r.pa && Nat.ble (r.pa / 64) line && Nat.ble line ((r.pa + 4 * r.span.count - 1) / 64)
  { s with
    hreqs := s.hreqs.filter (fun q => q.line != line)
    hfail := (line, s.nowDie 0 + 1024) :: s.hfail.filter (fun f => f.1 != line && Nat.blt (s.nowDie 0) f.2)
    reqs := s.reqs.map (fun q => match q with
      | .mem r => if hit r then .mem { r with fail := some 0x085 } else q
      | _ => q) }

/-- CXL_CACHE_RESPONSE (R210, R213): the line arrives with the host's bytes, in Shared or with ownership as it was asked for. -/
def execCxlCacheResponse (line : Nat) (err : Bool) (data : List Byte) (s : State) : Host.Outcome State Fault Refusal :=
  if s.dev.ps == 2 then .next s.unheard
  else
  match s.hreqs.find? (fun q => q.line == line && !s.hdown) with
  | none => .next s
  | some _ =>
    if err then .next (failLine line s)
    else
      let own := s.hreqs.any (fun q => q.line == line && q.own)
      let rest := s.hlines.filter (fun l => l.line != line)
      let t := { s with hreqs := s.hreqs.filter (fun q => q.line != line) }
      match s.hlines.find? (fun l => l.line == line) with
      | some l => .next { t with hlines := { l with owned := l.owned || own } :: rest }
      | none => .next { t.writeMem 0 (64 * line) (data.take 64) with hlines := { line := line, owned := own } :: rest }

/-- CXL_CACHE_TIMEOUT (R213): not completed within 1 ms. -/
def execCxlCacheTimeout (line : Nat) (s : State) : Host.Outcome State Fault Refusal :=
  if s.hreqs.any (fun q => q.line == line && Nat.ble (q.since + 16000000) (s.nowDie 0)) then .next (failLine line s) else .next s

/-! ## The host as a CXL.mem agent (R211) -/

/-- Whether an access of the host lies in one block of the device memory that a decoder covers: a die's DRAM below its lineage store, which is the
top 256 MiB (R320, R420). -/
def hostRange (pa n : Nat) : Bool := isDram pa && Nat.blt (pa % 2 ^ 36) (191 * 2 ^ 28) && Nat.blt 0 n && Nat.ble (pa % 256 + n) 256

/-- The blocks the host holds in the slice of an address. -/
def State.heldIn (s : State) (pa : Nat) : List Nat := s.hheld.filter (fun b => homeOf (256 * b) == homeOf pa)

/-- HOST_MEM_READ (R211): served like any read, without a lease; the host then holds the block. A full snoop filter first invalidates its
oldest entry. What the host receives is kept: nothing for a read that fails. -/
def execHostMemRead (pa n : Nat) (s : State) : Host.Outcome State Fault Refusal :=
  if !s.hostOn then .next s.unheard
  else if !hostRange pa n then .next s
  else if s.onHold pa || s.homeBusy 0 false pa n .device then .next (s.prompt false pa n)
  else
    match s.homeCause pa n with
    | some _ => .next { s with hout := [] }
    | none =>
      let b := pa / 256
      let t := { s with hout := s.readMem 0 pa n }
      if s.hheld.contains b then .next t
      else
        let held := s.heldIn pa
        if Nat.blt held.length 16384 then .next { t with hheld := t.hheld ++ [b] }
        else
          let old := held.headD 0
          .next (if s.hbinv.contains old then s else { s with hbinv := s.hbinv ++ [old] })

/-- HOST_MEM_WRITE (R211): the home applies the write and computes W with ε(device); the completion is owed to the host. -/
def execHostMemWrite (pa : Nat) (data : List Byte) (s : State) : Host.Outcome State Fault Refusal :=
  let n := data.length
  if !s.hostOn then .next s.unheard
  else if !hostRange pa n then .next s
  else if s.onHold pa || s.noRoute 0 (homeDie pa) || s.ownedByOther (spanOf pa n) .device then .next (s.prompt false pa n)
  else if (s.wholeCause pa).isSome then .next { s with hwrites := s.hwrites ++ [(pa, 0)] }
  else
    let r := s.homeStore 0 pa data
    .next { r.1 with hwrites := r.1.hwrites ++ [(pa, r.2)] }

/-- HOST_WRITE_COMPLETION (R211): returned once Now has reached W at the home. -/
def execHostWriteCompletion (i : Nat) (s : State) : Host.Outcome State Fault Refusal :=
  match s.hwrites[i]? with
  | some (pa, w) => if Nat.ble w (s.nowDie (homeDie pa)) && !s.hdown then .next { s with hwrites := s.hwrites.eraseIdx i } else .next s
  | none => .next s

/-- BACK_INVALIDATE_RESPONSE (R211): the host no longer holds the block, and what waited for it may be applied. -/
def execBackInvalidateResponse (block : Nat) (s : State) : Host.Outcome State Fault Refusal :=
  if s.dev.ps == 2 then .next s.unheard
  else if s.hbinv.contains block && !s.hdown then
    .next { s with hbinv := s.hbinv.filter (fun b => b != block), hheld := s.hheld.filter (fun b => b != block) }
  else .next s

end Sys2Proof.Machine
end

