-- ==== Sys2Proof/Machine/Security.lean ====
section
/-! DEFINITION. Host interface and security (R420 to R427): key slots, attestation over DOE, link IDE, and the failures of the CXL link. -/

namespace Sys2Proof.Machine

/-! ## System-class causes (R427) -/

/-- Change what the device holds as a whole. -/
def State.modDev (s : State) (f : Dev → Dev) : State := { s with dev := f s.dev }

/-- Record a cause in SYSFSTAT. -/
def recordSys (cause : Nat) (s : State) : State := s.modDev (fun x => { x with sf := x.sf.record { cause := cause } })

/-- Whether BAR0 answers (R421, R426, R432, R434). -/
def State.bar0On (s : State) : Bool := (s.dev.st == 1 || s.dev.st == 2) && s.dev.ps != 2 && !s.hdown

/-! ## Key slots (R422, R423) -/

/-- A key-slot command is refused. -/
def refuseKey (s : State) : State := recordSys 0x1E1 (s.modDev (fun x => { x with keyerr := true }))

/-- The bytes of KEYDATA. -/
def Dev.keyBytes (x : Dev) : List Byte := x.keydata.flatMap wordBytes

/-- CMD 01: load KEYDATA into the slot of KEYSEL and enable it. -/
def loadKey (s : State) : State :=
  let x := s.dev
  let k := x.keysel
  if k == 0 || s.keyOn k || !x.ideOk || x.closing.isSome then refuseKey s
  else
    { s with
      keys := (k, x.keyBytes) :: s.keys.filter (fun t => t.1 != k)
      dev := { x with keydata := List.replicate 16 0, keyerr := false } }

/-- CMD 10: clear the enable bit of the slot; its lines are then written back. -/
def disableKey (s : State) : State :=
  let x := s.dev
  if x.keysel == 0 || x.closing.isSome then refuseKey s else { s with dev := { x with closing := some x.keysel, keyerr := false } }

/-- KEY_LOAD (R423). -/
def execKeyLoad (s : State) : Host.Outcome State Fault Refusal := if s.bar0On then .next (loadKey s) else .next s.unheard

/-- KEY_DISABLE (R423). -/
def execKeyDisable (s : State) : Host.Outcome State Fault Refusal := if s.bar0On then .next (disableKey s) else .next s.unheard

/-- Write back and drop every L2 line tagged with a slot (R422, R423). -/
def dropKeyLines (k : Nat) (s : State) : State :=
  foldState ((s.tags.filter (fun t => t.2 == k)).map (fun t => t.1)) (fun g t => t.rekey 0 g) s

/-- Whether an access of a slot that its home has accepted is still to complete. -/
def State.keyInUse (s : State) (k : Nat) : Bool :=
  s.reqs.any (fun q => match q with
    | .mem r => r.leaf.key == k
    | .eng _ => false) ||
  s.copies.any (fun c => c.live && c.flight.any (fun u => u.leaf.key == k))

/-- KEY_DISABLE_COMPLETE (R423). -/
def execKeyDisableComplete (s : State) : Host.Outcome State Fault Refusal :=
  match s.dev.closing with
  | none => .next s
  | some k =>
    if s.keyInUse k then .next s
    else
      let t := dropKeyLines k s
      .next { t with keys := t.keys.filter (fun x => x.1 != k), dev := { t.dev with closing := none } }

/-! ## Attestation (R425) -/

/-- Answer over DOE: in the running device the reply, in the safe state the one R432 allows, while the device starts or wakes a retry. -/
def doeAnswer (safe : Bool) (reply : State → State × DoeReply) (s : State) : Host.Outcome State Fault Refusal :=
  if s.hdown then .next s
  else if s.dev.st == 0 || s.dev.ps == 2 then .next (s.unheard.modDev (fun x => { x with cfg := .retry }))
  else if s.dev.st == 1 || safe then let r := reply s; .next (r.1.modDev (fun x => { x with doe := r.2 }))
  else .next (s.modDev (fun x => { x with doe := .failed }))

/-- A signature of the boot key over a text: none without an identity, or past the budget, which records 0x1E4. -/
def signText (text : List Byte) (s : State) : State × Option (List Byte) :=
  let x := s.dev
  if !x.identity then (s, none)
  else if Nat.ble 32768 x.signed then (recordSys 0x1E4 s, none)
  else (s.modDev (fun y => { y with signed := y.signed + 1 }), some (Config.sign x.positions x.signed text))

/-- FWSVN (R424, R427). -/
def Dev.fwsvn (x : Dev) : Word := x.svn.getD Config.fusedSvn

/-- Whether the boot ROM accepts a firmware image (R424): its signature verifies over the digest of header and body, its key is the fused one, and its
version is not below FWSVN. -/
def Dev.accepts (x : Dev) (f : Firmware) : Bool :=
  Config.lmsVerify f.key f.signature (Config.sha256 (f.header ++ f.body)) && Config.sha256 f.key == Config.fusedKeyHash && !f.version.ult x.fwsvn

/-- A verified image runs; it may raise FWSVN, and never lowers it (R424). -/
def runFirmware (f : Firmware) (svn : Option Word) (s : State) : State :=
  s.modDev (fun x =>
    { x with
      fw := some (f.header ++ f.body, f.version)
      svn := match svn with
        | some v => if x.fwsvn.ult v then some v else x.svn
        | none => x.svn })

/-- REMAP_LO and REMAP_HI as one number (R217). -/
def State.remap (s : State) : Nat := (List.range 9).foldl (fun a p => a + ((dieAtSite s.spare p).getD 15) * 2 ^ (4 * p)) 0

/-- A measurement (R425). -/
def State.measurement (s : State) (i : Nat) : List Byte :=
  match i with
  | 1 => Config.sha256 Config.bootRom
  | 2 => let f := s.dev.fw.getD (Config.firmware, Config.firmwareVersion); Config.sha256 f.1 ++ wordBytes f.2
  | 3 => bytesOfNat 8 s.remap ++ wordBytes s.dev.fwsvn ++ bytesOfNat 4 s.dev.positions
  | _ => bytesOfNat 4 (if Config.debugUnlocked then 1 else 0)

/-- SPDM_VERSION: SPDM 1.2. -/
def execSpdmVersion (s : State) : Host.Outcome State Fault Refusal := doeAnswer true (fun t => (t, .version 1 2)) s

/-- SPDM_CAPABILITIES: the requests that the device answers as a responder; in the safe state, those that R432 allows. -/
def execSpdmCapabilities (s : State) : Host.Outcome State Fault Refusal :=
  doeAnswer true (fun t =>
    (t, .capabilities (if t.dev.st == 2 then [.version, .capabilities, .measurements]
      else [.version, .capabilities, .algorithms, .digests, .certificate, .challengeAuth, .measurements, .keyExchange]))) s

/-- SPDM_ALGORITHMS: a vendor-defined extended asymmetric algorithm for signatures, ECDHE on secp384r1, and AES-256-GCM. -/
def execSpdmAlgorithms (s : State) : Host.Outcome State Fault Refusal :=
  doeAnswer false (fun t => (t, .algorithms .vendorExtended .secp384r1 .aes256Gcm)) s

/-- SPDM_DIGESTS: the digest of the certificate chain. -/
def execSpdmDigests (s : State) : Host.Outcome State Fault Refusal :=
  doeAnswer false (fun t => (t, if t.dev.identity then .digests (Config.sha256 (Config.certificates t.dev.positions)) else .failed)) s

/-- SPDM_CERTIFICATE: a part of the chain. -/
def execSpdmCertificate (offset len : Nat) (s : State) : Host.Outcome State Fault Refusal :=
  doeAnswer false (fun t =>
    (t, if t.dev.identity then .certificate (((Config.certificates t.dev.positions).drop offset).take len) else .failed)) s

/-- SPDM_CHALLENGE_AUTH: signed. -/
def execSpdmChallengeAuth (nonce : List Byte) (s : State) : Host.Outcome State Fault Refusal :=
  doeAnswer false (fun t =>
    let text := nonce ++ Config.sha256 (Config.certificates t.dev.positions)
    match signText text t with
    | (u, some g) => (u, .challengeAuth text g)
    | (u, none) => (u, .failed)) s

/-- SPDM_MEASUREMENTS: one measurement, or all four with index 0xFF; in the safe state unsigned (R432). -/
def execSpdmMeasurements (index : Nat) (signed : Bool) (nonce : List Byte) (s : State) : Host.Outcome State Fault Refusal :=
  doeAnswer true (fun t =>
    let text := if index == 255 then [1, 2, 3, 4].flatMap t.measurement else t.measurement index
    if !(index == 255 || (Nat.ble 1 index && Nat.ble index 4)) then (t, .failed)
    else if signed && t.dev.st == 1 then
      match signText (nonce ++ text) t with
      | (u, some g) => (u, .measurements (nonce ++ text) (some g))
      | (u, none) => (u, .failed)
    else (t, .measurements text none)) s

/-- SPDM_KEY_EXCHANGE: signed; a session stands afterwards. -/
def execSpdmKeyExchange (exchange : List Byte) (s : State) : Host.Outcome State Fault Refusal :=
  doeAnswer false (fun t =>
    let half := Config.exchange t.free exchange
    match signText (exchange ++ half) t with
    | (u, some g) => ({ u with free := u.free + 1, dev := { u.dev with session := true } }, .keyExchange half g)
    | (u, none) => (u, .failed)) s

/-! ## Link IDE and the link (R420, R425, R426) -/

/-- IDE_KM: keys are programmed only inside a session; the stream is secure once it has keys and is told to go. -/
def execIdeKm (msg : IdeKm) (s : State) : Host.Outcome State Fault Refusal :=
  doeAnswer false (fun t =>
    if !t.dev.session then (t, .failed)
    else
      match msg with
      | .query => (t, .ide t.dev.ideOk t.dev.ideKeyed)
      | .keyProg => (t.modDev (fun x => { x with ideKeyed := true }), .ide t.dev.ideOk true)
      | .goSecure =>
        if t.dev.ideKeyed then (t.modDev (fun x => { x with ideOk := true }), .ide true true) else (t, .failed)
      | .goInsecure => (t.modDev (fun x => { x with ideOk := false }), .ide false t.dev.ideKeyed)) s

/-- The link carries nothing until a warm start (R426). -/
def linkDead (cause : Nat) (s : State) : State := recordSys cause { s with hdown := true, dev := { s.dev with ideOk := false } }

/-- IDE_INTEGRITY_FAILURE (R426). -/
def execIdeIntegrityFailure (s : State) : Host.Outcome State Fault Refusal :=
  if s.dev.ideOk && !s.hdown then .next (linkDead 0x1E3 s) else .next s

/-- CXL_LINK_DOWN (R426): whatever the link's stream does, and in a start too; in PS2 no monitor runs (R428). -/
def execCxlLinkDown (s : State) : Host.Outcome State Fault Refusal :=
  if s.dev.down || s.dev.ps == 2 then .next s else .next ((linkDead 0x1E5 s).modDev (fun x => { x with down := true }))

end Sys2Proof.Machine
end

