-- ==== Sys2Proof/Machine/Power.lean ====
section
/-! DEFINITION. Start-up, self-test and power (R428 to R436): the start sequence, the safe state, power states, operating points, and what
the supply does. -/

namespace Sys2Proof.Machine

/-! ## The start sequence (R429 to R432) -/

/-- The safe state (R432), with the failing step and site. -/
def enterSafe (step site : Nat) (s : State) : State :=
  s.modDev (fun x => { x with st := 2, ps := 0, step := step, fsite := site, start := none, ready := none })

/-- Step 5 writes zero to every DRAM stack; host memory is not the device's. -/
def zeroDram (s : State) : State := { s with mem := s.mem.filter (fun c => isHost c.1), ecc := [] }

/-- Step 6: every mesh link that leads to a working site comes up but those that fail, and those of a failed site; every die knows the graph
(R231). -/
def trainLinks (bad : List Nat) (sites : List Nat) (s : State) : State :=
  let gone (d : Nat) : Bool := sites.contains (siteOfDie s.spare d)
  let ok (d dir : Nat) : Bool :=
    match s.neighbour d dir with
    | none => false
    | some e => !gone d && !gone e && !bad.contains (4 * d + dir) && !bad.contains (4 * e + oppDir dir)
  let word (d : Nat) : BitVec 4 := BitVec.ofNat 4 ((List.range 4).foldl (fun a dir => if ok d dir then a + 2 ^ dir else a) 0)
  { s with dies := s.dies.mapIdx (fun d x => { x with linkUp := word d, linkBeat := List.replicate 4 x.now, view := (List.range 8).map word }) }

/-- Step 9: the servo of every die with a path to die 0 is locked (R222, R225), and every die has the bounds of the others. -/
def lockServo (s : State) : State :=
  let delta (d : Nat) : Nat := 24 * ((s.hops d 0).getD 0)
  let t := { s with dies := s.dies.mapIdx (fun d x =>
      if (s.hops d 0).isNone then x
      else
        { x with
          unsync := false, delta := delta d, lastSync := x.now, hold := false, sent := (x.now, delta d, x.linkUp)
          beats := ((List.range 8).filter (fun e => e != d && (s.hops e d).isSome)).map (fun e => (e, delta e, s.nowDie e)) }) }
  refreshPaths t

/-- Step 8 of a cold start: the identity counter advances, and a new boot key has made no signature; none is left past 1,024 (R425). -/
def newIdentity (s : State) : State :=
  s.modDev (fun x =>
    if Nat.blt x.positions 1024 then { x with positions := x.positions + 1, identity := true, signed := 0 }
    else { x with identity := false, signed := 0 })

/-- The longest time a start takes, in 1/16 ns: 6 s for a cold start, 500 ms for a warm one. -/
def StartKind.bound (k : StartKind) : Nat := if k == .cold then 96000000000 else 8000000000

/-- Run steps 1 to 9 (R429, R431): what fails at site 4, or the firmware, leads to the safe state; any other site that fails and is not the
spare is to be declared lost at step 10. -/
def runStart (o : StartOutcome) (s : State) : State :=
  match s.dev.start with
  | none => s
  | some kind =>
    if s.dev.ready.isSome then s
    else
      let full := kind == .cold || kind == .fromSafe
      let f5 := if full then o.step5 else []
      let lost := ((o.step2 ++ o.step4 ++ f5).filter (fun p => Nat.blt p 9 && p != s.spare)).eraseDups
      let t := if full then zeroDram s else s
      if o.step2.contains 4 then enterSafe 2 4 s
      else if o.step4.contains 4 then enterSafe 4 4 s
      else if f5.contains 4 then enterSafe 5 4 s
      else
        let u := trainLinks o.links lost t
        if !u.dev.accepts o.firmware then enterSafe 7 15 (recordSys 0x1E2 u)
        else
          let w := runFirmware o.firmware o.svn u
          let v := lockServo (if kind == .cold then newIdentity w else w)
          v.modDev (fun x => { x with step := 9, lostSites := lost, ready := some (v.nowDie 0 + min o.duration kind.bound) })

/-- COLD_START (R429): the rails have become valid. -/
def execColdStart (o : StartOutcome) (s : State) : Host.Outcome State Fault Refusal :=
  if s.dev.start == some .cold then .next (runStart o s) else .next s

/-- What a trigger of a warm start begins: from the safe state step 5 runs as well (R432). -/
def triggerWarm (s : State) : State := beginStart (if s.dev.st == 2 then .fromSafe else .warm) s

/-- WARM_START (R429): the sequence runs that a write of RSTCTL.WARM has begun. -/
def execWarmStart (o : StartOutcome) (s : State) : Host.Outcome State Fault Refusal :=
  if s.dev.start == some .warm || s.dev.start == some .fromSafe then .next (runStart o s) else .next s

/-- CXL_HOT_RESET (R429). -/
def execCxlHotReset (o : StartOutcome) (s : State) : Host.Outcome State Fault Refusal :=
  if s.dev.st == 0 then .next s else .next (runStart o (if s.dev.ps == 2 then beginStart .wake s else triggerWarm s))

/-- A site that failed is declared lost at step 10, as a partition is (R231, R431). -/
def loseSite (p : Nat) (s : State) : State :=
  match dieAtSite s.spare p with
  | some d => s.modDie d (fun x => { x with lost := some (s.nowDie 0), quiesced := true, unsync := true })
  | none => s

/-- START_COMPLETE (R429, R430): step 10: every fault record is clear, every die is at OP0 or the point that R435 allows, and the device runs. -/
def execStartComplete (s : State) : Host.Outcome State Fault Refusal :=
  match s.dev.ready with
  | none => .next s
  | some t =>
    if Nat.blt (s.nowDie 0) t then .next s
    else
      let lost := s.dev.lostSites
      let u := foldState lost loseSite s
      let clear (x : Die) : Die := { x with hf := {}, xf := {}, tf := {}, lf := {}, mg := {}, tk := {}, ce := {}, tfcnt := 0 }
      .next ({ u with dies := u.dies.map clear }.modDev (fun x =>
        { x with st := 1, ps := 0, step := 10, fsite := lost.headD 15, start := none, ready := none, lostSites := [], sf := {} })).settlePoints

/-! ## Power states (R433, R434) -/

/-- Whether a time on die 0's clock lies so far back. -/
def State.since (s : State) (t : Option Nat) (n : Nat) : Bool :=
  match t with
  | some a => Nat.ble (a + n) (s.nowDie 0)
  | none => false

/-- Whether PS2 may be entered: every queue disabled for 1 ms, and a tolerance of 500 ms. -/
def State.mayPs2 (s : State) : Bool :=
  s.dev.st == 1 && Nat.ble 500000 s.dev.lattol.toNat && s.queues.all (fun q => q.state == .disabled) && !s.workResident && s.since s.dev.offAt 16000000

/-- PS1_ENTRY (R433): every active queue idle for 100 µs, no work resident, a tolerance of 20 µs, and no deeper state; the dies run at OP4. -/
def execPs1Entry (s : State) : Host.Outcome State Fault Refusal :=
  if s.dev.st == 1 && s.dev.ps == 0 && Nat.ble 20 s.dev.lattol.toNat && s.queuesIdle && s.since s.dev.idleAt 1600000 && !s.mayPs2 then
    .next (s.modDev (fun x => { x with ps := 1 })).settlePoints
  else .next s

/-- PS2_ENTRY (R433): every die stops together; DRAM keeps what was written. -/
def execPs2Entry (s : State) : Host.Outcome State Fault Refusal :=
  if s.dev.ps != 2 && s.mayPs2 then .next ((landAll s).modDev (fun x => { x with ps := 2 })) else .next s

/-- PS2_WAKE (R434): the link leaves its low-power state, or the start runs that a host transaction has begun so. -/
def execPs2Wake (o : StartOutcome) (s : State) : Host.Outcome State Fault Refusal :=
  if s.dev.ps == 2 then .next (runStart o (beginStart .wake s))
  else if s.dev.start == some .wake then .next (runStart o s)
  else .next s

/-- POWER_LOSS (R428, R434): what is fused stays: the spare, FWSVN and the identity counter; the host's memory is not the device's. -/
def execPowerLoss (s : State) : Host.Outcome State Fault Refusal :=
  .next { State.reset with
    mem := s.mem.filter (fun c => isHost c.1), spare := s.spare, free := s.free, agenda := s.agenda, pace := s.pace
    dev := { positions := s.dev.positions, svn := s.dev.svn } }

/-! ## Operating points (R218, R435) -/

/-- Whether the sensors of a die are watched: it has not stopped (R435), and the device is not in PS2, where no temperature is watched (R434). -/
def State.watched (s : State) (d : Nat) : Bool := Nat.blt d 8 && !(s.die d).hung && s.dev.ps != 2

/-- OP_CHANGE (R435): a die's controller learns what the die draws at each point, in watts, and what its hottest sensor reads there, and now; the die runs
at the highest point that satisfies both limits. -/
def execOpChange (d : Nat) (powers temps : List Nat) (temp : Nat) (s : State) : Host.Outcome State Fault Refusal :=
  if !s.watched d || Nat.ble 120 temp then .next s
  else .next (s.modDie d (fun x => let y := { x with draws := powers.zip temps, temp := temp }; { y with point := s.bestPoint y }))

/-- THERMAL_THROTTLE (R435): at 110 °C the die runs at OP4. -/
def execThermalThrottle (d temp : Nat) (s : State) : Host.Outcome State Fault Refusal :=
  if !s.watched d || Nat.blt temp 110 then .next s else .next (s.modDie d (fun x => { x with point := 4, temp := temp }))

/-- THERMAL_STOP (R435): at 120 °C the die stops and stops heartbeating; if it is die 0, the device enters the safe state. -/
def execThermalStop (d temp : Nat) (s : State) : Host.Outcome State Fault Refusal :=
  if !s.watched d || Nat.blt temp 120 then .next s
  else
    let t := s.modDie d (fun x => { x with hung := true, temp := temp })
    .next (if d == 0 then enterSafe s.dev.step 4 t else t)

/-! ## Configuration requests, errors (R213, R219, R404, R429, R432) -/

/-- CONFIGURATION_REQUEST (R429, R432, R434): Retry Status while the device starts; else it is handled. What the standards put into configuration
space is outside the spec: a read brings a free value, a write leaves no trace but PTM's enable. -/
def execConfigurationRequest (r : ConfigRequest) (s : State) : Host.Outcome State Fault Refusal :=
  if s.hdown then .next s
  else if s.dev.st == 0 || s.dev.ps == 2 then .next (s.unheard.modDev (fun x => { x with cfg := .retry }))
  else
    match r with
    | .read _ => .next { s with free := s.free + 1, dev := { s.dev with cfg := .value (Config.freeWord s.free) } }
    | .write _ _ => .next (s.modDev (fun x => { x with cfg := .done }))
    | .ptmEnable on =>
      let t := s.modDev (fun x => { x with cfg := .done })
      if on && s.ptm.enabled then .next t
      else .next (setHunsync true { t with ptm := { t.ptm with enabled := on, lost := false, last := s.nowDie 0 } })

/-- ECC_GRANULE_ERROR (R213): a correctable error changes nothing. -/
def execEccGranuleError (pa : Nat) (uncorrectable : Bool) (s : State) : Host.Outcome State Fault Refusal :=
  if uncorrectable && isDram pa && !s.ecc.contains (pa / 32) then .next { s with ecc := pa / 32 :: s.ecc } else .next s

/-- FLIT_CRC_FAILURE (R219, R404): the flit is resent, which event 0x12 counts on a mesh link (R437). The sender counts the consecutive resends of one
flit that fail; the first failure of a flit starts the count anew. -/
def execFlitCrcFailure (r : FlitFailure) (s : State) : Host.Outcome State Fault Refusal :=
  match r with
  | .mesh link resend =>
    if s.linkOn link then
      .next (pmCount (link / 4) 0x12 (link % 4) 1 (s.modDie (link / 4) (fun x =>
        { x with resends := x.resends.modify (link % 4) (fun n => if resend then n + 1 else 0) })))
    else .next s
  | .fabric d p resend =>
    if ((s.die d).ports.getD p {}).up then .next (s.modPort d p (fun x => { x with resends := if resend then x.resends + 1 else 0 })) else .next s

end Sys2Proof.Machine
end

