-- ==== Sys2Proof/Machine/Regs.lean ====
section
/-! DEFINITION. Registers (R96, R137, R138, R214, R217, R225, R233, R245, R246, R318, R322, R358, R380, R382, R406, R421, R423, R427, R436,
R437): the map of the system registers, the words of major 0x0A, and the registers of BAR0 and BAR2. -/

namespace Sys2Proof.Machine

/-! ## The map of the system registers (R138) -/

/-- How a system register may be accessed: whether the map or a rule marks it privileged, whether it has an unprivileged view, and whether
every field of it is RO. -/
structure SysReg where
  priv : Bool
  view : Bool
  ro : Bool
  deriving DecidableEq, Repr

/-- Privileged, read and written. -/
def regPriv : SysReg := { priv := true, view := false, ro := false }
/-- Privileged, read only. -/
def regPrivRo : SysReg := { priv := true, view := false, ro := true }
/-- Read only by anyone. -/
def regRo : SysReg := { priv := false, view := true, ro := true }
/-- Not marked privileged, and written. -/
def regOpen : SysReg := { priv := false, view := true, ro := false }

/-- Whether a number lies in a range. -/
def inRange (lo hi n : Nat) : Bool := Nat.ble lo n && Nat.ble n hi

/-- The map (R138 and the rules it gathers); none for an unassigned number. `uv` is PMCTL.UV of the die (R437). -/
def sysReg (uv : Bool) (n : Nat) : Option SysReg :=
  if n == 0x001 then some { priv := true, view := true, ro := false }
  else if n == 0x002 || inRange 0x005 0x006 n then some regRo
  else if inRange 0x003 0x004 n || inRange 0x007 0x009 n || inRange 0x018 0x019 n || inRange 0x040 0x041 n then some regPriv
  else if n == 0x010 || inRange 0x042 0x043 n || inRange 0x060 0x061 n then some regRo
  else if n == 0x080 || n == 0x0A1 || inRange 0x0C0 0x0C2 n || n == 0x0C7 then some regPriv
  else if inRange 0x081 0x083 n || inRange 0x0A2 0x0A3 n then some regPrivRo
  else if n == 0x0A0 || inRange 0x0C5 0x0C6 n || inRange 0x0E0 0x0E4 n || inRange 0x120 0x124 n || inRange 0x128 0x12C n then some regRo
  else if n == 0x0C4 || n == 0x146 then some regOpen
  else if inRange 0x140 0x144 n || n == 0x160 || n == 0x180 || inRange 0x1C0 0x1C5 n || inRange 0x200 0x208 n then some regPriv
  else if n == 0x145 || n == 0x147 then some regPrivRo
  else if inRange 0x181 0x183 n || inRange 0x1C8 0x1CB n then some regRo
  else if inRange 0x210 0x21F n then some { priv := true, view := uv, ro := false }
  else none

/-- The access checks of R138 in their order: unassigned, then refused. -/
def sysCheck (prv uv rd wr : Bool) (n : Nat) : Option Nat :=
  match sysReg uv n with
  | none => some 0x026
  | some r =>
    if !prv && ((wr && r.priv) || (rd && r.priv && !r.view)) then some 0x027
    else if wr && r.ro then some 0x027
    else none

/-! ## Reading -/

/-- A half of a 64-bit value: the low word for an even offset from the register's first number. -/
def half (hi : Bool) (v : Nat) : Nat := if hi then v / 2 ^ 32 % 2 ^ 32 else v % 2 ^ 32

/-- The first word of a fault record. -/
def FaultRec.word (r : FaultRec) : Nat := r.valid.toNat * 2 ^ 31 + r.ovf.toNat * 2 ^ 30 + r.info + r.cause

/-- The word of a halted context's record (R275, R318). -/
def haltWord (h : Option Halt) : Nat :=
  match h with
  | some x => 2 ^ 31 + x.cause
  | none => 0

/-- A register of the record of a halted context: the status, the pc and the value (R275, R318). -/
def haltReg (h : Option Halt) (k : Nat) : Nat :=
  let x := h.getD { cause := 0, pc := 0, val := 0 }
  match k with
  | 0 => haltWord h
  | 1 => half false x.pc
  | 2 => half true x.pc
  | 3 => half false x.val
  | _ => half true x.val

/-- Bits of links in the order north, east, south, west from the top (R225). -/
def linkBits (p : Nat → Bool) : Nat := (List.range 4).foldl (fun a d => if p d then a + 2 ^ (3 - d) else a) 0

/-- MTSTAT (R225). -/
def State.mtstat (s : State) (d : Nat) : Nat :=
  let x := s.die d
  x.unsync.toNat * 2 ^ 31 + x.hunsync.toNat * 2 ^ 30 + x.hold.toNat * 2 ^ 29 + ((s.hops d 0).getD 0) * 2 ^ 8 +
    linkBits (fun k => x.linkUp.getLsbD k) * 2 ^ 4 + linkBits (fun k => (s.neighbour d k).isSome)

/-- PQSTAT.PEND: the length of the pending list. Its field has 12 bits and its range ends at 4,096 (R380), which they do not hold: what the field
reads then is free, and the reserved bits above it read zero (R7; log entry 60). -/
def State.pqPending (s : State) (d : Nat) : Nat :=
  let n := (s.die d).pqPend.length
  if Nat.blt n 4096 then n else (Config.freeWord s.free).toNat % 4096

/-- A per-die register (R214, R217, R225, R233, R246, R322, R358, R380, R406, R437). -/
def State.dieReg (s : State) (d n : Nat) : Nat :=
  let x := s.die d
  if inRange 0x201 0x208 n then x.pmsel.getD (n - 0x201) 0
  else if inRange 0x210 0x21F n then
    (if n % 2 == 0 then half false (x.pmcnt.getD ((n - 0x210) / 2) 0) else x.pmlat.getD ((n - 0x210) / 2) 0)
  else if inRange 0x1C8 0x1CB n then
    (let p := x.ports.getD (n - 0x1C8) {}; p.up.toNat * 2 ^ 31 + p.lanes * 2 ^ 24 + p.link)
  else
    match n with
    | 0x080 => x.hf.word
    | 0x081 => half false x.hf.addr
    | 0x082 => half true x.hf.addr
    | 0x083 => x.hf.req
    | 0x0A0 => s.mtstat d
    | 0x0A1 => x.xf.word
    | 0x0A2 => half false s.remap
    | 0x0A3 => half true s.remap
    | 0x0C4 => x.tf.word
    | 0x0C5 => half false x.tf.addr
    | 0x0C6 => half true x.tf.addr % 2 ^ 24
    | 0x0C7 => x.tfcnt
    | 0x140 => x.lEn.toNat
    | 0x141 => half false x.lva
    | 0x142 => half true x.lva
    | 0x143 => x.lbase
    | 0x144 => x.lcnt
    | 0x145 => s.pagesFree d
    | 0x146 => x.lf.word
    | 0x147 => s.storeFree d
    | 0x160 => x.mg.word
    | 0x180 => x.tk.word
    | 0x181 => half false x.tk.addr
    | 0x182 => half true x.tk.addr % 2 ^ 24
    | 0x183 => s.pqPending d * 2 ^ 17 + x.pq.length
    | 0x1C0 => x.fabEn.toNat * 2 ^ 31 + x.fabid
    | 0x1C1 => half false x.cepeer
    | 0x1C2 => half true x.cepeer
    | 0x1C3 => half false x.cexport
    | 0x1C4 => half true x.cexport
    | 0x1C5 => x.ce.word
    | 0x200 => x.pmfrz.toNat * 2 ^ 31 + x.pmuv.toNat * 2 ^ 30 + x.pmovf.toNat
    | _ => 0

/-- A value of the registers of R245 that a word of the split's open group has written and that is not in force yet. -/
def Split.rootWritten (x : Split) (n : Nat) : Option Word :=
  x.held.foldl (fun r h => match h with
    | .sys m v => if m == n then some v else r
    | _ => r) none

/-- A register of a workgroup (R96, R138, R245, R275, R318, R322), as a split of it reads it. -/
def State.wgReg (s : State) (i n : Nat) : Nat :=
  let x := s.split i
  let w := s.wgOf i
  let root (v mask : Nat) : Nat := match x.rootWritten n with
    | some u => u.toNat / mask * mask
    | none => v
  if inRange 0x0E0 0x0E4 n then haltReg w.seq.mf (n - 0x0E0)
  else if inRange 0x120 0x124 n then haltReg w.lspoke.mf (n - 0x120)
  else if inRange 0x128 0x12C n then haltReg w.sspoke.mf (n - 0x128)
  else
    match n with
    | 0x008 => half false w.tvec
    | 0x009 => half true w.tvec
    | 0x010 => w.preq.isSome.toNat * 2 + w.creq.isSome.toNat
    | 0x018 => half false w.save
    | 0x019 => half true w.save
    | 0x040 => half false w.dspill
    | 0x041 => half true w.dspill
    | 0x042 => if x.prv then half false w.sqfaddr else 0
    | 0x043 => if x.prv then half true w.sqfaddr else 0
    | 0x060 => w.ltag
    | 0x061 => w.ldom
    | 0x0C0 => root (half false w.troot) (2 ^ 12)
    | 0x0C1 => root (half true w.troot) 1 % 2 ^ 20
    | 0x0C2 => root w.trgen 1 % 2 ^ 16
    | _ => 0

/-- A system register as a split reads it (R137, R138). -/
def State.sysRead (s : State) (i n : Nat) : Nat :=
  let x := s.split i
  match n with
  | 0x001 => x.tstat
  | 0x002 => x.tcause
  | 0x003 => half false x.tpc
  | 0x004 => half true x.tpc
  | 0x005 => half false x.tval
  | 0x006 => half true x.tval
  | 0x007 => x.tmr.toNat
  | _ =>
    if Nat.blt n 0x080 || inRange 0x0C0 0x0C2 n || inRange 0x0E0 0x0E4 n || inRange 0x120 0x12C n then s.wgReg i n
    else s.dieReg (dieOfCore (s.coreOf i)) n

/-- A read of PMCNTn_LO latches the high word (R437). -/
def latchCount (d k : Nat) (s : State) : State := s.modDie d (fun x => { x with pmlat := x.pmlat.set k (half true (x.pmcnt.getD k 0)) })

/-- Whether reading a register changes something: the low word of a counter. -/
def readActs (n : Nat) : Bool := inRange 0x210 0x21F n && n % 2 == 0

/-- What reading a register changes. -/
def sysReadEffect (d n : Nat) (s : State) : State := if readActs n then latchCount d ((n - 0x210) / 2) s else s

/-! ## Writing -/

/-- A 64-bit value with one half replaced. -/
def setHalf (hi : Bool) (old v : Nat) : Nat := if hi then v * 2 ^ 32 + old % 2 ^ 32 else old / 2 ^ 32 * 2 ^ 32 + v

/-- A write of a fault record's status: VALID and OVF are cleared by ones. -/
def FaultRec.clear (r : FaultRec) (v : Word) : FaultRec := { r with valid := r.valid && !v.getLsbD 31, ovf := r.ovf && !v.getLsbD 30 }

/-- PMCTL (R437). -/
def pmctlWrite (d : Nat) (v : Word) (s : State) : State :=
  s.modDie d (fun x => { x with pmfrz := v.getLsbD 31, pmuv := v.getLsbD 30, pmovf := x.pmovf &&& ~~~(v.setWidth 8) })

/-- The events that R437 assigns. -/
def pmEvent (e : Nat) : Bool := Nat.ble e 0x07 || inRange 0x10 0x15 e || inRange 0x18 0x19 e

/-- Write a per-die register: a non-zero value in a reserved field is ignored there, and so are the writes that a rule ignores (R322, R406,
R437). -/
def dieWrite (d n : Nat) (v : Word) (s : State) : State :=
  let w := v.toNat
  let en := (s.die d).lEn
  let set (f : Die → Die) : State := s.modDie d f
  if n == 0x140 then lctlWrite d v s
  else if n == 0x200 then pmctlWrite d v s
  else if inRange 0x141 0x144 n && en then s
  else if inRange 0x201 0x208 n then
    (if pmEvent (w % 256) then set (fun x => { x with pmsel := x.pmsel.set (n - 0x201) (w % 2 ^ 12) }) else s)
  else if inRange 0x210 0x21F n then
    (let k := (n - 0x210) / 2
     set (fun x =>
      { x with
        pmcnt := x.pmcnt.set k (setHalf (n % 2 == 1) (x.pmcnt.getD k 0) w)
        pmlat := if n % 2 == 1 then x.pmlat.set k w else x.pmlat }))
  else
    match n with
    | 0x080 => set (fun x => { x with hf := x.hf.clear v })
    | 0x0A1 => set (fun x => { x with xf := x.xf.clear v })
    | 0x0C4 => set (fun x => { x with tf := x.tf.clear v })
    | 0x0C7 => set (fun x => { x with tfcnt := w })
    | 0x141 => set (fun x => { x with lva := setHalf false x.lva (w / 2 ^ 16 * 2 ^ 16) })
    | 0x142 => set (fun x => { x with lva := setHalf true x.lva (w % 2 ^ 24) })
    | 0x143 => set (fun x => { x with lbase := w % 2 ^ 20 })
    | 0x144 => if Nat.ble (w % 2 ^ 20) 524288 then set (fun x => { x with lcnt := w % 2 ^ 20 }) else s
    | 0x146 => set (fun x => { x with lf := x.lf.clear v })
    | 0x160 => set (fun x => { x with mg := x.mg.clear v })
    | 0x180 => set (fun x => { x with tk := x.tk.clear v })
    | 0x1C0 => set (fun x => { x with fabEn := v.getLsbD 31, fabid := if x.fabEn then x.fabid else w % 2 ^ 16 })
    | 0x1C1 => set (fun x => { x with cepeer := setHalf false x.cepeer (w / 2 ^ 12 * 2 ^ 12) })
    | 0x1C2 => set (fun x => { x with cepeer := setHalf true x.cepeer w })
    | 0x1C3 => set (fun x => { x with cexport := setHalf false x.cexport (w / 2 ^ 13 * 2 ^ 13) })
    | 0x1C4 => set (fun x => { x with cexport := setHalf true x.cexport w })
    | 0x1C5 => set (fun x => { x with ce := x.ce.clear v })
    | _ => s

/-- Write a register of a split or of its workgroup (R96, R138). -/
def partyWrite (i n : Nat) (v : Word) (s : State) : State :=
  let w := v.toNat
  let g := s.wgIdxOf i
  match n with
  | 0x001 => s.modSplit i (fun x => { x with pprv := v.getLsbD 2 })
  | 0x003 => s.modSplit i (fun x => { x with tpc := setHalf false x.tpc w })
  | 0x004 => s.modSplit i (fun x => { x with tpc := setHalf true x.tpc w })
  | 0x007 => if mrOk v then s.modSplit i (fun x => { x with tmr := BitVec.ofNat 32 (w % 2 ^ 20) }) else s
  | 0x008 => s.modWg g (fun x => { x with tvec := setHalf false x.tvec w })
  | 0x009 => s.modWg g (fun x => { x with tvec := setHalf true x.tvec w })
  | 0x018 => s.modWg g (fun x => { x with save := setHalf false x.save (w / 2 ^ 8 * 2 ^ 8) })
  | 0x019 => s.modWg g (fun x => { x with save := setHalf true x.save w })
  | 0x040 => s.modWg g (fun x => { x with dspill := setHalf false x.dspill (w / 2 ^ 12 * 2 ^ 12) })
  | 0x041 => s.modWg g (fun x => { x with dspill := setHalf true x.dspill (w % 2 ^ 24) })
  | _ => s

/-- Write a system register for a split: the state, and what the group holds of it (R137, R245). -/
def sysWrite (i n : Nat) (v : Word) (s : State) : State × List Held :=
  if inRange 0x0C0 0x0C2 n then (s, [.sys n v])
  else if Nat.blt n 0x080 then (partyWrite i n v s, [])
  else (dieWrite (dieOfCore (s.coreOf i)) n v s, [])

/-! ## The words of major 0x0A (R137) -/

/-- SRD, SWR and SXCH: the checks, the read of the old value, the write at issue. -/
def sysWord (rd wr : Bool) (d a : BitVec 5) (n : Nat) (i : Nat) (s : State) : State × Out :=
  let die := dieOfCore (s.coreOf i)
  match sysCheck (s.split i).prv (s.die die).pmuv rd wr n with
  | some c => (s, .trap c 0)
  | none =>
    let old := BitVec.ofNat 32 (s.sysRead i n)
    let t := if rd then sysReadEffect die n s else s
    let r : State × List Held := if wr then sysWrite i n (s.ssrc i a).bits t else (t, [])
    (r.1, .done (r.2 ++ (if rd then [.sset d.toNat (.val old)] else [])))

/-- SRD: a read that changes something waits for the loads before it (R31). -/
def execSrd (w : SrdF) (s : State) : Host.Outcome State Fault Refusal :=
  let body := sysWord true false w.d 0 w.n.toNat
  issueWord w.s (if readActs w.n.toNat then afterLoads body else body) s

/-- SWR. -/
def execSwr (w : SwrF) (s : State) : Host.Outcome State Fault Refusal := issueWord w.s (afterLoads (sysWord false true 0 w.a w.n.toNat)) s

/-- SXCH. -/
def execSxch (w : SxchF) (s : State) : Host.Outcome State Fault Refusal := issueWord w.s (afterLoads (sysWord true true w.d w.a w.n.toNat)) s

/-- PMCTL_WRITE (R437). -/
def execPmctlWrite (d : Nat) (v : Word) (s : State) : Host.Outcome State Fault Refusal := .next (pmctlWrite d v s)

/-- PMCNT_LO_READ (R437). -/
def execPmcntLoRead (d n : Nat) (s : State) : Host.Outcome State Fault Refusal := .next (latchCount d n s)

/-! ## The registers of BAR0 and BAR2 (R382, R421, R423, R427, R436) -/

/-- A register of a queue by its offset. -/
def Queue.reg (x : Queue) (o : Nat) : Nat :=
  match o with
  | 0x00 => half false x.qbase
  | 0x04 => half true x.qbase
  | 0x08 => x.qcfg.toNat
  | 0x0C => x.qdom
  | 0x10 => half false x.qroot
  | 0x14 => half true x.qroot
  | 0x18 => x.qrgen
  | 0x20 => half false x.qctx
  | 0x24 => half true x.qctx
  | 0x28 => half false x.qsave
  | 0x2C => half true x.qsave
  | 0x30 => x.qdb
  | 0x34 => x.qrd
  | 0x38 => x.preq.toNat * 2 + x.en.toNat
  | 0x3C => x.stat
  | _ => 0

/-- A write of a register that is ignored while EN is set (R382). -/
def Queue.setReg (o : Nat) (w : Nat) (x : Queue) : Queue :=
  if x.en then x
  else
    match o with
    | 0x00 => { x with qbase := setHalf false x.qbase (w / 2 ^ 12 * 2 ^ 12) }
    | 0x04 => { x with qbase := setHalf true x.qbase (w % 2 ^ 24) }
    | 0x08 => { x with qcfg := BitVec.ofNat 32 (Nat.land w 0x00FFF077) }
    | 0x0C => { x with qdom := w % 2 ^ 16 }
    | 0x10 => { x with qroot := setHalf false x.qroot w }
    | 0x14 => { x with qroot := setHalf true x.qroot w }
    | 0x18 => { x with qrgen := w % 2 ^ 16 }
    | 0x20 => { x with qctx := setHalf false x.qctx (w / 2 ^ 16 * 2 ^ 16) }
    | 0x24 => { x with qctx := setHalf true x.qctx w }
    | 0x28 => { x with qsave := setHalf false x.qsave (w / 2 ^ 8 * 2 ^ 8) }
    | 0x2C => { x with qsave := setHalf true x.qsave w }
    | _ => x

/-- A write of a queue's register (R382 to R384). -/
def queueRegWrite (q o : Nat) (v : Word) (s : State) : State :=
  if o == 0x30 then qdbWrite q v.toNat s
  else if o == 0x38 then qctlWrite q (v.getLsbD 0) (v.getLsbD 1) s
  else s.modQueue q (Queue.setReg o v.toNat)

/-- KEYCTL (R423): ERR is cleared by a one; then the command runs. -/
def keyctlWrite (v : Word) (s : State) : State :=
  let t := if v.getLsbD 30 then s.modDev (fun x => { x with keyerr := false }) else s
  match v.toNat % 4 with
  | 1 => loadKey t
  | 2 => disableKey t
  | _ => t

/-- A write to BAR0. In the safe state the command cores are held in reset, and the queue registers take no write (R432). -/
def bar0Write (off : Nat) (v : Word) (s : State) : State :=
  let w := v.toNat
  if inRange 0x1000 0x4FFF off then (if s.hostOn then queueRegWrite ((off - 0x1000) / 64) (off % 64) v s else s)
  else if inRange 0x8040 0x807C off && off % 4 == 0 then s.modDev (fun x => { x with keydata := x.keydata.set ((off - 0x8040) / 4) v })
  else
    match off with
    | 0x8000 => s.modDev (fun x => { x with keysel := w % 2 ^ 9 })
    | 0x8004 => keyctlWrite v s
    | 0x8010 => s.modDev (fun x => { x with sf := x.sf.clear v })
    | 0x9004 => if v.getLsbD 0 then triggerWarm s else s
    | 0x9008 => s.modDev (fun x => { x with lattol := v })
    | 0x900C => (s.modDev (fun x => { x with pwrcap := w % 2 ^ 13 })).settlePoints
    | _ => s

/-- CCGSTAT (R382). -/
def State.ccgstat (s : State) : Nat :=
  (s.dies.any (fun x => x.lost.isSome)).toNat * 2 ^ 31 +
    (List.range 8).foldl (fun a d => if (s.die d).lost.isNone then a + 2 ^ d else a) 0

/-- KEYENk (R423): slot 0 is always enabled. -/
def State.keyen (s : State) (k : Nat) : Nat := (List.range 32).foldl (fun a j => if s.keyOn (32 * k + j) then a + 2 ^ j else a) 0

/-- DEVSTAT (R436). -/
def Dev.devstat (x : Dev) : Nat := x.st * 2 ^ 30 + x.ps * 2 ^ 28 + x.fsite * 2 ^ 8 + x.step * 2 ^ 4

/-- A read of BAR0. -/
def State.bar0Read (s : State) (off : Nat) : Nat :=
  let x := s.dev
  if inRange 0x1000 0x4FFF off then (s.queue ((off - 0x1000) / 64)).reg (off % 64)
  else if inRange 0x8100 0x813C off && off % 4 == 0 then s.keyen ((off - 0x8100) / 4)
  else if inRange 0x9020 0x903C off && off % 4 == 0 then
    (let d := s.die ((off - 0x9020) / 4); d.point * 2 ^ 16 + d.temp % 256)
  else
    match off with
    | 0x0000 => s.ccgstat
    | 0x8000 => x.keysel
    | 0x8004 => x.closing.isSome.toNat * 2 ^ 31 + x.keyerr.toNat * 2 ^ 30 + x.ideOk.toNat * 4
    | 0x8010 => x.sf.word
    | 0x8014 => x.fwsvn.toNat
    | 0x9000 => x.devstat
    | 0x9008 => x.lattol.toNat
    | 0x900C => x.pwrcap
    | _ => 0

/-- A read of BAR2 (R421); zero in the safe state (R432). -/
def State.bar2Read (s : State) (off : Nat) : Nat :=
  let q := s.queue (off / 4096)
  if !s.hostOn then 0
  else
    match off % 4096 with
    | 0 => q.qdb
    | 4 => q.qrd
    | 8 => q.stat
    | _ => 0

/-- REGISTER_WRITE (R138, R421): a write of a register by the host over BAR0, or of a per-die register. -/
def execRegisterWrite (r : RegWrite) (s : State) : Host.Outcome State Fault Refusal :=
  match r with
  | .bar0 off v => .next (if s.bar0On then bar0Write off v s else s.unheard)
  | .die d n v =>
    match sysReg false n with
    | some x => .next (if x.ro then s else dieWrite d n v s)
    | none => .next s

end Sys2Proof.Machine
end

