-- ==== Sys2Proof/Machine/Dispatch.lean ====
section
/-! DEFINITION. The one place where an instruction or an engine step meets its meaning: one arm a constructor. -/

namespace Sys2Proof.Machine

/-- The meaning of every row of the table: a word acts for the party that `who` names, a step for the entities it names. -/
def exec (i : Instr) (s : State) : Host.Outcome State Fault Refusal :=
  match i with
  | .nop w => Sys2Proof.Machine.execNop w s
  | .hint w => Sys2Proof.Machine.execHint w s
  | .mode w => Sys2Proof.Machine.execMode w s
  | .limm lit => Sys2Proof.Machine.execLimm lit s
  | .bra w => Sys2Proof.Machine.execBra w s
  | .call w => Sys2Proof.Machine.execCall w s
  | .jmp w => Sys2Proof.Machine.execJmp w s
  | .callr w => Sys2Proof.Machine.execCallr w s
  | .ret w => Sys2Proof.Machine.execRet w s
  | .exit w => Sys2Proof.Machine.execExit w s
  | .regang w => Sys2Proof.Machine.execRegang w s
  | .regangTimeout split => Sys2Proof.Machine.execRegangTimeout split s
  | .split w => Sys2Proof.Machine.execSplit w s
  | .fuse w => Sys2Proof.Machine.execFuse w s
  | .fuseTimeout warp => Sys2Proof.Machine.execFuseTimeout warp s
  | .widthq w => Sys2Proof.Machine.execWidthq w s
  | .warpq w => Sys2Proof.Machine.execWarpq w s
  | .splitq w => Sys2Proof.Machine.execSplitq w s
  | .laneq w => Sys2Proof.Machine.execLaneq w s
  | .pand w => Sys2Proof.Machine.execPand w s
  | .por w => Sys2Proof.Machine.execPor w s
  | .pxor w => Sys2Proof.Machine.execPxor w s
  | .deact w => Sys2Proof.Machine.execDeact w s
  | .splitBoost split => Sys2Proof.Machine.execSplitBoost split s
  | .barSync w => Sys2Proof.Machine.execBarSync w s
  | .barArv w => Sys2Proof.Machine.execBarArv w s
  | .barWait w => Sys2Proof.Machine.execBarWait w s
  | .barCnt w => Sys2Proof.Machine.execBarCnt w s
  | .barPhq w => Sys2Proof.Machine.execBarPhq w s
  | .barFold w => Sys2Proof.Machine.execBarFold w s
  | .safe e lo hi => Sys2Proof.Machine.execSafe e lo hi s
  | .srd w => Sys2Proof.Machine.execSrd w s
  | .swr w => Sys2Proof.Machine.execSwr w s
  | .sxch w => Sys2Proof.Machine.execSxch w s
  | .trap w => Sys2Proof.Machine.execTrap w s
  | .tret w => Sys2Proof.Machine.execTret w s
  | .add w => Sys2Proof.Machine.execAdd w s
  | .sub w => Sys2Proof.Machine.execSub w s
  | .mul w => Sys2Proof.Machine.execMul w s
  | .mulhi w => Sys2Proof.Machine.execMulhi w s
  | .min w => Sys2Proof.Machine.execMin w s
  | .max w => Sys2Proof.Machine.execMax w s
  | .absdiff w => Sys2Proof.Machine.execAbsdiff w s
  | .mad w => Sys2Proof.Machine.execMad w s
  | .abs w => Sys2Proof.Machine.execAbs w s
  | .neg w => Sys2Proof.Machine.execNeg w s
  | .and w => Sys2Proof.Machine.execAnd w s
  | .or w => Sys2Proof.Machine.execOr w s
  | .xor w => Sys2Proof.Machine.execXor w s
  | .andn w => Sys2Proof.Machine.execAndn w s
  | .not w => Sys2Proof.Machine.execNot w s
  | .shl w => Sys2Proof.Machine.execShl w s
  | .shr w => Sys2Proof.Machine.execShr w s
  | .popc w => Sys2Proof.Machine.execPopc w s
  | .clz w => Sys2Proof.Machine.execClz w s
  | .bitrev w => Sys2Proof.Machine.execBitrev w s
  | .fext w => Sys2Proof.Machine.execFext w s
  | .fins w => Sys2Proof.Machine.execFins w s
  | .icmp w => Sys2Proof.Machine.execIcmp w s
  | .fcmp w => Sys2Proof.Machine.execFcmp w s
  | .fclass w => Sys2Proof.Machine.execFclass w s
  | .fadd w => Sys2Proof.Machine.execFadd w s
  | .fsub w => Sys2Proof.Machine.execFsub w s
  | .fmul w => Sys2Proof.Machine.execFmul w s
  | .fdiv w => Sys2Proof.Machine.execFdiv w s
  | .fmin w => Sys2Proof.Machine.execFmin w s
  | .fmax w => Sys2Proof.Machine.execFmax w s
  | .fabs w => Sys2Proof.Machine.execFabs w s
  | .fneg w => Sys2Proof.Machine.execFneg w s
  | .ffma w => Sys2Proof.Machine.execFfma w s
  | .ffms w => Sys2Proof.Machine.execFfms w s
  | .ffnma w => Sys2Proof.Machine.execFfnma w s
  | .ffnms w => Sys2Proof.Machine.execFfnms w s
  | .rcp w => Sys2Proof.Machine.execRcp w s
  | .rsq w => Sys2Proof.Machine.execRsq w s
  | .sqrt w => Sys2Proof.Machine.execSqrt w s
  | .ex2 w => Sys2Proof.Machine.execEx2 w s
  | .lg2 w => Sys2Proof.Machine.execLg2 w s
  | .sin w => Sys2Proof.Machine.execSin w s
  | .cos w => Sys2Proof.Machine.execCos w s
  | .tanh w => Sys2Proof.Machine.execTanh w s
  | .cvt w => Sys2Proof.Machine.execCvt w s
  | .nenc w => Sys2Proof.Machine.execNenc w s
  | .ndec w => Sys2Proof.Machine.execNdec w s
  | .pack w => Sys2Proof.Machine.execPack w s
  | .unpack w => Sys2Proof.Machine.execUnpack w s
  | .sel w => Sys2Proof.Machine.execSel w s
  | .mov w => Sys2Proof.Machine.execMov w s
  | .movs w => Sys2Proof.Machine.execMovs w s
  | .rdlane w => Sys2Proof.Machine.execRdlane w s
  | .qxchX1 w => Sys2Proof.Machine.execQxchX1 w s
  | .qxchX2 w => Sys2Proof.Machine.execQxchX2 w s
  | .qxchX3 w => Sys2Proof.Machine.execQxchX3 w s
  | .qxch w => Sys2Proof.Machine.execQxch w s
  | .shflFrom w => Sys2Proof.Machine.execShflFrom w s
  | .shflBack w => Sys2Proof.Machine.execShflBack w s
  | .shflAhead w => Sys2Proof.Machine.execShflAhead w s
  | .shflFlip w => Sys2Proof.Machine.execShflFlip w s
  | .voteAnd w => Sys2Proof.Machine.execVoteAnd w s
  | .voteOr w => Sys2Proof.Machine.execVoteOr w s
  | .voteSame w => Sys2Proof.Machine.execVoteSame w s
  | .ballot w => Sys2Proof.Machine.execBallot w s
  | .matchAny w => Sys2Proof.Machine.execMatchAny w s
  | .redux w => Sys2Proof.Machine.execRedux w s
  | .scan w => Sys2Proof.Machine.execScan w s
  | .sadd w => Sys2Proof.Machine.execSadd w s
  | .ssub w => Sys2Proof.Machine.execSsub w s
  | .smul w => Sys2Proof.Machine.execSmul w s
  | .smulhu w => Sys2Proof.Machine.execSmulhu w s
  | .smulhs w => Sys2Proof.Machine.execSmulhs w s
  | .sand w => Sys2Proof.Machine.execSand w s
  | .sor w => Sys2Proof.Machine.execSor w s
  | .sxor w => Sys2Proof.Machine.execSxor w s
  | .sshl w => Sys2Proof.Machine.execSshl w s
  | .sshr w => Sys2Proof.Machine.execSshr w s
  | .ssra w => Sys2Proof.Machine.execSsra w s
  | .sminu w => Sys2Proof.Machine.execSminu w s
  | .smaxu w => Sys2Proof.Machine.execSmaxu w s
  | .smins w => Sys2Proof.Machine.execSmins w s
  | .smaxs w => Sys2Proof.Machine.execSmaxs w s
  | .sseq w => Sys2Proof.Machine.execSseq w s
  | .ssltu w => Sys2Proof.Machine.execSsltu w s
  | .sslts w => Sys2Proof.Machine.execSslts w s
  | .addi w => Sys2Proof.Machine.execAddi w s
  | .andi w => Sys2Proof.Machine.execAndi w s
  | .ori w => Sys2Proof.Machine.execOri w s
  | .xori w => Sys2Proof.Machine.execXori w s
  | .movi w => Sys2Proof.Machine.execMovi w s
  | .saddi w => Sys2Proof.Machine.execSaddi w s
  | .ld w => Sys2Proof.Machine.execLd w s
  | .ldS w => Sys2Proof.Machine.execLdS w s
  | .ldF16 w => Sys2Proof.Machine.execLdF16 w s
  | .ldBf16 w => Sys2Proof.Machine.execLdBf16 w s
  | .ldE4m3 w => Sys2Proof.Machine.execLdE4m3 w s
  | .ldE5m2 w => Sys2Proof.Machine.execLdE5m2 w s
  | .st w => Sys2Proof.Machine.execSt w s
  | .stF16 w => Sys2Proof.Machine.execStF16 w s
  | .stBf16 w => Sys2Proof.Machine.execStBf16 w s
  | .stE4m3 w => Sys2Proof.Machine.execStE4m3 w s
  | .stE5m2 w => Sys2Proof.Machine.execStE5m2 w s
  | .lds w => Sys2Proof.Machine.execLds w s
  | .ldsF16 w => Sys2Proof.Machine.execLdsF16 w s
  | .ldsBf16 w => Sys2Proof.Machine.execLdsBf16 w s
  | .sts w => Sys2Proof.Machine.execSts w s
  | .stsF16 w => Sys2Proof.Machine.execStsF16 w s
  | .stsBf16 w => Sys2Proof.Machine.execStsBf16 w s
  | .ldc w => Sys2Proof.Machine.execLdc w s
  | .atom w => Sys2Proof.Machine.execAtom w s
  | .red w => Sys2Proof.Machine.execRed w s
  | .atoms w => Sys2Proof.Machine.execAtoms w s
  | .fenceRel w => Sys2Proof.Machine.execFenceRel w s
  | .fenceAcq w => Sys2Proof.Machine.execFenceAcq w s
  | .ldAcq w => Sys2Proof.Machine.execLdAcq w s
  | .ccWb w => Sys2Proof.Machine.execCcWb w s
  | .ccInv w => Sys2Proof.Machine.execCcInv w s
  | .ccWbinv w => Sys2Proof.Machine.execCcWbinv w s
  | .pf w => Sys2Proof.Machine.execPf w s
  | .time w => Sys2Proof.Machine.execTime w s
  | .twait w => Sys2Proof.Machine.execTwait w s
  | .mteps w => Sys2Proof.Machine.execMteps w s
  | .locq w => Sys2Proof.Machine.execLocq w s
  | .locqSelf w => Sys2Proof.Machine.execLocqSelf w s
  | .ctrdL w => Sys2Proof.Machine.execCtrdL w s
  | .ctrdG w => Sys2Proof.Machine.execCtrdG w s
  | .ctjoin w => Sys2Proof.Machine.execCtjoin w s
  | .regmode w => Sys2Proof.Machine.execRegmode w s
  | .geninc w => Sys2Proof.Machine.execGeninc w s
  | .genwait w => Sys2Proof.Machine.execGenwait w s
  | .genrd w => Sys2Proof.Machine.execGenrd w s
  | .xlat w => Sys2Proof.Machine.execXlat w s
  | .qpop w => Sys2Proof.Machine.execQpop w s
  | .mtrd w => Sys2Proof.Machine.execMtrd w s
  | .mtwr w => Sys2Proof.Machine.execMtwr w s
  | .tilestat w => Sys2Proof.Machine.execTilestat w s
  | .msig w => Sys2Proof.Machine.execMsig w s
  | .mqcnt w => Sys2Proof.Machine.execMqcnt w s
  | .cpTensor w => Sys2Proof.Machine.execCpTensor w s
  | .cpTensorW w => Sys2Proof.Machine.execCpTensorW w s
  | .cpStore w => Sys2Proof.Machine.execCpStore w s
  | .cpGather w => Sys2Proof.Machine.execCpGather w s
  | .cpMcast w => Sys2Proof.Machine.execCpMcast w s
  | .hbAcq w => Sys2Proof.Machine.execHbAcq w s
  | .hbWait w => Sys2Proof.Machine.execHbWait w s
  | .hbRel w => Sys2Proof.Machine.execHbRel w s
  | .hbState w => Sys2Proof.Machine.execHbState w s
  | .rgNext w => Sys2Proof.Machine.execRgNext w s
  | .cpResume w => Sys2Proof.Machine.execCpResume w s
  | .cpAbort w => Sys2Proof.Machine.execCpAbort w s
  | .cpFrec w => Sys2Proof.Machine.execCpFrec w s
  | .treeNew w => Sys2Proof.Machine.execTreeNew w s
  | .treeClone w => Sys2Proof.Machine.execTreeClone w s
  | .treeRel w => Sys2Proof.Machine.execTreeRel w s
  | .treeRd w => Sys2Proof.Machine.execTreeRd w s
  | .nodeFork w => Sys2Proof.Machine.execNodeFork w s
  | .nodePrune w => Sys2Proof.Machine.execNodePrune w s
  | .nodeCommit w => Sys2Proof.Machine.execNodeCommit w s
  | .nodeRd w => Sys2Proof.Machine.execNodeRd w s
  | .nodePay w => Sys2Proof.Machine.execNodePay w s
  | .kvSlot w => Sys2Proof.Machine.execKvSlot w s
  | .kvAppend w => Sys2Proof.Machine.execKvAppend w s
  | .maskgen w => Sys2Proof.Machine.execMaskgen w s
  | .maskgenS w => Sys2Proof.Machine.execMaskgenS w s
  | .tqPush w => Sys2Proof.Machine.execTqPush w s
  | .tqPop w => Sys2Proof.Machine.execTqPop w s
  | .tqSteal w => Sys2Proof.Machine.execTqSteal w s
  | .pqIns w => Sys2Proof.Machine.execPqIns w s
  | .pqMin w => Sys2Proof.Machine.execPqMin w s
  | .depDec w => Sys2Proof.Machine.execDepDec w s
  | .depWait w => Sys2Proof.Machine.execDepWait w s
  | .taskEnd w => Sys2Proof.Machine.execTaskEnd w s
  | .bndMin w => Sys2Proof.Machine.execBndMin w s
  | .bndRd w => Sys2Proof.Machine.execBndRd w s
  | .bndSet w => Sys2Proof.Machine.execBndSet w s
  | .collAr w => Sys2Proof.Machine.execCollAr w s
  | .collAg w => Sys2Proof.Machine.execCollAg w s
  | .collRs w => Sys2Proof.Machine.execCollRs w s
  | .rldB32 w => Sys2Proof.Machine.execRldB32 w s
  | .rldB64 w => Sys2Proof.Machine.execRldB64 w s
  | .rstB32 w => Sys2Proof.Machine.execRstB32 w s
  | .rstB64 w => Sys2Proof.Machine.execRstB64 w s
  | .l1wbinv w => Sys2Proof.Machine.execL1wbinv w s
  | .xlflush w => Sys2Proof.Machine.execXlflush w s
  | .mnop w => Sys2Proof.Machine.execMnop w s
  | .mhint w => Sys2Proof.Machine.execMhint w s
  | .mend w => Sys2Proof.Machine.execMend w s
  | .mbr w => Sys2Proof.Machine.execMbr w s
  | .madd w => Sys2Proof.Machine.execMadd w s
  | .msub w => Sys2Proof.Machine.execMsub w s
  | .mmul w => Sys2Proof.Machine.execMmul w s
  | .mand w => Sys2Proof.Machine.execMand w s
  | .mor w => Sys2Proof.Machine.execMor w s
  | .mxor w => Sys2Proof.Machine.execMxor w s
  | .mshl w => Sys2Proof.Machine.execMshl w s
  | .mshr w => Sys2Proof.Machine.execMshr w s
  | .msra w => Sys2Proof.Machine.execMsra w s
  | .mminu w => Sys2Proof.Machine.execMminu w s
  | .mmaxu w => Sys2Proof.Machine.execMmaxu w s
  | .mseq w => Sys2Proof.Machine.execMseq w s
  | .msltu w => Sys2Proof.Machine.execMsltu w s
  | .mslts w => Sys2Proof.Machine.execMslts w s
  | .mmov w => Sys2Proof.Machine.execMmov w s
  | .maddi w => Sys2Proof.Machine.execMaddi w s
  | .mldg w => Sys2Proof.Machine.execMldg w s
  | .marv w => Sys2Proof.Machine.execMarv w s
  | .mwait w => Sys2Proof.Machine.execMwait w s
  | .msync w => Sys2Proof.Machine.execMsync w s
  | .mhwait w => Sys2Proof.Machine.execMhwait w s
  | .mhrel w => Sys2Proof.Machine.execMhrel w s
  | .mldA w => Sys2Proof.Machine.execMldA w s
  | .mldB w => Sys2Proof.Machine.execMldB w s
  | .mma w => Sys2Proof.Machine.execMma w s
  | .mclr w => Sys2Proof.Machine.execMclr w s
  | .mclrI w => Sys2Proof.Machine.execMclrI w s
  | .mstat w => Sys2Proof.Machine.execMstat w s
  | .mpush w => Sys2Proof.Machine.execMpush w s
  | .mst w => Sys2Proof.Machine.execMst w s
  | .mspec w => Sys2Proof.Machine.execMspec w s
  | .mresolve w => Sys2Proof.Machine.execMresolve w s
  | .mresolveSig w => Sys2Proof.Machine.execMresolveSig w s
  | .mcommit w => Sys2Proof.Machine.execMcommit w s
  | .mlimm lit => Sys2Proof.Machine.execMlimm lit s
  | .matrixCommandPerform wg => Sys2Proof.Machine.execMatrixCommandPerform wg s
  | .tileRetire wg idx => Sys2Proof.Machine.execTileRetire wg idx s
  | .spokeCpTensor w => Sys2Proof.Machine.execSpokeCpTensor w s
  | .spokeCpTensorW w => Sys2Proof.Machine.execSpokeCpTensorW w s
  | .spokeCpStore w => Sys2Proof.Machine.execSpokeCpStore w s
  | .spokeCpGather w => Sys2Proof.Machine.execSpokeCpGather w s
  | .spokeCpMcast w => Sys2Proof.Machine.execSpokeCpMcast w s
  | .spokeHbAcq w => Sys2Proof.Machine.execSpokeHbAcq w s
  | .spokeHbRel w => Sys2Proof.Machine.execSpokeHbRel w s
  | .spokeHbState w => Sys2Proof.Machine.execSpokeHbState w s
  | .spokeCpResume w => Sys2Proof.Machine.execSpokeCpResume w s
  | .spokeCpAbort w => Sys2Proof.Machine.execSpokeCpAbort w s
  | .spokeCpFrec w => Sys2Proof.Machine.execSpokeCpFrec w s
  | .spokeRgNext w => Sys2Proof.Machine.execSpokeRgNext w s
  | .spokeRgPeek w => Sys2Proof.Machine.execSpokeRgPeek w s
  | .spokeRdmt w => Sys2Proof.Machine.execSpokeRdmt w s
  | .spokeRdeps w => Sys2Proof.Machine.execSpokeRdeps w s
  | .spokeRdctx w => Sys2Proof.Machine.execSpokeRdctx w s
  | .spokeHbWait w => Sys2Proof.Machine.execSpokeHbWait w s
  | .spokeSbarArv w => Sys2Proof.Machine.execSpokeSbarArv w s
  | .spokeSbarWait w => Sys2Proof.Machine.execSpokeSbarWait w s
  | .spokeSbarSync w => Sys2Proof.Machine.execSpokeSbarSync w s
  | .spokeLoad r => Sys2Proof.Machine.execSpokeLoad r s
  | .spokeStore r => Sys2Proof.Machine.execSpokeStore r s
  | .spokeAmo r => Sys2Proof.Machine.execSpokeAmo r s
  | .spokeLr r => Sys2Proof.Machine.execSpokeLr r s
  | .spokeSc r => Sys2Proof.Machine.execSpokeSc r s
  | .spokeFence r => Sys2Proof.Machine.execSpokeFence r s
  | .spokeFenceI => Sys2Proof.Machine.execSpokeFenceI s
  | .spokeCsrRead r => Sys2Proof.Machine.execSpokeCsrRead r s
  | .spokeWfi => Sys2Proof.Machine.execSpokeWfi s
  | .spokeEcall => Sys2Proof.Machine.execSpokeEcall s
  | .spokeEbreak c => Sys2Proof.Machine.execSpokeEbreak c s
  | .spokeOtherInstruction c op => Sys2Proof.Machine.execSpokeOtherInstruction c op s
  | .resultReturn split => Sys2Proof.Machine.execResultReturn split s
  | .homeRead id => Sys2Proof.Machine.execHomeRead id s
  | .homeWrite id => Sys2Proof.Machine.execHomeWrite id s
  | .homeAtomic id => Sys2Proof.Machine.execHomeAtomic id s
  | .ownershipRequest wg h => Sys2Proof.Machine.execOwnershipRequest wg h s
  | .spanRelease idx => Sys2Proof.Machine.execSpanRelease idx s
  | .recallSpan idx => Sys2Proof.Machine.execRecall idx s
  | .leaseRecordFree idx => Sys2Proof.Machine.execLeaseRecordFree idx s
  | .pageWalk core wg va => Sys2Proof.Machine.execPageWalk core wg va s
  | .translationExpiry core idx => Sys2Proof.Machine.execTranslationExpiry core idx s
  | .hostSnoop line => Sys2Proof.Machine.execHostSnoop line s
  | .hostSnoopAnswer line => Sys2Proof.Machine.execHostSnoopAnswer line s
  | .cxlCacheResponse line err data => Sys2Proof.Machine.execCxlCacheResponse line err data s
  | .cxlCacheTimeout line => Sys2Proof.Machine.execCxlCacheTimeout line s
  | .hostMemRead pa n => Sys2Proof.Machine.execHostMemRead pa n s
  | .hostMemWrite pa data => Sys2Proof.Machine.execHostMemWrite pa data s
  | .hostWriteCompletion idx => Sys2Proof.Machine.execHostWriteCompletion idx s
  | .backInvalidateResponse block => Sys2Proof.Machine.execBackInvalidateResponse block s
  | .linkDown link => Sys2Proof.Machine.execLinkDown link s
  | .heartbeatSend die => Sys2Proof.Machine.execHeartbeatSend die s
  | .heartbeatReceive die src => Sys2Proof.Machine.execHeartbeatReceive die src s
  | .heartbeatTimeout link => Sys2Proof.Machine.execHeartbeatTimeout link s
  | .syncSend die => Sys2Proof.Machine.execSyncSend die s
  | .syncReceive die t1 t2 t3 t4 => Sys2Proof.Machine.execSyncReceive die t1 t2 t3 t4 s
  | .servoHoldover die => Sys2Proof.Machine.execServoHoldover die s
  | .dieUnsync die oscillator => Sys2Proof.Machine.execDieUnsync die oscillator s
  | .dieResync die => Sys2Proof.Machine.execDieResync die s
  | .ptmExchange master rtt turnaround gran => Sys2Proof.Machine.execPtmExchange master rtt turnaround gran s
  | .ptmLost => Sys2Proof.Machine.execPtmLost s
  | .partitionDeclare die => Sys2Proof.Machine.execPartitionDeclare die s
  | .diePartitioned die => Sys2Proof.Machine.execDiePartitioned die s
  | .timeTargetReached die => Sys2Proof.Machine.execTimeTargetReached die s
  | .opChange die powers temps temp => Sys2Proof.Machine.execOpChange die powers temps temp s
  | .thermalThrottle die temp => Sys2Proof.Machine.execThermalThrottle die temp s
  | .thermalStop die temp => Sys2Proof.Machine.execThermalStop die temp s
  | .copyUnitRelease wg h k => Sys2Proof.Machine.execCopyUnitRelease wg h k s
  | .copyUnitFault wg h => Sys2Proof.Machine.execCopyUnitFault wg h s
  | .handleFull wg h => Sys2Proof.Machine.execHandleFull wg h s
  | .mcastDeliveryAccept wg h rank => Sys2Proof.Machine.execMcastDeliveryAccept wg h rank s
  | .treeOpPerform id => Sys2Proof.Machine.execTreeOpPerform id s
  | .maskgenRequest id => Sys2Proof.Machine.execMaskgenRequest id s
  | .nodeSlotFree tree slot => Sys2Proof.Machine.execNodeSlotFree tree slot s
  | .treeIdFree tree => Sys2Proof.Machine.execTreeIdFree tree s
  | .poolPageLapse page => Sys2Proof.Machine.execPoolPageLapse page s
  | .cancelArrival die idx => Sys2Proof.Machine.execCancelArrival die idx s
  | .cancelKill wg => Sys2Proof.Machine.execCancelKill wg s
  | .dequeOperation id => Sys2Proof.Machine.execDequeOperation id s
  | .depDecrement id => Sys2Proof.Machine.execDepDecrement id s
  | .autoEnqueue idx => Sys2Proof.Machine.execAutoEnqueue idx s
  | .pqRound die => Sys2Proof.Machine.execPqRound die s
  | .taskGiveBack idx => Sys2Proof.Machine.execTaskGiveBack idx s
  | .boundUpdate cluster k => Sys2Proof.Machine.execBoundUpdate cluster k s
  | .preemptRequest wg tq => Sys2Proof.Machine.execPreemptRequest wg tq s
  | .forcedStop split => Sys2Proof.Machine.execForcedStop split s
  | .unitSaveDone wg => Sys2Proof.Machine.execUnitSaveDone wg s
  | .lazyFillDone warp g => Sys2Proof.Machine.execLazyFillDone warp g s
  | .qdbWrite q v => Sys2Proof.Machine.execQdbWrite q v s
  | .queueEnable q => Sys2Proof.Machine.execQueueEnable q s
  | .queueDisable q => Sys2Proof.Machine.execQueueDisable q s
  | .queuePreempt q => Sys2Proof.Machine.execQueuePreempt q s
  | .queueResume q => Sys2Proof.Machine.execQueueResume q s
  | .dispatchPacket q => Sys2Proof.Machine.execDispatchPacket q s
  | .waitPacket q => Sys2Proof.Machine.execWaitPacket q s
  | .signalPacket q => Sys2Proof.Machine.execSignalPacket q s
  | .signalValueWrite q => Sys2Proof.Machine.execSignalValueWrite q s
  | .nopPacket q => Sys2Proof.Machine.execNopPacket q s
  | .reservedPacket q => Sys2Proof.Machine.execReservedPacket q s
  | .workgroupPlace launch => Sys2Proof.Machine.execWorkgroupPlace launch s
  | .workgroupStart wg => Sys2Proof.Machine.execWorkgroupStart wg s
  | .launchCompletionSignal launch => Sys2Proof.Machine.execLaunchCompletionSignal launch s
  | .launchEndSignal launch => Sys2Proof.Machine.execLaunchEndSignal launch s
  | .stealIdleRequest die => Sys2Proof.Machine.execStealIdleRequest die s
  | .stealRequestReceive die => Sys2Proof.Machine.execStealRequestReceive die s
  | .queueStealHandoff q => Sys2Proof.Machine.execQueueStealHandoff q s
  | .queueReturnHome q => Sys2Proof.Machine.execQueueReturnHome q s
  | .workgroupSave wg => Sys2Proof.Machine.execWorkgroupSave wg s
  | .workgroupRestore q area => Sys2Proof.Machine.execWorkgroupRestore q area s
  | .collPeerPacket die slot rank pkt => Sys2Proof.Machine.execCollPeerPacket die slot rank pkt s
  | .collRankComplete die slot => Sys2Proof.Machine.execCollRankComplete die slot s
  | .collAbort die msg => Sys2Proof.Machine.execCollAbort die msg s
  | .collTimeout die slot => Sys2Proof.Machine.execCollTimeout die slot s
  | .remoteAccessTarget r => Sys2Proof.Machine.execRemoteAccessTarget r s
  | .remoteAccessResponse r => Sys2Proof.Machine.execRemoteAccessResponse r s
  | .fabricLaneLoss die port => Sys2Proof.Machine.execFabricLaneLoss die port s
  | .fabricPortDown die port => Sys2Proof.Machine.execFabricPortDown die port s
  | .fabricSyncSend die => Sys2Proof.Machine.execFabricSyncSend die s
  | .fabricSyncReceive die peer offset rtt bound => Sys2Proof.Machine.execFabricSyncReceive die peer offset rtt bound s
  | .keyLoad => Sys2Proof.Machine.execKeyLoad s
  | .keyDisable => Sys2Proof.Machine.execKeyDisable s
  | .keyDisableComplete => Sys2Proof.Machine.execKeyDisableComplete s
  | .lctlWrite die v => Sys2Proof.Machine.execLctlWrite die v s
  | .pmctlWrite die v => Sys2Proof.Machine.execPmctlWrite die v s
  | .pmcntLoRead die n => Sys2Proof.Machine.execPmcntLoRead die n s
  | .registerWrite r => Sys2Proof.Machine.execRegisterWrite r s
  | .spdmVersion => Sys2Proof.Machine.execSpdmVersion s
  | .spdmCapabilities => Sys2Proof.Machine.execSpdmCapabilities s
  | .spdmAlgorithms => Sys2Proof.Machine.execSpdmAlgorithms s
  | .spdmDigests => Sys2Proof.Machine.execSpdmDigests s
  | .spdmCertificate offset len => Sys2Proof.Machine.execSpdmCertificate offset len s
  | .spdmChallengeAuth nonce => Sys2Proof.Machine.execSpdmChallengeAuth nonce s
  | .spdmMeasurements index signed nonce => Sys2Proof.Machine.execSpdmMeasurements index signed nonce s
  | .spdmKeyExchange exchange => Sys2Proof.Machine.execSpdmKeyExchange exchange s
  | .ideKm msg => Sys2Proof.Machine.execIdeKm msg s
  | .ideIntegrityFailure => Sys2Proof.Machine.execIdeIntegrityFailure s
  | .cxlLinkDown => Sys2Proof.Machine.execCxlLinkDown s
  | .coldStart o => Sys2Proof.Machine.execColdStart o s
  | .warmStart o => Sys2Proof.Machine.execWarmStart o s
  | .cxlHotReset o => Sys2Proof.Machine.execCxlHotReset o s
  | .ps1Entry => Sys2Proof.Machine.execPs1Entry s
  | .ps2Entry => Sys2Proof.Machine.execPs2Entry s
  | .ps2Wake o => Sys2Proof.Machine.execPs2Wake o s
  | .reservedEncoding w => Sys2Proof.Machine.execReservedEncoding w s
  | .matrixReservedEncoding w => Sys2Proof.Machine.execMatrixReservedEncoding w s
  | .spokeIllegalInstruction w => Sys2Proof.Machine.execSpokeIllegalInstruction w s
  | .eccGranuleError pa uncorrectable => Sys2Proof.Machine.execEccGranuleError pa uncorrectable s
  | .flitCrcFailure r => Sys2Proof.Machine.execFlitCrcFailure r s
  | .fabricPortTrained die port link => Sys2Proof.Machine.execFabricPortTrained die port link s
  | .startComplete => Sys2Proof.Machine.execStartComplete s
  | .powerLoss => Sys2Proof.Machine.execPowerLoss s
  | .configurationRequest r => Sys2Proof.Machine.execConfigurationRequest r s
  | .l1SpanDrop core idx => Sys2Proof.Machine.execL1SpanDrop core idx s

end Sys2Proof.Machine
end

