-- ==== Sys2Proof/Machine/Front.lean ====
section
/-! DEFINITION. The front end: what an issue slot fetches, decodes and runs, and how an instruction is placed to be the next one. -/

namespace Sys2Proof.Machine

/-- Decode what a warp fetched, with the words that the instruction needs besides the first (R25, R34, R122). -/
noncomputable def issueSplit (i : Nat) (s : State) : Host.Outcome State Fault Refusal :=
  let t := (wake i (countIssue i s)).modSplit i (fun x => { x with boosted := false })
  let x := t.split i
  let g := t.wgIdxOf i
  let lit := x.lit.isSome
  let a := if lit then x.pc + 8 else x.pc
  let run (u : State) (bs : List Byte) : Host.Outcome State Fault Refusal :=
    match Sys2Proof.decode .warp lit bs with
    | .ok (k, _) => exec k { u with who := { u.who with split := i } }
    | .error _ => .next u
  match (match x.cons with
    | some w => if lit then (t, Got.ok (wordBytes w), a) else fetchWords g x.prv 0 1 a t
    | none => fetchWords g x.prv 0 1 a t) with
  | (u, .bad c, va) => .next (raiseHere i c va u)
  | (u, .later, _) => .next (parkRetest i u.memWait u)
  | (u, .ok bs, _) =>
    match Sys2Proof.decode .warp lit (bs ++ List.replicate 8 0) with
    | .error _ => .next u
    | .ok (k, _) =>
      if k.size == 4 then run u (bs ++ List.replicate 8 0)
      else
        match fetchWords g x.prv 0 (k.size / 4) a u with
        | (v, .bad c, va) => .next (raiseHere i c va v)
        | (v, .later, _) => .next (parkRetest i v.memWait v)
        | (v, .ok all, _) => run v (all ++ List.replicate 8 0)

/-- Issue a word of a sequencer context (R249); a fetch that fails raises 0x0EA at its address (R252). -/
noncomputable def issueSeq (g : Nat) (s : State) : Host.Outcome State Fault Refusal :=
  let t := s.modSeq g (fun q => { q with phase := .ready })
  let q := t.seq g
  let a := if q.lit.isSome then q.pc + 8 else q.pc
  let prv := (t.wg g).prv
  let run (u : State) (bs : List Byte) : Host.Outcome State Fault Refusal :=
    match Sys2Proof.decode .matrix q.lit.isSome bs with
    | .ok (k, _) => exec k { u with who := { u.who with wg := g } }
    | .error _ => .next u
  if (t.wg g).preq.isSome && q.n == 0 && q.lit.isNone then .next (stopSeq g t)
  else
    match (match q.cons with
      | some w => if q.lit.isSome then (t, Got.ok (wordBytes w), a) else fetchWords g prv 7 1 a t
      | none => fetchWords g prv 7 1 a t) with
    | (u, .bad _, va) => .next (seqTrap g 0x0EA va u)
    | (u, .later, _) => .next (u.modSeq g (fun q => { q with phase := .retest u.memWait }))
    | (u, .ok bs, _) =>
      match Sys2Proof.decode .matrix q.lit.isSome (bs ++ List.replicate 8 0) with
      | .error _ => .next u
      | .ok (k, _) =>
        if k.size == 4 then run u (bs ++ List.replicate 8 0)
        else
          match fetchWords g prv 7 (k.size / 4) a u with
          | (v, .bad _, va) => .next (seqTrap g 0x0EA va v)
          | (v, .later, _) => .next (v.modSeq g (fun q => { q with phase := .retest v.memWait }))
          | (v, .ok all, _) => run v (all ++ List.replicate 8 0)

/-- Issue an instruction of a spoke context (R301, R302). -/
noncomputable def issueSpoke (g : Nat) (st : Bool) (s : State) : Host.Outcome State Fault Refusal :=
  let t := s.setCtxPhase (.spoke g st) .ready
  let c := t.spoke g st
  let u := { t with who := { t.who with wg := g, store := st } }
  if (t.wg g).preq.isSome then .next (stopSpoke g st t)
  else if c.badFetch then exec (.spokeIllegalInstruction 0) u
  else
    match Sys2Proof.decode .spoke false c.fetch with
    | .ok (k, _) => exec k u
    | .error _ => .next u

/-- The core cycle of a core's die. -/
def State.cycleAt (s : State) (core : Nat) : Nat := (s.die (dieOfCore core)).cycle

/-- Whether an issue port of a core still has its turn in this cycle: each starts at most one word a cycle, and they go in the order of partitions 0
to 3, sequencer, load spoke, store spoke, so that words which issue in one cycle act in the order of R290 (R85, R249, R301, R311). -/
def State.portOpen (s : State) (core k : Nat) : Bool :=
  let p := (s.core core).port
  Nat.blt p.1 (s.cycleAt core) || (p.1 == s.cycleAt core && Nat.ble p.2 k)

/-- An issue port has had its turn in this cycle. -/
def usePort (core k : Nat) (s : State) : State := s.modCore core (fun c => { c with port := (s.cycleAt core, k + 1) })

/-- Take one turn. -/
noncomputable def takeTurn (turn : Turn) (s : State) : Host.Outcome State Fault Refusal :=
  match turn with
  | .event i => exec i s
  | .boundCopy core k => .next (copyBound core k s)
  | .issue core part =>
    match if s.portOpen core part then s.pick core part else none with
    | some i => issueSplit i ((usePort core part s).modCore core (fun c => { c with rr := c.rr.set part ((s.warpOf i).id % 128) }))
    | none => .next s
  | .issueSeq core =>
    match if s.portOpen core 4 then s.pickCtx core .seq (s.core core).rrSeq else none with
    | some g => issueSeq g ((usePort core 4 s).modCore core (fun c => { c with rrSeq := (s.wg g).slot.getD 0 }))
    | none => .next s
  | .issueSpoke core st =>
    let k := if st then 6 else 5
    let last := if st then (s.core core).rrStore else (s.core core).rrLoad
    match if s.portOpen core k then s.pickCtx core (fun g => .spoke g st) last else none with
    | some g =>
      issueSpoke g st ((usePort core k s).modCore core (fun c =>
        if st then { c with rrStore := (s.wg g).slot.getD 0 } else { c with rrLoad := (s.wg g).slot.getD 0 }))
    | none => .next s

/-- Where an instruction is placed. -/
def placedAt : Nat := 0x100000

/-- Load a workgroup whose next instruction is the one of a table row: its code at `placedAt` in memory or in a spoke's image, a page of the
address space mapped to it, every role ready; an issue slot of core 0 is next (log entry 2). -/
noncomputable def placeWord (nbits w : Nat) (s : State) : State :=
  let bs := bytesOfNat 12 (w % 2 ^ nbits)
  let found := Sys2Proof.decodeTableWord nbits w
  let is (st : Stream) : Bool :=
    match Sys2Proof.decode st false bs, found with
    | .ok (i, _), some j => i == j
    | _, _ => false
  let turn : Turn := if is .warp then .issue 0 0 else if is .spoke then .issueSpoke 0 false else .issueSeq 0
  let l := s.launches.length
  let g := s.wgs.length
  let k := s.warps.length
  let launch : Launch := { live := true }
  let wg : Wg :=
    { phase := .running, launch := l, matrix := true, load := true, store := true, tiles := 16, prv := true, slot := some 0
      nbar := 16, bars := List.replicate 17 {}, scratchSize := 65536, bound := true
      entries := [{ size := 4096 }], rings := [{ stages := 1, first := 0 }]
      seq := { phase := .ready, pc := placedAt }
      lspoke := { phase := .ready, image := bs } }
  let split : Split := ({ live := true, warp := k, quads := 0xFF, pc := placedAt, prv := true, boosted := true } : Split).setAct 32 (onesMask 32)
  let leaf : Leaf := { lg := 30, u := true, x := true, w := true }
  { s with
    launches := s.launches ++ [launch], wgs := s.wgs ++ [wg], warps := s.warps ++ [{ live := true, wg := g }]
    splits := s.splits ++ [split]
    mem := cellsWrite s.mem placedAt bs
    cores := s.cores.modify 0 (fun c => { c with port := (0, 0), xlat := { root := 0, rgen := 0, va := 0, leaf := leaf, time := s.nowCore 0 } :: c.xlat })
    agenda := turn :: s.agenda }

end Sys2Proof.Machine
end

