-- ==== Sys2Proof/Machine/Schedule.lean ====
section
/-! DEFINITION. Whose turn it is (log entry 5): the turns that are possible in a state, and the one that a step takes. -/

namespace Sys2Proof.Machine

/-- What happens before a turn is taken: the work of launches that are ended is discarded (R395) and rounds that are over end (R386); time passes, a
rendezvous that has run out is over (R100, R103), what has a bound in time is done by then, the waits whose events have come are over (R17), and dies
that have work are not idle (R393). -/
def State.tick (s : State) : State := s.discardEnded.endRounds.flow.noteExpiry.meetBounds.noteCut.noteWakes.noteWaits.noteBusy

/-- The turn that a request in flight waits for. -/
noncomputable def Req.turn (s : State) (q : Req) : Option Turn :=
  match q with
  | .mem r =>
    match r.op with
    | .load _ _ _ | .prefetch | .xload _ _ _ | .xlr _ _ => some (.event (.homeRead r.id))
    | .store _ | .writeBack _ _ | .xsc _ _ => some (.event (.homeWrite r.id))
    | .atomic _ _ _ | .xamo _ _ _ => some (.event (.homeAtomic r.id))
  | .eng r =>
    match r.op with
    | .treeNew | .treeClone | .treeRel | .treeRd _ | .nodeFork | .nodePrune | .nodeCommit | .nodeRd _ | .nodePay | .kvSlot | .kvAppend =>
      some (.event (.treeOpPerform r.id))
    | .maskgen _ => some (.event (.maskgenRequest r.id))
    | .tqPush | .tqPop | .tqSteal => some (.event (.dequeOperation r.id))
    | .pqIns | .pqMin => some (.event (.pqRound r.die))
    | .depDec | .taskEnd => some (.event (.depDecrement r.id))
    | .bndMin k | .bndSet k => if r.reply.isSome then none else some (.event (.boundUpdate (clusterOfCore r.core) k))
    | .rld _ | .rst _ =>
      if s.fabPath r.die then none else some (.event (.remoteAccessResponse { id := r.id, cause := 0x1C6, data := [], time := 0 }))
    | .collective _ | .regmode | .l1wbinv | .tileRead | .tileWrite => none

/-- Turns of one buffer-table entry: a unit sent or released, a failure raised, the handle filled, a member's acceptance. -/
noncomputable def State.entryTurns (s : State) (g h : Nat) : List Turn :=
  match ((s.wg g).entry h).copy.bind s.copyOf with
  | none => []
  | some c =>
    (if c.flight.isEmpty then [] else [Turn.event (.copyUnitRelease g h 0)]) ++
    (if Nat.blt c.sent c.bytes && c.fail.isNone && !c.stop && Nat.blt c.flight.length 32 then [Turn.event (.ownershipRequest g h)] else []) ++
    (if c.fail.isSome && !c.raised && c.flight.isEmpty then [Turn.event (.copyUnitFault g h)] else []) ++
    (if s.entryDone g h then [Turn.event (.handleFull g h)] else []) ++
    ((c.dests.filter (fun d => !d.accepted)).map (fun d => Turn.event (.mcastDeliveryAccept g h d.rank)))

/-- Turns of one resident workgroup: its copies, its engine, its contexts, its start, and what pre-emption and cancellation do to it. -/
noncomputable def State.wgTurns (s : State) (g : Nat) : List Turn :=
  let w := s.wg g
  let q := s.queue (s.launch w.launch).queue
  (List.range w.entries.length).flatMap (s.entryTurns g) ++
  (if w.seq.cmds.isEmpty then [] else [Turn.event (.matrixCommandPerform g)]) ++
  (if w.seq.commits.isEmpty then [] else [Turn.event (.tileRetire g 0)]) ++
  (if s.ctxIssuable (.seq g) g then [Turn.issueSeq w.core] else []) ++
  (if s.ctxIssuable (.spoke g false) g then [Turn.issueSpoke w.core false] else []) ++
  (if s.ctxIssuable (.spoke g true) g then [Turn.issueSpoke w.core true] else []) ++
  (if w.phase == .placed then [Turn.event (.workgroupStart g)] else []) ++
  (if w.phase == .running && w.creq.isSome then [Turn.event (.cancelKill g)] else []) ++ (if w.revoke.isEmpty then [] else [Turn.event (.workgroupSave g)]) ++
  (if w.phase == .running && q.state == .preempting && w.preq.isNone then [Turn.event (.preemptRequest g q.tq)] else []) ++
  (if w.phase == .running && w.preq.isSome then [Turn.event (.unitSaveDone g), Turn.event (.workgroupSave g)] else [])

/-- Turns of one split: its group's end, its issue slot, a wait that lasts too long, a forced stop. -/
noncomputable def State.splitTurns (s : State) (i : Nat) : List Turn :=
  let x := s.split i
  (match x.phase with
    | .parked .group => if x.awaiting then [] else [Turn.event (.resultReturn i)]
    | .parked (.regang _ _ _) => [Turn.event (.regangTimeout i)]
    | .parked (.fuse _ _) => [Turn.event (.fuseTimeout x.warp)]
    | .ready => if Nat.ble (x.since + 256) (s.cycleOf i) && !x.boosted then [Turn.event (.splitBoost i)] else []
    | _ => if x.woken && Nat.ble (x.since + 256) (s.cycleOf i) && !x.boosted then [Turn.event (.splitBoost i)] else []) ++
  (if s.issuable i then [Turn.issue (s.coreOf i) (s.warpOf i).part] else []) ++
  (if (s.wgOf i).preq.any (fun p => x.phase == .ready && Nat.ble (p.tq + 320000) (s.nowOf i)) then [Turn.event (.forcedStop i)] else [])

/-- The granules that warps of a pre-empted or resumed workgroup still lack. -/
noncomputable def State.fillTurns (s : State) : List Turn :=
  (idxsOf s.warps (fun w => w.live && w.absent != 0)).flatMap (fun w =>
    ((List.range 8).filter (fun k => (s.warp w).absent.getLsbD k)).map (fun k => Turn.event (.lazyFillDone w k)))

/-- Turns of one queue: its lane takes a packet, its signal is written, its saved workgroups come back, it changes hands. -/
noncomputable def State.queueTurns (s : State) (q : Nat) : List Turn :=
  let x := s.queue q
  match x.state with
  | .active =>
    (if x.qrd == x.qdb then [Turn.event (.queueReturnHome q)]
     else [Turn.event (.dispatchPacket q), Turn.event (.waitPacket q), Turn.event (.signalPacket q), Turn.event (.nopPacket q),
       Turn.event (.reservedPacket q)]) ++
    (if x.signal.isSome then [Turn.event (.signalValueWrite q)] else []) ++
    (if x.thief.isSome then [Turn.event (.queueStealHandoff q)] else []) ++
    (if x.resume then [Turn.event (.workgroupRestore q 0)] else match s.nextRestore q with
      | some g => [Turn.event (.workgroupRestore q (s.wg g).area)]
      | none => [])
  | .preempting =>
    (if x.signal.isSome then [Turn.event (.signalValueWrite q)] else []) ++ (if s.allSaved q then [Turn.event (.queuePreempt q)] else [])
  | _ => if x.thief.isSome then [Turn.event (.queueStealHandoff q)] else []

/-- Turns of one launch. -/
noncomputable def State.launchTurns (s : State) (l : Nat) : List Turn :=
  let x := s.launch l
  if x.ended.isSome then [Turn.event (.launchEndSignal l)]
  else if Nat.blt x.next x.total then [Turn.event (.workgroupPlace l)]
  else [Turn.event (.launchCompletionSignal l)]

/-- Turns of the lineage and task engines: a removed node, tree or page becomes free, cancellation reaches a die, a record comes back. -/
noncomputable def State.lineageTurns (s : State) : List Turn :=
  s.trees.flatMap (fun x => (s.dueSlots x).map (fun k => Turn.event (.nodeSlotFree x.id k)) ++
    (if s.treeDue x then [Turn.event (.treeIdFree x.id)] else [])) ++
  (s.pool.filter s.pageLapsed).map (fun p => Turn.event (.poolPageLapse p.page)) ++
  (List.range s.cancels.length).flatMap (fun i =>
    match s.cancels[i]? with
    | some c => ((List.range 8).filter (fun d => !c.arrived.getLsbD d && (s.die d).lost.isNone)).map (fun d => Turn.event (.cancelArrival d i))
    | none => []) ++
  (if s.autos.isEmpty then [] else [Turn.event (.autoEnqueue 0)]) ++ (if s.gives.isEmpty then [] else [Turn.event (.taskGiveBack 0)])

/-- Turns of the homes and the cores' caches of translations. -/
noncomputable def State.homeTurns (s : State) : List Turn :=
  (List.range s.owners.length).map (fun i => Turn.event (.spanRelease i)) ++
  (idxsOf s.leases (fun l => Nat.ble (max l.e l.wl) (s.nowDie (homeDie l.span.base)))).map (fun i => Turn.event (.leaseRecordFree i)) ++
  (List.range s.cores.length).flatMap (fun c =>
    (idxsOf (s.core c).xlat (fun x => Nat.ble (x.time + 16000000) (s.nowCore c))).map (fun i => Turn.event (.translationExpiry c i)))

/-- Turns of the host port and of the key slots. -/
noncomputable def State.hostTurns (s : State) : List Turn :=
  (s.hlines.filter (fun l => l.snooped)).map (fun l => Turn.event (.hostSnoopAnswer l.line)) ++
  (s.hreqs.filter (fun q => Nat.ble (q.since + 16000000) (s.nowDie 0))).map (fun q => Turn.event (.cxlCacheTimeout q.line)) ++
  (List.range s.hwrites.length).map (fun i => Turn.event (.hostWriteCompletion i)) ++
  (if s.dev.closing.isSome then [Turn.event .keyDisableComplete] else []) ++
  (if s.dev.ready.isSome then [Turn.event .startComplete] else []) ++
  (if s.dev.st == 1 then [Turn.event .ps1Entry, Turn.event .ps2Entry] else [])

/-- An exchange of SYNC that a die has open, answered at once by its upstream die's time. -/
noncomputable def State.syncTurn (s : State) (d : Nat) : List Turn :=
  match (s.die d).sync, s.upstream d with
  | some t, some u => [Turn.event (.syncReceive d t.1 (s.nowDie u) (s.nowDie u) (s.nowDie d))]
  | _, _ => []

/-- Turns of one die: Meridian, the crossing, its collective engine and its command core. -/
noncomputable def State.dieTurns (s : State) (d : Nat) : List Turn :=
  let x := s.die d
  [Turn.event (.timeTargetReached d), Turn.event (.heartbeatSend d), Turn.event (.syncSend d), Turn.event (.servoHoldover d),
    Turn.event (.dieUnsync d false), Turn.event (.dieResync d), Turn.event (.fabricSyncSend d), Turn.event (.stealIdleRequest d)] ++
  ((List.range 8).filter (fun e => d != e && (s.hops e d).isSome)).map (fun e => Turn.event (.heartbeatReceive d e)) ++
  ((List.range 4).filter (fun k => s.linkOn (4 * d + k))).map (fun k => Turn.event (.heartbeatTimeout (4 * d + k))) ++
  s.syncTurn d ++
  ((List.range 4).filter (fun k => Nat.ble 16 (x.resends.getD k 0))).map (fun k => Turn.event (.linkDown (4 * d + k))) ++
  ((List.range 4).filter (fun k => Nat.ble 16 (x.ports.getD k {}).resends)).map (fun k => Turn.event (.fabricPortDown d k)) ++
  (if x.unseen.isSome then [Turn.event (.partitionDeclare d)] else []) ++ (if x.noPath.isSome then [Turn.event (.diePartitioned d)] else []) ++
  (if x.mail.isEmpty then [] else [Turn.event (.stealRequestReceive d)]) ++
  (idxsOf x.colls (fun c => c.isSome)).flatMap (fun k =>
    [Turn.event (.collRankComplete d k), Turn.event (.collTimeout d k)] ++
    match s.coll d k with
    | some c => (if c.ranks.all (s.ownEnd d) && !s.fabric.isEmpty then [Turn.event (.collAbort d { slot := k, code := 0x1C7 })] else []) ++
        ((List.range c.ranks.length).filter (fun r => s.ownEnd d (c.ranks.getD r (0, 0)))).map (fun r => Turn.event (.collPeerPacket d k r { kind := 0, count := 0, type := 0, nrank := 0, data := [] }))
    | none => [])

/-- The values of bound registers on their way to a core's copies (R378). -/
def State.boundTurns (s : State) : List Turn :=
  (idxsOf s.cores (fun x => !x.bndWay.isEmpty)).flatMap (fun c => ((s.core c).bndWay.map (fun w => w.k)).eraseDups.map (Turn.boundCopy c))

/-- Every turn that the device itself could take next. A turn whose condition does not hold changes nothing (log entry 5). -/
noncomputable def State.turns (s : State) : List Turn :=
  if s.dev.ps == 2 then []
  else
    s.reqs.filterMap (Req.turn s) ++ (idxsOf s.splits (fun x => x.live)).flatMap s.splitTurns ++ s.fillTurns ++
    (idxsOf s.wgs (fun w => w.phase != .free && (w.phase != .saved || !w.revoke.isEmpty))).flatMap s.wgTurns ++
    (List.range s.queues.length).flatMap s.queueTurns ++ (idxsOf s.launches (fun l => l.live)).flatMap s.launchTurns ++
    s.boundTurns ++ s.lineageTurns ++ s.homeTurns ++ s.hostTurns ++ (if s.dev.st == 0 then [] else (List.range 8).flatMap s.dieTurns) ++
    (if s.ptm.enabled then [Turn.event .ptmLost] else [])

/-- The turn of a step: the next of the agenda, else one of those that are possible, in rotation (log entry 5). -/
noncomputable def State.nextTurn (s : State) : Option Turn :=
  match s.agenda with
  | t :: _ => some t
  | [] =>
    let l := s.turns
    l[s.steps % (max 1 l.length)]?

end Sys2Proof.Machine
end

