-- ==== Sys2Proof/Machine/Step.lean ====
section
/-! DEFINITION. One step of the device: time passes, and one issue slot or one engine acts. -/

namespace Sys2Proof.Machine

/-- One step: time passes, then the party or engine whose turn it is acts. -/
noncomputable def step (s : State) : Host.Outcome State Fault Refusal :=
  match s.nextTurn with
  | some turn => takeTurn turn { s.tick with agenda := s.agenda.drop 1 }
  | none => .next s.tick

/-- The state in which the instruction of a table row is the next to issue (log entry 2). -/
noncomputable def State.withFetchWord (s : State) (nbits w : Nat) : State := placeWord nbits w s

end Sys2Proof.Machine
end

