-- ==== Sys2Proof/Safety.lean ====
section
/-! DEFINITION. What counts as a safe state and a safe step, and the terms that claims use: how a word completes (R28), and what the words
of one shape compute in a lane or a scalar. -/

namespace Sys2Proof.Machine

/-! ## Steps and states -/

/-- A step that goes on: neither a fault nor a refusal. -/
def Proceeds (o : Host.Outcome State Fault Refusal) : Prop := ∃ t, o = .next t

/-- The memory of the device and the scratchpad of every workgroup are in canonical form. -/
def MemoryCanonical (s : State) : Prop := Memory.wf s.mem = true ∧ ∀ w ∈ s.wgs, Memory.wf w.scratch = true

/-! ## How a word of the warp stream completes (R28) -/

/-- The split that issues. -/
def State.me (s : State) : Split := s.split s.who.split

/-- The workgroup of the split that issues. -/
def State.mine (s : State) : Nat := s.wgIdxOf s.who.split

/-- The lanes in which the word executes. -/
def State.lanes (s : State) : Mask := s.execMask s.who.split

/-- The word completes: over state t the results `held` join its group, which closes where the word says so or R28 does. -/
def Holds (k : Instr) (s : State) (closes : Bool) (t : State) (held : List Held) : Prop :=
  exec k s = .next (stopSweep s.mine (finishWord s.who.split closes held t))

/-- The state after a word that closes its group, before what the word then does. -/
def State.closed (s : State) : State := finishWord s.who.split true [] s

/-- The word, which closes its group, completes in state u. -/
def Acts (k : Instr) (s u : State) : Prop := exec k s = .next (stopSweep s.mine u)

/-- The split that issues is there, its group has no result outstanding and no cause waiting, and nothing asks its workgroup to stop. -/
def Open (s : State) : Prop :=
  s.who.split < s.splits.length ∧ s.me.awaiting = false ∧ s.me.pend = none ∧ (s.wg s.mine).preq = none ∧ (s.wg s.mine).creq = none

/-- The vector registers that a word names are allocated, and none waits for its fill (R27, R132). -/
def RegsReady (s : State) (rs : List Nat) : Prop :=
  ∀ r ∈ rs, r < (s.wgOf s.who.split).alloc ∧ (s.warpOf s.who.split).absent.getLsbD (r / 8) = false

/-- No lane fault is to come for a checked word, or MR.LR asks for no check (R134). -/
def LanesAgree (s : State) : Prop := mrLR s.me.mr = false ∨ (s.core (s.coreOf s.who.split)).upset = []

/-- Lane l is idle, and recomputes the result of lane p: the first executing lane among l ⊕ 1, l ⊕ 2 and l ⊕ 3 (R134). -/
def State.recomputes (s : State) (l p : Nat) : Prop :=
  let on (k : Nat) : Prop := s.lanes.getLsbD k = true
  l < s.widthOf s.who.split ∧ ¬on l ∧ on p ∧
    (p = l ^^^ 1 ∨ (p = l ^^^ 2 ∧ ¬on (l ^^^ 1)) ∨ (p = l ^^^ 3 ∧ ¬on (l ^^^ 1) ∧ ¬on (l ^^^ 2)))

/-- The core has used up the first of the lane faults that are to come. -/
def State.upsetPast (s : State) : State := s.modCore (s.coreOf s.who.split) (fun c => { c with upset := c.upset.tail })

/-- The members that a word names are not poisoned and pass the checks of R109 and R161. -/
def MembersOk (s : State) (m : Bool) : Prop :=
  s.memberPoison s.who.split m = false ∧ s.memberCheck s.who.split (s.memberMask s.who.split m) = none

/-- The lanes that contribute to a cross-lane word (R161). -/
def State.givers (s : State) (m : Bool) : Mask := s.contributors s.who.split (s.memberMask s.who.split m)

/-! ## What splits that meet or part leave (R99, R102 to R104) -/

/-- Of the splits that merge, the one whose context or split-table entry stays: the primary one, else that of the lowest index (R99). -/
def State.keepsEntry (s : State) (parts : List Nat) (k : Nat) : Prop :=
  k ∈ parts ∧ ∀ j ∈ parts, j ≠ k → (s.split j).primary = false ∧ ((s.split k).primary = true ∨ (s.split k).tix < (s.split j).tix)

/-- Of the splits that merge, the one that holds the lowest active lane (R99). -/
def State.leadsMerge (s : State) (n : Nat) (parts : List Nat) (a : Nat) : Prop :=
  a ∈ parts ∧ ∃ l, ((s.split a).act n).getLsbD l = true ∧ ∀ j ∈ parts, j ≠ a → ∀ m, m ≤ l → ((s.split j).act n).getLsbD m = false

/-- What a merge of splits of warp w leaves (R99), made by a time-out or not (R100). -/
def MergeLeaves (w : Nat) (parts : List Nat) (timedOut : Bool) (s t : State) : Prop :=
  let n := (s.warp w).width
  ∀ k a, s.keepsEntry parts k → s.leadsMerge n parts a → (s.split a).s.length = 32 →
    let x := t.split k
    (∀ j ∈ parts, j ≠ k → (t.split j).live = false) ∧ x.live = true ∧ x.phase = .ready ∧ x.held = [] ∧
    x.pc = (s.split k).pc ∧ x.gang = (s.split k).gang.drop 1 ∧ x.div = (s.split k).div ∧ x.spill = (s.split k).spill ∧ x.timedOut = timedOut ∧
    x.mr = (s.split a).mr ∧ (∀ r, r < 28 → x.sreg r = (s.split a).sreg r) ∧
    (∀ q, x.quads.getLsbD q = parts.any (fun j => (s.split j).quads.getLsbD q)) ∧
    (∀ l, l < n → (x.act n).getLsbD l =
      ((quadLanes x.quads).getLsbD l && !(s.warp w).exited.getLsbD l && !(s.split k).deferred.getLsbD l)) ∧
    (∀ j ∈ parts, (s.split j).ctl ≤ x.ctl ∧ (s.split j).ctg ≤ x.ctg) ∧
    t.warps = s.warps ∧ t.mem = s.mem ∧ ∀ j, j ∉ parts → t.split j = s.split j

/-- What a SPLIT of the warp of split i to width w leaves (R102): a warp for each part that has a lane left, with the registers, predicates and
activity of the part's lanes, and a split with the scalars, MR and times of the one that divided. -/
def SplitLeaves (i w : Nat) (s t : State) : Prop :=
  let u := s.warpOf i
  let x := s.split i
  t.mem = s.mem ∧ t.wgs = s.wgs ∧
  ∀ j, (j + 1) * w ≤ u.width → (∃ l, l < w ∧ u.exited.getLsbD (j * w + l) = false) →
    ∃ k m, (t.split m).live = true ∧ (t.split m).warp = k ∧
      (t.warp k).live = true ∧ (t.warp k).wg = u.wg ∧ (t.warp k).width = w ∧ (t.warp k).base = u.base + j * w ∧
      (j = 0 → u.q0 < 8 → (t.warp k).id = u.id) ∧
      (∀ r l, l < w → ((t.warp k).reg r).lane l = (u.reg r).lane (j * w + l)) ∧
      (∀ q l, l < w → ((t.warp k).p.getD q 0).getLsbD l = (u.p.getD q 0).getLsbD (j * w + l)) ∧
      (∀ l, l < w → (t.warp k).exited.getLsbD l = u.exited.getLsbD (j * w + l)) ∧
      (∀ l, l < w → ((t.split m).act w).getLsbD l = (x.act u.width).getLsbD (j * w + l)) ∧
      (∀ r, r < 28 → (t.split m).sreg r = x.sreg r) ∧
      (t.split m).pc = x.pc ∧ (t.split m).mr = x.mr ∧ (t.split m).ctl = x.ctl ∧ (t.split m).ctg = x.ctg

/-- What a FUSE of the warps `ws`, in lane order and with the splits `parts`, leaves (R104): their registers, predicates and lanes one warp's after
another's in the lowest, and one split. -/
def FuseLeaves (width : Nat) (ws parts : List Nat) (s t : State) : Prop :=
  let lo := ws.headD 0
  let k := parts.headD 0
  let n := (s.warp lo).width
  (t.warp lo).width = width ∧ (t.warp lo).base = (s.warp lo).base ∧ (t.warp lo).part = (s.warp lo).part ∧
  (∀ w ∈ ws, w ≠ lo → (t.warp w).live = false) ∧ (∀ i ∈ parts, i ≠ k → (t.split i).live = false) ∧
  (∀ j l, j < ws.length → l < n →
    (∀ r, r < 64 → ((t.warp lo).reg r).lane (j * n + l) = ((s.warp (ws.getD j 0)).reg r).lane l) ∧
    (∀ p, p < 6 → ((t.warp lo).p.getD p 0).getLsbD (j * n + l) = ((s.warp (ws.getD j 0)).p.getD p 0).getLsbD l) ∧
    (t.warp lo).exited.getLsbD (j * n + l) = (s.warp (ws.getD j 0)).exited.getLsbD l ∧
    ((t.split k).act width).getLsbD (j * n + l) = ((s.split (parts.getD j 0)).act n).getLsbD l) ∧
  (t.split k).live = (s.split k).live ∧ (t.split k).phase = .ready ∧ (t.split k).pc = (s.split k).pc ∧ (t.split k).mr = (s.split k).mr ∧
  (∀ i ∈ parts, (s.split i).ctl ≤ (t.split k).ctl ∧ (s.split i).ctg ≤ (t.split k).ctg) ∧
  (∀ code d, (s.split k).phase = .parked (.fuse code d) →
    (t.split k).sreg d = .val 0 ∧ ∀ r, r < 28 → r ≠ d → (t.split k).sreg r = (s.split k).sreg r) ∧
  t.mem = s.mem

/-- The warps and splits of a FUSE can meet (R104): warps of one width, their masks within it, each with one split, which is parked at
the word. -/
def State.fusible (s : State) (width : Nat) (ws parts : List Nat) : Prop :=
  let n := (s.warp (ws.headD 0)).width
  ws ≠ [] ∧ ws.Nodup ∧ ws.length * n = width ∧ width ≤ 128 ∧ parts.length = ws.length ∧
  (∀ j, j < ws.length → s.splitsOf (ws.getD j 0) = [parts.getD j 0]) ∧
  ∀ w ∈ ws, w < s.warps.length ∧ (s.warp w).width = n ∧ (∀ l, n ≤ l → (s.warp w).exited.getLsbD l = false ∧
      ∀ p, ((s.warp w).p.getD p 0).getLsbD l = false) ∧
    (∀ r vs, (s.warp w).reg r = .general vs → vs.length = n) ∧
    ∀ i ∈ s.splitsOf w, (s.split i).s.length = 32 ∧ ∃ code d, d < 28 ∧ (s.split i).phase = .parked (.fuse code d)

/-- What a code of FUSE leaves at each split that waits there (R103): its scalar, and it runs on. -/
def FuseGives (parked : List Nat) (v : Nat) (s t : State) : Prop :=
  ∀ i ∈ parked, ∀ code d, (s.split i).phase = .parked (.fuse code d) → d < 28 → (s.split i).s.length = 32 →
    (t.split i).phase = .ready ∧ (t.split i).pc = (s.split i).pc ∧ (t.split i).mr = (s.split i).mr ∧
    (t.split i).sreg d = .val (BitVec.ofNat 32 v) ∧ (∀ r, r < 32 → r ≠ d → (t.split i).sreg r = (s.split i).sreg r) ∧
    t.warps = s.warps ∧ t.mem = s.mem

/-- The tests of R103 on the splits that wait, in its order. -/
def FuseCodes (g width : Nat) (ws parked : List Nat) (s : State) : Prop :=
  let differ {α : Type} (f : Split → α) : Prop := ∃ a ∈ parked, ∃ b ∈ parked, f (s.split a) ≠ f (s.split b)
  let unfit : Prop := ∃ w ∈ ws, (s.splitsOf w).length ≠ 1 ∨ (s.warp w).barArr ≠ 0 ∨
    ∃ i ∈ s.splitsOf w, (s.split i).div ≠ [] ∨ (s.split i).spill ≠ []
  (differ Split.pc → s.fuseCode g width ws parked = 3) ∧
  (¬differ Split.pc → unfit → s.fuseCode g width ws parked = 6) ∧
  (¬differ Split.pc → ¬unfit → differ Split.mr → s.fuseCode g width ws parked = 4) ∧
  (¬differ Split.pc → ¬unfit → ¬differ Split.mr →
    (∀ r, r < 28 ∨ (width ≤ 32 ∧ 29 ≤ r) ∨ (width = 64 ∧ 30 ≤ r) → differ (fun x => x.sreg r) → s.fuseCode g width ws parked = 5) ∧
    (width < 64 → ¬differ Split.s → ¬differ Split.sp → s.fuseCode g width ws parked = 0))

/-! ## What a barrier leaves (R114, R118) -/

/-- An integer payload operation of R118. -/
def foldOp (op : Nat) (a b : Word) : Word :=
  match op with
  | 0 => a + b
  | 1 => if a.toNat < b.toNat then a else b
  | 2 => if a.toNat < b.toNat then b else a
  | 3 => if a.toInt < b.toInt then a else b
  | 4 => if a.toInt < b.toInt then b else a
  | 5 => a &&& b
  | _ => a ||| b

/-- What the completion of the open phase of barrier b of workgroup g leaves (R114): the parity turned, no arrivals, the next count, the result; and
every split that waits for the phase runs on, with the result where it asked for it. -/
def PhaseCompletes (g b : Nat) (s t : State) : Prop :=
  let x := (s.wg g).bar b
  let y := (t.wg g).bar b
  y.par = !x.par ∧ y.arr = 0 ∧ y.result = x.outcome ∧
  y.exp = (match x.pend with
    | some 0 => s.warpCount g
    | some n => n
    | none => if x.trk then s.warpCount g else x.exp) ∧
  ∀ i ∈ s.wgSplits g, ∀ fold, (s.split i).phase = .parked (.barrier b x.par fold) →
    (t.split i).phase = .ready ∧ (t.split i).pc = (s.split i).pc ∧
    ∀ d, fold = some d → d < 28 → (s.split i).s.length = 32 → (t.split i).sreg d = x.outcome

/-! ## What the operations on a tree leave (R333 to R341) -/

/-- What the removal of the slots `ks` of tree x leaves (R338, R345): those of `roots` are pruned and the others cancelled, until T_done; the other slots keep all
but their counts of children; the tags are on their way to the dies. -/
def Removes (x y : Tree) (ks roots : List Nat) (done : Nat) (s t : State) : Prop :=
  done = s.nowDie (x.id % 8) + 56000 + 160 * ks.length + s.epsPkg (x.id % 8) ∧ t.tree x.id = some y ∧
  (∀ k ∈ ks, (y.node k).st = (if roots.contains k then .pruned else .cancelled) ∧ (y.node k).tend = done) ∧
  (∀ k, k ∉ ks → { y.node k with nchild := (x.node k).nchild } = x.node k) ∧
  (∃ c ∈ t.cancels, c.tree = x.id ∧ c.nodes = ks.map (fun k => (k, (x.node k).ngen)) ∧ c.sent = s.nowDie (x.id % 8) + 160 * ks.length ∧
    done ≤ c.done) ∧
  y.front = x.front ∧ y.plen = x.plen ∧ t.mem = s.mem

/-- What a TREE.CLONE of x onto die d leaves (R333): a new tree with its configuration and its prefix, which shares every page, and no node. -/
def CloneLeaves (x : Tree) (d dom : Nat) (s : State) : Prop :=
  ∀ (t : Nat) (y : Tree), s.freeTree d = some t →
    y = { id := t, nstrm := x.nstrm, slog := x.slog, flog := x.flog, plen := x.plen, dom := dom, pages := x.pages } →
    (∀ n ∈ x.pages.flatMap id, s.pageCount n < 65535) → y.blocks ≤ s.blocksFree d →
    (treeClone x d dom s).2 = t * 2 ^ 16 ∧
    let u := (treeClone x d dom s).1
    u.trees = s.trees ++ [y] ∧ u.mem = s.mem ∧
    ∀ n, (∃ p ∈ s.pool, p.page = n) → u.pageCount n = s.pageCount n + (x.pages.flatMap id).count n

/-- What a TREE.REL of x leaves (R334): every live node is gone, the tree is releasing with no page and keeps its id until its time, and
each page has lost the references of its lists. -/
def RelLeaves (x : Tree) (s : State) : Prop :=
  let live := x.liveSlots
  let u := (treeRel x s).1
  ∃ y done, Removes x y live (live.filter (fun k => (x.node k).pfx)) done s u ∧
    (treeRel x s).2 = done + 16 * x.prefixPages ∧ y.live = false ∧ y.freeAt = done + 16 * x.prefixPages ∧
    y.tlast = max (max x.tlast done) (done + 16 * x.prefixPages) ∧ y.pages = List.replicate x.nstrm [] ∧
    (∃ c ∈ u.cancels, c.tree = x.id ∧ c.whole = true ∧ done + 16 * x.prefixPages ≤ c.done) ∧
    ∀ n, u.pageCount n = s.pageCount n - (x.pages.flatMap id).count n

/-- What a NODE.PRUNE of a handle gives (R338). -/
def PruneLeaves (x : Tree) (h : Nat) (s : State) : Prop :=
  let r := nodePrune x h s
  let now := s.nowDie (x.id % 8) + s.epsPkg (x.id % 8)
  let n := x.node (slotOf h)
  (genOfHandle h = 0 → ∃ y done, r.2 = .inl done ∧ Removes x y x.liveSlots (x.liveSlots.filter (fun k => (x.node k).pfx)) done s r.1) ∧
  (genOfHandle h ≠ 0 →
    (n.ngen ≠ genOfHandle h ∨ n.st = .free → r = (s, .inl now)) ∧
    (n.ngen = genOfHandle h →
      (n.st = .committed → r = (s, .inr 0x143)) ∧
      (n.st = .pruned ∨ n.st = .cancelled → r = (s, .inl n.tend)) ∧
      (n.st = .live → ∃ y done, r.2 = .inl done ∧ Removes x y (slotOf h :: x.below (slotOf h)) [slotOf h] done s r.1)))

/-- What the pages that n positions more need do to a tree whose lists share no partial page (R341): each stream's list grows at its end, in the
number of pages that the longer prefix needs. -/
def Grows (x y : Tree) (n : Nat) : Prop :=
  y = { x with pages := y.pages } ∧ y.pages.length = x.pages.length ∧
  ∀ st, st < x.pages.length → ∃ l : List Nat, y.pages.getD st [] = x.pages.getD st [] ++ l ∧
    l.length = (x.plen + n + x.perPage - 1) / x.perPage - (x.plen + x.perPage - 1) / x.perPage

/-- What a NODE.COMMIT of node k leaves where it is the only branch, or the others are pruned (R339): the data of the path copied to the end of the prefix,
which is longer by the depth of k; the path committed until the copies' C; what is below k on the prefix now. -/
def CommitLeaves (x : Tree) (h k : Nat) (prune : Bool) (s : State) : Prop :=
  let d := (x.node k).depth
  let others := x.liveSlots.filter (fun j => !(x.node k).anc.getLsbD j && !(x.below k).contains j)
  (others ≠ [] → prune = false → nodeCommit x h prune [] s = .trap 0x144) ∧
  (others = [] ∨ prune = true → ∀ (t : State) (y : Tree), x.plen + d < 2 ^ 24 → growTree x d [] s = .inl (t, y, []) →
    let blocks := s.commitBlocks x y (x.path k)
    s.copyBusy (x.id % 8) blocks = false →
    ∃ u v, nodeCommit x h prune [] s = .ok u v (engineCopies x.id blocks t).2 ∧
      u.mem = (engineCopies x.id blocks t).1.mem ∧ (others = [] → v = (engineCopies x.id blocks t).2) ∧
      (others ≠ [] → v = s.nowDie (x.id % 8) + 56000 + 160 * others.length + s.epsPkg (x.id % 8)) ∧
      ∃ z, u.tree x.id = some z ∧ z.plen = x.plen + d ∧ z.pages = y.pages ∧
        (∀ j ∈ x.path k, j < x.nodes.length → (z.node j).st = .committed ∧ (z.node j).tend = (engineCopies x.id blocks t).2) ∧
        (∀ j ∈ x.below k, j ∉ x.path k → (z.node j).st = .live ∧ (z.node j).depth = (x.node j).depth - d ∧
          (∀ b, b < 256 → (z.node j).anc.getLsbD b = ((x.node j).anc.getLsbD b && !(x.path k).contains b)) ∧
          ((x.node j).pfx = false → (x.node j).parent = k → (z.node j).pfx = true)) ∧
        (∀ j ∈ others, (z.node j).st = .pruned ∨ (z.node j).st = .cancelled))

/-- What a KV.APPEND of n positions to a tree without nodes leaves (R341), where the last page is not shared: the prefix longer by n; the old length is the answer. -/
def AppendLeaves (x : Tree) (n : Nat) (s : State) : Prop :=
  ∀ (t : State) (y : Tree), x.liveSlots = [] → x.plen + n < 2 ^ 24 → growTree x n [] s = .inl (t, y, []) →
    kvAppend x n [] s = .ok (t.setTree { y with plen := x.plen + n }) x.plen 0

/-- What the words on one node give (R337, R340) of a tree that is live to its domain. -/
def NodeAnswers (tr dom h v : Nat) (x : Tree) (s : State) : Prop :=
  let k := slotOf h
  let n := x.node k
  let bad (r : Nat) : Nat := 2 ^ 63 + r
  let va (page i : Nat) : Nat := (s.die (tr % 8)).lva + 65536 * page + x.slotSize * (i % x.perPage)
  let st := v / 2 ^ 24 % 2 ^ 8
  let pos := v % 2 ^ 24
  (genOfHandle h ≠ 0 → n.ngen = genOfHandle h →
    nodeRd tr dom h 0 s = n.token ∧ nodeRd tr dom h 1 s = n.pos ∧ nodeRd tr dom h 3 s = n.nchild * 2 ^ 16 + n.depth ∧
    nodeRd tr dom h 4 s = n.payload % 2 ^ 32 ∧ nodeRd tr dom h 5 s = n.payload / 2 ^ 32 ∧
    nodeRd tr dom h 6 s = n.tend % 2 ^ 32 ∧ nodeRd tr dom h 7 s = n.tend / 2 ^ 32) ∧
  (∀ w, genOfHandle h = 0 ∨ n.ngen ≠ genOfHandle h → nodeRd tr dom h w s = 0) ∧
  (x.liveNode h = some k → ∃ y, nodePay tr dom h v s = s.setTree y ∧ y.node k = { n with payload := v } ∧ (∀ j, j ≠ k → y.node j = x.node j) ∧
    y = { x with nodes := y.nodes }) ∧
  (x.liveNode h = none → nodePay tr dom h v s = s) ∧
  (genOfHandle h = 0 → (st < x.nstrm → pos < x.plen →
      kvSlot tr dom h v s = va ((x.pages.getD st []).getD (pos / x.perPage) 0) pos) ∧
    (x.nstrm ≤ st ∨ x.plen ≤ pos → kvSlot tr dom h v s = bad 10)) ∧
  (genOfHandle h ≠ 0 → (x.liveNode h = none → kvSlot tr dom h v s = bad 2) ∧
    (x.liveNode h = some k → (x.nstrm ≤ st → kvSlot tr dom h v s = bad 10) ∧
      (st < x.nstrm → ∀ l, x.front.find? (fun f => f.1 == k / x.perPage) = some l → kvSlot tr dom h v s = va (l.2.getD st 0) k)))

/-! ## What a lane computes (R147 to R158) -/

/-- A word that computes lane by lane: whether its S bit closes the group, its destination, the registers it names, its last uses, its
operands, the element types it accepts, and what MR and the operands of a lane give. -/
structure LaneWord where
  closes : Bool
  d : Nat
  regs : State → Nat → List Nat
  kills : List (Bool × BitVec 6)
  ops : State → Nat → List VReg
  accepts : ET → Bool
  f : Word → List Word → Word × Flags

/-- A word of two sources; `rd` says that vd is the third. -/
def lane3 (w : V3) (ok : ET → Bool) (rd : Bool) (f : Word → List Word → Word × Flags) : Option LaneWord :=
  some { closes := w.s, d := w.d.toNat, regs := fun s i => w.d.toNat :: w.a.toNat :: s.vbreg i w.b, kills := [(w.x, w.a), (w.y, w.b)]
         ops := fun s i => if rd then [s.vsrc i w.a, s.vbsrc i w.b, s.vsrc i w.d] else [s.vsrc i w.a, s.vbsrc i w.b]
         accepts := ok, f := f }

/-- A word of one source. -/
def lane2 (w : V2) (ok : ET → Bool) (f : Word → List Word → Word × Flags) : Option LaneWord :=
  some { closes := w.s, d := w.d.toNat, regs := fun _ _ => [w.d.toNat, w.a.toNat], kills := [(w.x, w.a)], ops := fun s i => [s.vsrc i w.a]
         accepts := ok, f := f }

/-- A word of one source and an immediate. -/
def laneImm (w : VI) (f : Word → Word → Word) : Option LaneWord :=
  some { closes := w.s, d := w.d.toNat, regs := fun _ _ => [w.d.toNat, w.a.toNat], kills := [], ops := fun s i => [s.vsrc i w.a]
         accepts := anyET, f := fun _ ops => (f (ops.getD 0 0) (w.i.signExtend 32), {}) }

/-- A conversion of R155. -/
def laneNarrow (w : NencF) (f : NarrowTy → Word → List Word → Word × Flags) : Option LaneWord :=
  some { closes := w.s, d := w.d.toNat, regs := fun s i => w.d.toNat :: w.a.toNat :: s.vbreg i w.b, kills := [(w.x, w.a), (w.y, w.b)]
         ops := fun s i => [s.vsrc i w.a, s.vbsrc i w.b], accepts := anyET, f := f (narrowTy w.t.toNat) }

/-- An element shifted (R148). -/
def shiftWord (f : ET → Nat → Nat → Nat) (mr : Word) (ops : List Word) : Word × Flags :=
  elems2 (mrET mr) (fun a b => (f (mrET mr) a b, {})) (ops.getD 0 0) (ops.getD 1 0)

/-- The bits of an element counted (R148). -/
def countWord (f : Nat → Nat → Nat) (mr : Word) (ops : List Word) : Word × Flags :=
  elems1 (mrET mr) (fun a => (f (mrET mr).bits a, {})) (ops.getD 0 0)

/-- What each per-lane word computes. -/
def laneWord : Instr → Option LaneWord
  | .add w => lane3 w ET.isInt false (intFn2 true (fun _ a b => a + b))
  | .sub w => lane3 w ET.isInt false (intFn2 true (fun _ a b => a - b))
  | .mul w => lane3 w ET.isInt false (intFn2 true (fun _ a b => a * b))
  | .mulhi w => lane3 w ET.isInt false (intFn2 false (fun n a b => a * b / ((2 ^ n : Nat) : Int)))
  | .min w => lane3 w ET.isInt false (intFn2 false (fun _ a b => if a < b then a else b))
  | .max w => lane3 w ET.isInt false (intFn2 false (fun _ a b => if a < b then b else a))
  | .absdiff w => lane3 w ET.isInt false (intFn2 false (fun _ a b => ((a - b).natAbs : Int)))
  | .mad w => lane3 w ET.isInt true intMad
  | .abs w => lane2 w ET.isInt (intFn1 true (fun a => (a.natAbs : Int)))
  | .neg w => lane2 w ET.isInt (intFn1 true (fun a => -a))
  | .and w => lane3 w anyET false (laneFn2 (fun a b => a &&& b))
  | .or w => lane3 w anyET false (laneFn2 (fun a b => a ||| b))
  | .xor w => lane3 w anyET false (laneFn2 (fun a b => a ^^^ b))
  | .andn w => lane3 w anyET false (laneFn2 (fun a b => a &&& ~~~b))
  | .not w => lane2 w anyET (laneFn1 (fun a => ~~~a))
  | .shl w => lane3 w ET.isInt false (shiftWord (fun t a b => shlElem t.bits a b))
  | .shr w => lane3 w ET.isInt false (shiftWord (fun t a b => shrElem t.signed t.bits a b))
  | .popc w => lane2 w ET.isInt (countWord popcount)
  | .clz w => lane2 w ET.isInt (countWord clzElem)
  | .bitrev w => lane2 w anyET (laneFn1 bitrevWord)
  | .fext w => lane3 w anyET false fextFn
  | .fins w => lane3 w anyET true finsFn
  | .fclass w => lane2 w floatET fclassFn
  | .fadd w => lane3 w floatET false (floatFn2 (fun t v a b => t.add v a b))
  | .fsub w => lane3 w floatET false (floatFn2 (fun t v a b => t.add v a b.opp))
  | .fmul w => lane3 w floatET false (floatFn2 (fun t v a b => t.mul v a b))
  | .fdiv w => lane3 w floatET false (floatFn2 (fun t v a b => t.div v a b))
  | .fmin w => lane3 w floatET false (floatFn2 (fun t _ a b => t.minmax false a b))
  | .fmax w => lane3 w floatET false (floatFn2 (fun t _ a b => t.minmax true a b))
  | .fabs w => lane2 w floatET (floatFn1 (fun t _ a => t.setSign (fun _ => false) a))
  | .fneg w => lane2 w floatET (floatFn1 (fun t _ a => t.setSign (fun b => !b) a))
  | .ffma w => lane3 w floatET true (fmaFn false false)
  | .ffms w => lane3 w floatET true (fmaFn false true)
  | .ffnma w => lane3 w floatET true (fmaFn true false)
  | .ffnms w => lane3 w floatET true (fmaFn true true)
  | .rcp w => lane2 w floatET (floatFn1 (fun t v a => t.special v .rcp a))
  | .rsq w => lane2 w floatET (floatFn1 (fun t v a => t.special v .rsq a))
  | .sqrt w => lane2 w floatET (floatFn1 (fun t v a => t.special v .sqrt a))
  | .ex2 w => lane2 w floatET (floatFn1 (fun t v a => t.special v .ex2 a))
  | .lg2 w => lane2 w floatET (floatFn1 (fun t v a => t.special v .lg2 a))
  | .sin w => lane2 w floatET (floatFn1 (fun t v a => t.special v .sin a))
  | .cos w => lane2 w floatET (floatFn1 (fun t v a => t.special v .cos a))
  | .tanh w => lane2 w floatET (floatFn1 (fun t v a => t.special v .tanh a))
  | .cvt w =>
    some { closes := w.s, d := w.d.toNat, regs := fun _ _ => [w.d.toNat, w.a.toNat], kills := [(w.x, w.a)]
           ops := fun s i => if (cvtTy w.e.toNat).bits == 16 then [s.vsrc i w.a, s.vsrc i w.d] else [s.vsrc i w.a]
           accepts := anyET, f := cvtFn w }
  | .nenc w => laneNarrow w nencFn
  | .ndec w => laneNarrow w ndecFn
  | .mov w => lane2 w anyET (laneFn1 (fun a => a))
  | .movs w =>
    some { closes := w.s, d := w.d.toNat, regs := fun _ _ => [w.d.toNat], kills := [], ops := fun s i => [.uniform (s.ssrc i w.a)]
           accepts := anyET, f := fun _ ops => (ops.getD 0 0, {}) }
  | .addi w => laneImm w (fun a k => a + k)
  | .andi w => laneImm w (fun a k => a &&& k)
  | .ori w => laneImm w (fun a k => a ||| k)
  | .xori w => laneImm w (fun a k => a ^^^ k)
  | .movi w =>
    some { closes := w.s, d := w.d.toNat, regs := fun _ _ => [w.d.toNat], kills := [], ops := fun _ _ => [], accepts := anyET
           f := fun _ _ => (w.i.signExtend 32, {}) }
  | _ => none

/-- What each scalar word of major 0x19 computes (R159). -/
def scalarWord : Instr → Option (Sc3 × (Word → Word → Word))
  | .sadd w => some (w, fun a b => a + b)
  | .ssub w => some (w, fun a b => a - b)
  | .smul w => some (w, fun a b => a * b)
  | .smulhu w => some (w, fun a b => BitVec.ofNat 32 (a.toNat * b.toNat / 2 ^ 32))
  | .smulhs w => some (w, fun a b => BitVec.ofInt 32 (a.toInt * b.toInt / ((2 ^ 32 : Nat) : Int)))
  | .sand w => some (w, fun a b => a &&& b)
  | .sor w => some (w, fun a b => a ||| b)
  | .sxor w => some (w, fun a b => a ^^^ b)
  | .sshl w => some (w, fun a b => a <<< b.toNat)
  | .sshr w => some (w, fun a b => a >>> b.toNat)
  | .ssra w => some (w, fun a b => a.sshiftRight b.toNat)
  | .sminu w => some (w, fun a b => if a.toNat < b.toNat then a else b)
  | .smaxu w => some (w, fun a b => if a.toNat < b.toNat then b else a)
  | .smins w => some (w, fun a b => if a.toInt < b.toInt then a else b)
  | .smaxs w => some (w, fun a b => if a.toInt < b.toInt then b else a)
  | .sseq w => some (w, fun a b => if a = b then 1 else 0)
  | .ssltu w => some (w, fun a b => if a.toNat < b.toNat then 1 else 0)
  | .sslts w => some (w, fun a b => if a.toInt < b.toInt then 1 else 0)
  | _ => none

/-- The exchanges (R162): the word's operands as those of `V3M`, the vb field naming no register for a fixed partner, and the lane that a
lane reads from, of the width, the lane and its vb. -/
structure Exchange where
  closes : Bool
  d : Nat
  m : Bool
  regs : State → Nat → List Nat
  kills : List (Bool × BitVec 6)
  a : BitVec 6
  from_ : State → Nat → Nat → Option Nat

/-- An exchange with a fixed partner. -/
def exchangeFixed (w : V2M) (k : Nat) : Option Exchange :=
  some { closes := w.s, d := w.d.toNat, m := w.m, regs := fun _ _ => [w.d.toNat, w.a.toNat], kills := [(w.x, w.a)], a := w.a
         from_ := fun _ _ l => some (Nat.xor l k) }

/-- An exchange whose partner vb names. -/
def exchangeBy (w : V3M) (f : Nat → Nat → Nat → Nat) : Option Exchange :=
  some { closes := w.s, d := w.d.toNat, m := w.m, regs := fun s i => w.d.toNat :: w.a.toNat :: s.vbreg i w.b
         kills := [(w.x, w.a), (w.y, w.b)], a := w.a
         from_ := fun s i l => match (s.vbsrc i w.b).lane l with
           | .val x => some (f (s.widthOf i) l x.toNat)
           | .poison => none }

/-- The lane that each exchange reads from (R162). -/
def exchangeWord : Instr → Option Exchange
  | .qxchX1 w => exchangeFixed w 1
  | .qxchX2 w => exchangeFixed w 2
  | .qxchX3 w => exchangeFixed w 3
  | .qxch w => exchangeBy w (fun _ l b => l / 4 * 4 + b % 4)
  | .shflFrom w => exchangeBy w (fun n _ b => b % n)
  | .shflBack w => exchangeBy w (fun n l b => (l + (n - b % n)) % n)
  | .shflAhead w => exchangeBy w (fun n l b => (l + b) % n)
  | .shflFlip w => exchangeBy w (fun n l b => Nat.xor l (b % n))
  | _ => none

/-! ## Memory words (R166 to R185) -/

/-- A load or store of a space: whether its S bit closes the group, its bytes a lane, its data registers, its address fields, its policy. -/
structure MemWord where
  closes : Bool
  n : Nat
  reg : Nat
  a : BitVec 6
  b : BitVec 5
  policy : Nat := 0

/-- A global load with the conversion of its bytes (R170). -/
def loadWord : Instr → Option (MemWord × LoadConv)
  | .ld w => some ({ closes := w.s, n := 2 ^ w.w.toNat, reg := w.d.toNat, a := w.a, b := w.b, policy := w.p.toNat }, .zero)
  | .ldS w => some ({ closes := w.s, n := 2 ^ w.w.toNat, reg := w.d.toNat, a := w.a, b := w.b, policy := w.p.toNat }, .sign)
  | .ldF16 w => some ({ closes := w.s, n := 2, reg := w.d.toNat, a := w.a, b := w.b, policy := w.p.toNat }, .f16)
  | .ldBf16 w => some ({ closes := w.s, n := 2, reg := w.d.toNat, a := w.a, b := w.b, policy := w.p.toNat }, .bf16)
  | .ldE4m3 w => some ({ closes := w.s, n := 1, reg := w.d.toNat, a := w.a, b := w.b, policy := w.p.toNat }, .e4m3)
  | .ldE5m2 w => some ({ closes := w.s, n := 1, reg := w.d.toNat, a := w.a, b := w.b, policy := w.p.toNat }, .e5m2)
  | _ => none

/-- A global store with the conversion of its register (R170). -/
def storeWord : Instr → Option (MemWord × StoreConv)
  | .st w => some ({ closes := w.s, n := 2 ^ w.w.toNat, reg := w.d.toNat, a := w.a, b := w.b, policy := w.p.toNat }, .plain)
  | .stF16 w => some ({ closes := w.s, n := 2, reg := w.d.toNat, a := w.a, b := w.b, policy := w.p.toNat }, .f16)
  | .stBf16 w => some ({ closes := w.s, n := 2, reg := w.d.toNat, a := w.a, b := w.b, policy := w.p.toNat }, .bf16)
  | .stE4m3 w => some ({ closes := w.s, n := 1, reg := w.d.toNat, a := w.a, b := w.b, policy := w.p.toNat }, .e4m3)
  | .stE5m2 w => some ({ closes := w.s, n := 1, reg := w.d.toNat, a := w.a, b := w.b, policy := w.p.toNat }, .e5m2)
  | _ => none

/-- A scratchpad load (R180). -/
def localLoad : Instr → Option (MemWord × LoadConv)
  | .lds w => some ({ closes := w.s, n := 2 ^ w.w.toNat, reg := w.d.toNat, a := w.a, b := w.b }, if w.k then .sign else .zero)
  | .ldsF16 w => some ({ closes := w.s, n := 2, reg := w.d.toNat, a := w.a, b := w.b }, .f16)
  | .ldsBf16 w => some ({ closes := w.s, n := 2, reg := w.d.toNat, a := w.a, b := w.b }, .bf16)
  | _ => none

/-- A scratchpad store (R180). -/
def localStore : Instr → Option (MemWord × StoreConv)
  | .sts w => some ({ closes := w.s, n := 2 ^ w.w.toNat, reg := w.d.toNat, a := w.a, b := w.b }, .plain)
  | .stsF16 w => some ({ closes := w.s, n := 2, reg := w.d.toNat, a := w.a, b := w.b }, .f16)
  | .stsBf16 w => some ({ closes := w.s, n := 2, reg := w.d.toNat, a := w.a, b := w.b }, .bf16)
  | _ => none

/-- The registers that a memory word names are ready. -/
def MemRegsReady (s : State) (o : MemWord) (global : Bool) (k : Nat) : Prop :=
  RegsReady s (groupRegs o.reg k ++ s.addrRegs s.who.split global o.a o.b)

/-- What a group holds for a lane of registers from `reg` on: each of the words, in the lane. -/
def HoldsLane (held : List Held) (reg l : Nat) (ws : List PWord) : Prop :=
  ∀ j, j < ws.length → ∃ (m : Mask) (v : VReg), Held.vset (reg + j) m v ∈ held ∧ m.getLsbD l = true ∧ v.lane l = ws.getD j .poison

/-- The engines of a die still work: no partition has quiesced it, or it is lost and answers with failures (R232). -/
def State.serves (s : State) (d : Nat) : Prop := (s.die d).quiesced = false ∨ (s.die d).lost ≠ none

/-! ## What a handle or a copy needs (R279, R283, R290, R295) -/

/-- The handle exists, and its entry is in a state. -/
def State.entryIs (s : State) (g h : Nat) (st : EntryState) : Prop := h < (s.wg g).entries.length ∧ ((s.wg g).entry h).st = st

/-- The handle is full, with a parity. -/
def State.fullAt (s : State) (g h : Nat) (p : Bool) : Prop := s.entryIs g h .full ∧ ((s.wg g).entry h).phase = p

/-- The handle is full, or fills without a copy. -/
def State.freeable (s : State) (g h : Nat) : Prop :=
  s.entryIs g h .full ∨ (s.entryIs g h .filling ∧ ((s.wg g).entry h).kind = 0)

/-- The handle fills from a copy that has faulted. -/
def State.resumable (s : State) (g h : Nat) : Prop :=
  s.entryIs g h .filling ∧ ((s.wg g).entry h).fault = true ∧ ∃ k c, ((s.wg g).entry h).copy = some k ∧ s.copyOf k = some c

/-- A copy passes the checks of R283 from the second on. -/
def State.copyPasses (s : State) (g : Nat) (r : CopyReq) : Prop :=
  ∃ l : Layout, r.rec_ = some l ∧ s.entryIs g r.h .filling ∧ ((s.wg g).entry r.h).kind = 0 ∧
    let bytes := 2 ^ l.fmt * l.dim.foldl (fun a d => a * d) 1
    let off := r.aux % 2 ^ 32
    let win := r.aux % 65536
    (r.win = false → bytes ≤ ((s.wg g).entry r.h).size) ∧
    (r.win = true → (s.wg g).matrix = true ∧ win % 16 = 0 ∧ bytes % 16 = 0 ∧ win + bytes ≤ 65536 ∧ l.swz = 0) ∧
    (r.kind = 3 → l.ndim ≠ 1 ∧ off % 4 = 0 ∧ off + 4 * l.dim.getD 1 1 ≤ (s.wg g).scratchSize) ∧
    (r.kind = 4 → BitVec.ofNat 4 r.aux ≠ 0 ∧ ∀ k, k < 4 → (BitVec.ofNat 4 r.aux).getLsbD k = true → (s.memberAt g k).isSome = true)

/-! ## How an instruction of a spoke completes (R301, R303) -/

/-- The spoke context that acts. -/
def State.ctx (s : State) : Spoke := s.spoke s.who.wg s.who.store

/-- The state in which the instruction acts: cycle has counted it. -/
def State.begun (s : State) : State := s.modSpoke s.who.wg s.who.store (fun c => { c with cycle := (c.cycle + 1) % 2 ^ 64 })

/-- The workgroup whose context acts is there. -/
def CtxRuns (s : State) : Prop := s.who.wg < s.wgs.length

/-- What an instruction of n bytes that completes over t leaves: the value in its register, none in x0, and the pc past it or at its target. -/
def State.retired (s t : State) (n rd : Nat) (v : DWord) (target : Option Nat) : State :=
  t.modSpoke s.who.wg s.who.store (fun c =>
    { c with x := if rd = 0 then c.x else c.x.set rd v, pc := target.getD ((s.ctx.pc + n) % 2 ^ 64)
             instret := (c.instret + 1) % 2 ^ 64, phase := .ready })

/-- The boundary after a completed instruction: a pending pre-emption stops the context there (R316). -/
def State.spokeStop (s u : State) : State := if (u.wg s.who.wg).preq.isSome then stopSpoke s.who.wg s.who.store u else u

/-- The instruction completes over t. -/
def Retires (k : Instr) (s t : State) (n rd : Nat) (v : DWord) (target : Option Nat) : Prop :=
  exec k s = .next (s.spokeStop (s.retired t n rd v target))

/-- The instruction has sent a request, and its register is written with the answer. -/
def Sends (k : Instr) (s : State) (p : State × Nat) (n : Nat) : Prop :=
  exec k s = .next (p.1.modSpoke s.who.wg s.who.store (fun c =>
    { c with pc := (s.ctx.pc + n) % 2 ^ 64, phase := .retest (.answered p.2) }))

/-- The bytes of a spoke instruction. -/
def rvSize (c : Bool) : Nat := if c then 2 else 4

/-- An access of a spoke passes the checks of R304. -/
def State.spokeOk (s : State) (a : DWord) (n : Nat) (write : Bool) (sp : Space) (off : Nat) : Prop :=
  s.spokeSpace s.who.wg a n write = some (sp, off) ∧ a.toNat % n = 0

/-- Nothing holds back what the ordering bits of a spoke instruction ask for (R306, R307). -/
def State.spokeOrdered (s : State) (aq rl : Bool) : Prop :=
  ((aq || rl) = true → s.scopeUnsync (dieOfCore (s.wg s.who.wg).core) 2 = false) ∧
  (rl = true → s.spokeRelease s.who.wg s.who.store 2 s.ctx.ctg = none)

/-! ## How a word of the matrix stream completes (R249, R251) -/

/-- The boundary after a word: a pending pre-emption stops the context where its group has closed (R273). -/
def State.seqStop (s u : State) : State := if (u.wg s.who.wg).preq.isSome then stopSeq s.who.wg u else u

/-- The word completes over t: its values join its group, which closes where the word says so or R28 does. -/
def SeqHolds (k : Instr) (s t : State) (closes : Bool) (ws : List (Nat × DWord)) : Prop :=
  exec k s = .next (s.seqStop (t.modSeq s.who.wg (fun q => q.finish closes ws)))

/-- The word completes by going to the engine, and leaves the status of the tiles at issue as f says. -/
def Enqueues (k : Instr) (s t : State) (closes : Bool) (op : CmdOp) (a b : DWord) (f : Seq → Seq) (ws : List (Nat × DWord)) : Prop :=
  ∃ c : Cmd, c.op = op ∧ c.a = a ∧ c.b = b ∧ c.pc = (s.seq s.who.wg).pc ∧ c.row = 0 ∧
    SeqHolds k s (t.modSeq s.who.wg (fun q => { f q with cmds := q.cmds ++ [c] })) closes ws

/-- What each scalar word of the matrix stream computes (R252). -/
def matrixScalar : Instr → Option (Mg3 × (DWord → DWord → DWord))
  | .madd w => some (w, fun a b => a + b)
  | .msub w => some (w, fun a b => a - b)
  | .mmul w => some (w, fun a b => a * b)
  | .mand w => some (w, fun a b => a &&& b)
  | .mor w => some (w, fun a b => a ||| b)
  | .mxor w => some (w, fun a b => a ^^^ b)
  | .mshl w => some (w, fun a b => a <<< b.toNat)
  | .mshr w => some (w, fun a b => a >>> b.toNat)
  | .msra w => some (w, fun a b => a.sshiftRight b.toNat)
  | .mminu w => some (w, fun a b => if a.toNat ≤ b.toNat then a else b)
  | .mmaxu w => some (w, fun a b => if a.toNat ≤ b.toNat then b else a)
  | .mseq w => some (w, fun a b => if a = b then 1 else 0)
  | .msltu w => some (w, fun a b => if a.toNat < b.toNat then 1 else 0)
  | .mslts w => some (w, fun a b => if a.toInt < b.toInt then 1 else 0)
  | _ => none

end Sys2Proof.Machine
end

