-- ==== Sys2Proof/Certificates/Slice0/Obligations.lean ====
section
/-! DEFINITION. The statements for the provers. -/

open Sys2Proof Sys2Proof.Machine

/-! ## The vector engine (R141 to R165) -/

/-- R145 with R33, R34, R38, R142 and R143: a per-lane word whose executing lanes consume no poison under MR.PX and meet no enabled
exception completes, and each executing lane of vd is what the word computes from that lane's operands, whatever shape its operands and its
result are held in; a lane with a poisoned operand is poison. R134: with MR.LR set, where an idle lane's recomputation differs, the lowest such lane
raises 0x02A at the word, with vd and its partner in TVAL; where none differs the word completes as it would without the check, and a quad with
no idle lane or no executing one is not checked.
(The model's own choice where log entries 3, 21 and 63 say so.) -/
def Obligations.LaneResults : Prop :=
  ∀ (k : Instr) (o : LaneWord) (s : State), laneWord k = some o →
    RegsReady s (o.regs s s.who.split) → o.accepts (mrET s.me.mr) = true →
    (∀ l, s.lanes.getLsbD l = true →
      (mrPX s.me.mr = true → ∀ r ∈ o.ops s s.who.split, (r.lane l).isPoison = false) ∧
      enabledOf s.me.mr (laneRow (o.ops s s.who.split) (o.f s.me.mr) l).2.2 = 0) →
    let completes (t : State) : Prop :=
      ∃ v : VReg, Holds k s o.closes t (lastUses s.lanes o.kills ++ [.vset o.d s.lanes v]) ∧
        ∀ l, s.lanes.getLsbD l = true →
          v.lane l = if (o.ops s s.who.split).any (fun r => (r.lane l).isPoison) then .poison
            else .val (o.f s.me.mr ((o.ops s s.who.split).map (fun r => (r.lane l).bits))).1
    (LanesAgree s ∨ (∀ l p, ¬s.recomputes l p) → completes s) ∧
    (∀ (bad : Mask) (rest : List Mask), mrLR s.me.mr = true → (s.core (s.coreOf s.who.split)).upset = bad :: rest →
      (∀ l p, s.recomputes l p → bad.getLsbD l = true → (∀ j q, j < l → s.recomputes j q → bad.getLsbD j = false) →
        exec k s = .next (raiseHere s.who.split 0x02A (o.d * 256 + p) s.upsetPast)) ∧
      ((∃ l p, s.recomputes l p) → (∀ l p, s.recomputes l p → bad.getLsbD l = false) → completes s.upsetPast))

/-- R147 and R148 for the 32-bit integer types without saturation, as two's-complement words: what ADD, SUB, MUL, MULHI, MIN, MAX, ABSDIFF,
MAD, SHL, SHR, NEG and ABS give. -/
def Obligations.Int32Results : Prop :=
  ∀ (mr a b c : Word), mrSAT mr = false →
    (mrET mr = .int32 ∨ mrET mr = .uint32 →
      (intFn2 true (fun _ x y => x + y) mr [a, b]).1 = a + b ∧
      (intFn2 true (fun _ x y => x - y) mr [a, b]).1 = a - b ∧
      (intFn2 true (fun _ x y => x * y) mr [a, b]).1 = a * b ∧
      (intMad mr [a, b, c]).1 = a * b + c ∧
      (intFn1 true (fun x => -x) mr [a]).1 = -a ∧
      (intFn1 true (fun x => (x.natAbs : Int)) mr [a]).1 = (if mrET mr = .int32 ∧ a.slt 0 = true then -a else a) ∧
      (shiftWord (fun t x y => shlElem t.bits x y) mr [a, b]).1 = a <<< b.toNat) ∧
    (mrET mr = .int32 →
      (intFn2 false (fun n x y => x * y / ((2 ^ n : Nat) : Int)) mr [a, b]).1 = BitVec.ofInt 32 (a.toInt * b.toInt / 2 ^ 32) ∧
      (intFn2 false (fun _ x y => if x < y then x else y) mr [a, b]).1 = (if a.slt b then a else b) ∧
      (intFn2 false (fun _ x y => if x < y then y else x) mr [a, b]).1 = (if a.slt b then b else a) ∧
      (intFn2 false (fun _ x y => ((x - y).natAbs : Int)) mr [a, b]).1 = (if a.slt b then b - a else a - b) ∧
      (shiftWord (fun t x y => shrElem t.signed t.bits x y) mr [a, b]).1 = a.sshiftRight b.toNat) ∧
    (mrET mr = .uint32 →
      (intFn2 false (fun n x y => x * y / ((2 ^ n : Nat) : Int)) mr [a, b]).1 = BitVec.ofNat 32 (a.toNat * b.toNat / 2 ^ 32) ∧
      (intFn2 false (fun _ x y => if x < y then x else y) mr [a, b]).1 = (if a.ult b then a else b) ∧
      (intFn2 false (fun _ x y => if x < y then y else x) mr [a, b]).1 = (if a.ult b then b else a) ∧
      (intFn2 false (fun _ x y => ((x - y).natAbs : Int)) mr [a, b]).1 = (if a.ult b then b - a else a - b) ∧
      (shiftWord (fun t x y => shrElem t.signed t.bits x y) mr [a, b]).1 = a >>> b.toNat)

/-- R149 and R150: a compare completes, and in each executing lane the predicate is the relation of that lane's operands, false where one is
poisoned. R157: SEL gives each executing lane the operand its predicate selects, with that operand's poison only; RDLANE gives the lowest executing
lane, and nothing where no lane executes. A check of lanes (R134) finds nothing, or is not asked for; where the lowest idle lane that recomputes differs,
RDLANE raises 0x02A with its scalar's number and the partner.
(The model's own choice where log entries 21 and 63 say so.) -/
def Obligations.CompareAndSelect : Prop :=
  (∀ (w : CmpF) (s : State), LanesAgree s → RegsReady s (w.a.toNat :: s.vbreg s.who.split w.b) →
      let ops : List VReg := [s.vsrc s.who.split w.a, s.vbsrc s.who.split w.b]
      let answers (k : Instr) (f : List Word → Word × Flags) : Prop :=
        (∀ l, s.lanes.getLsbD l = true →
          (mrPX s.me.mr = true → ∀ r ∈ ops, (r.lane l).isPoison = false) ∧ enabledOf s.me.mr (laneRow ops f l).2.2 = 0) →
        ∃ bits : Mask, Holds k s w.s s (lastUses s.lanes [(w.x, w.a), (w.y, w.b)] ++ [.pset w.d.toNat s.lanes bits]) ∧
          ∀ l, s.lanes.getLsbD l = true →
            bits.getLsbD l = (!ops.any (fun r => (r.lane l).isPoison) && (f (ops.map (fun r => (r.lane l).bits))).1 == 1)
      ((mrET s.me.mr).isInt = true → answers (.icmp w) (icmpFn w.r.toNat w.n s.me.mr)) ∧
      (floatET (mrET s.me.mr) = true → answers (.fcmp w) (fcmpFn w.r.toNat w.n s.me.mr))) ∧
  ((∀ (w : SelF) (s : State), LanesAgree s → RegsReady s (w.d.toNat :: w.a.toNat :: s.vbreg s.who.split w.b) →
      let pick (l : Nat) : PWord :=
        ((if (s.predOf s.who.split w.p.toNat).getLsbD l then s.vsrc s.who.split w.a else s.vbsrc s.who.split w.b)).lane l
      (mrPX s.me.mr = true → ∀ l, s.lanes.getLsbD l = true → (pick l).isPoison = false) →
      ∃ v : VReg, Holds (.sel w) s w.s s (lastUses s.lanes [(w.x, w.a), (w.y, w.b)] ++ [.vset w.d.toNat s.lanes v]) ∧
        ∀ l, s.lanes.getLsbD l = true → v.lane l = pick l) ∧
    (∀ (w : RdlaneF) (s : State), RegsReady s [w.a.toNat] →
      (∀ (l p : Nat) (bad : Mask) (rest : List Mask), mrLR s.me.mr = true → mrPX s.me.mr = false →
        (s.core (s.coreOf s.who.split)).upset = bad :: rest → s.recomputes l p → bad.getLsbD l = true →
        (∀ j q, j < l → s.recomputes j q → bad.getLsbD j = false) →
        exec (.rdlane w) s = .next (raiseHere s.who.split 0x02A (w.d.toNat * 256 + p) s.upsetPast)) ∧
      (s.lanes = 0 → Holds (.rdlane w) s w.s s (lastUses s.lanes [(w.x, w.a)])) ∧
      (∀ l, LanesAgree s → s.lanes.getLsbD l = true → (∀ j, j < l → s.lanes.getLsbD j = false) →
        ((mrPX s.me.mr = true → ((s.vsrc s.who.split w.a).lane l).isPoison = false) →
          Holds (.rdlane w) s w.s s (lastUses s.lanes [(w.x, w.a)] ++ [.sset w.d.toNat ((s.vsrc s.who.split w.a).lane l)])))))

/-- R160, and R159 but for its encodings: a scalar word on unpoisoned operands completes with what it computes, once for the split, whatever the
guard; with a poisoned operand its result is poison, or SADDI raises 0x043 where MR.PX is set. SADDI is a VI word of major 0x1F. -/
def Obligations.ScalarResults : Prop :=
  ∀ s : State,
    (∀ (k : Instr) (w : Sc3) (f : Word → Word → Word), scalarWord k = some (w, f) →
      (∀ a b : Word, s.ssrc s.who.split w.a = .val a → s.sbsrc s.who.split w.b = .val b →
        Holds k s w.s s [.sset w.d.toNat (.val (f a b))]) ∧
      ((s.ssrc s.who.split w.a).isPoison = true ∨ (s.sbsrc s.who.split w.b).isPoison = true → mrPX s.me.mr = false →
        Holds k s w.s s [.sset w.d.toNat .poison])) ∧
    (∀ w : SaddiF,
      (∀ a : Word, s.ssrc s.who.split w.a = .val a → Holds (.saddi w) s w.s s [.sset w.d.toNat (.val (a + w.i.signExtend 32))]) ∧
      ((s.ssrc s.who.split w.a).isPoison = true →
        (mrPX s.me.mr = false → Holds (.saddi w) s w.s s [.sset w.d.toNat .poison]) ∧
        (mrPX s.me.mr = true → exec (.saddi w) s = .next (raiseHere s.who.split 0x043 0 s))) ∧
      encodeWord (.saddi w) = some (BitVec.ofNat 32
        (w.s.toNat * 2 ^ 31 + 0x1F * 2 ^ 25 + w.d.toNat * 2 ^ 19 + w.a.toNat * 2 ^ 13 + w.i.toNat))) ∧
    encodeWord (.saddi { s := true, d := 4, a := 4, i := -1 }) = some 0xBE209FFF

/-- R161 and R162: an exchange whose members pass the checks, and which under MR.PX reads no poison, completes; each executing lane reads the
va of its source lane, and poison where that lane does not contribute or its vb is poisoned.
(The model's own choice where log entries 21 and 63 say so.) -/
def Obligations.ExchangeResults : Prop :=
  ∀ (k : Instr) (o : Exchange) (s : State), exchangeWord k = some o → RegsReady s (o.regs s s.who.split) → MembersOk s o.m →
    let src (l : Nat) : Option Nat := o.from_ s s.who.split l
    let gives (j : Nat) : Bool := (s.givers o.m).getLsbD j
    (mrPX s.me.mr = true → ∀ l, s.lanes.getLsbD l = true →
      ∃ j, src l = some j ∧ (gives j = true → ((s.vsrc s.who.split o.a).lane j).isPoison = false)) →
    ∃ v : VReg, Holds k s o.closes s (lastUses s.lanes o.kills ++ [.vset o.d s.lanes v]) ∧
      ∀ l, s.lanes.getLsbD l = true →
        v.lane l = match src l with
          | some j => if gives j then (s.vsrc s.who.split o.a).lane j else .poison
          | none => .poison

/-- R163: votes write one truth value in every executing lane; BALLOT writes the contributing lanes where pA holds into the scalars from sD. R163 for MATCH: the lowest contributing lane that is not poisoned leads; the lanes that hold its value match.
(The model's own choice where log entries 21 and 63 say so.) -/
def Obligations.VoteResults : Prop :=
  (∀ s : State,
      (∀ w : VoteF, MembersOk s w.m →
        let p := s.predOf s.who.split w.a.toNat
        let vote (k : Instr) (b : Prop) : Prop :=
          (b → Holds k s w.s s [.pset w.d.toNat s.lanes (onesMask (s.widthOf s.who.split))]) ∧
          (¬b → Holds k s w.s s [.pset w.d.toNat s.lanes 0])
        vote (.voteAnd w) (∀ l, (s.givers w.m).getLsbD l = true → p.getLsbD l = true) ∧
        vote (.voteOr w) (∃ l, (s.givers w.m).getLsbD l = true ∧ p.getLsbD l = true) ∧
        vote (.voteSame w) ((∀ l, (s.givers w.m).getLsbD l = true → p.getLsbD l = true) ∨
          (∀ l, (s.givers w.m).getLsbD l = true → p.getLsbD l = false))) ∧
      (∀ w : BallotF, MembersOk s w.m → w.d.toNat + maskWords (s.widthOf s.who.split) ≤ 28 →
        Holds (.ballot w) s w.s s
          (maskSets (s.widthOf s.who.split) w.d.toNat (s.givers w.m &&& s.predOf s.who.split w.a.toNat &&& onesMask (s.widthOf s.who.split))))) ∧
  (∀ (w : MatchF) (s : State), RegsReady s [w.a.toNat] → MembersOk s w.m → w.d.toNat + maskWords (s.widthOf s.who.split) ≤ 28 →
      ∃ hit : Mask,
        Holds (.matchAny w) s w.s s (lastUses s.lanes [(w.x, w.a)] ++ [.pset w.e.toNat s.lanes hit] ++
          maskSets (s.widthOf s.who.split) w.d.toNat (hit &&& onesMask (s.widthOf s.who.split))) ∧
        ∀ lead, (s.givers w.m).getLsbD lead = true → ((s.vsrc s.who.split w.a).lane lead).isPoison = false →
          (∀ j, j < lead → (s.givers w.m).getLsbD j = true → ((s.vsrc s.who.split w.a).lane j).isPoison = true) →
          ∀ j, hit.getLsbD j =
            ((s.givers w.m).getLsbD j && (s.vsrc s.who.split w.a).lane j == (s.vsrc s.who.split w.a).lane lead))

/-- R164 for the integer operations and R156: over contributing lanes without poison REDUX writes the combination of all of them into every
executing lane, SCAN that of the lanes up to each; PACK and UNPACK of unpoisoned lanes move elements between lanes and the bit string of R73. -/
def Obligations.ReductionResults : Prop :=
  ∀ s : State,
    (∀ w : ReduxF, w.o.toNat ≠ 7 → RegsReady s [w.d.toNat, w.a.toNat] → MembersOk s w.m →
      (∀ l, (s.givers w.m).getLsbD l = true → ((s.vsrc s.who.split w.a).lane l).isPoison = false) →
      let upTo (n : Nat) : Word := (foldInputs (s.vsrc s.who.split w.a) (s.givers w.m) w.o.toNat n).foldl (foldInt w.o.toNat) (foldIdentity w.o.toNat)
      (∃ v : VReg, Holds (.redux w) s w.s s (lastUses s.lanes [(w.x, w.a)] ++ [.vset w.d.toNat s.lanes v]) ∧
        ∀ l, s.lanes.getLsbD l = true → v.lane l = .val (upTo (s.widthOf s.who.split))) ∧
      (∃ v : VReg, Holds (.scan w) s w.s s (lastUses s.lanes [(w.x, w.a)] ++ [.vset w.d.toNat s.lanes v]) ∧
        ∀ l, s.lanes.getLsbD l = true → v.lane l = .val (upTo (l + 1)))) ∧
    (∀ w : PackF, RegsReady s [w.d.toNat, w.a.toNat] → MembersOk s w.m →
      (∀ l, (s.givers w.m).getLsbD l = true → ((s.vsrc s.who.split w.a).lane l).isPoison = false) →
      let n := s.widthOf s.who.split
      let b := packBits w.w.toNat
      let va := s.vsrc s.who.split w.a
      (∃ v : VReg, Holds (.pack w) s w.s s (lastUses s.lanes [(w.x, w.a)] ++ [.vset w.d.toNat s.lanes v]) ∧
        ∀ j, s.lanes.getLsbD j = true →
          v.lane j = .val (if j < (n * b + 31) / 32 then
            BitVec.ofNat 32 (((lanesIn n (s.givers w.m)).foldl (fun acc l => acc + (va.lane l).bits.toNat % 2 ^ b * 2 ^ (l * b)) 0) / 2 ^ (32 * j))
            else 0)) ∧
      (∃ v : VReg, Holds (.unpack w) s w.s s (lastUses s.lanes [(w.x, w.a)] ++ [.vset w.d.toNat s.lanes v]) ∧
        ∀ l, s.lanes.getLsbD l = true → (∀ j ∈ wordsOfElem l b, (s.givers w.m).getLsbD j = true) →
          v.lane l = .val (BitVec.ofNat 32
            ((wordsOfElem l b).foldr (fun j acc => (va.lane j).bits.toNat + acc * 2 ^ 32) 0 / 2 ^ (l * b % 32) % 2 ^ b))))

/-! ## The warp sequencer (R28 to R42, R81 to R107) -/

/-- R28 and R29: a word that does not close its group leaves its results held and moves the pc past it; one that closes a group without
outstanding results writes every held result, the poison of last uses first (R32) and the others in program order, and ends it. R28, R33, R82, R142, R143: what a held result writes: the executing lanes of a vector register and no other lane or register; the lanes of a
predicate, none of p6 and p7; a scalar register, where s28 to s31 that hold the activity mask only lose bits. -/
def Obligations.GroupEnds : Prop :=
  (∀ (i : Nat) (held : List Held) (s : State), i < s.splits.length → (s.split i).pend = none →
      let n := (s.split i).n + (s.split i).words
      let pc := (s.split i).pc + 4 * (s.split i).words
      (n < 16 → let x := (finishWord i false held s).split i
        x.held = (s.split i).held ++ held ∧ x.n = n ∧ x.pc = pc ∧ x.s = (s.split i).s ∧ (finishWord i false held s).warps = s.warps) ∧
      ((s.split i).held.any Held.isAwait = false → held.any Held.isAwait = false → ∀ closes, closes = true ∨ 16 ≤ n →
        ∃ t, finishWord i closes held s = t ∧ (t.split i).held = [] ∧ (t.split i).n = 0 ∧ (t.split i).pc = pc ∧ (t.split i).phase = .ready ∧
          t.mem = s.mem ∧
          t.warps = (foldState (writeOrder ((s.split i).held ++ held)) (fun h u => applyHeld i h u) s).warps)) ∧
  ((∀ (w : Warp) (r : Nat) (m : Mask) (v : VReg), r < w.v.length → ∀ q l, l < w.width → w.width ≤ 128 →
      ((w.setReg r m v).reg q).lane l = if q = r ∧ m.getLsbD l = true then v.lane l else (w.reg q).lane l) ∧
    (∀ (w : Warp) (r : Nat) (m : Mask), r < w.v.length → ∀ q l, l < w.width → w.width ≤ 128 →
      ((w.kill r m).reg q).lane l = if q = r ∧ m.getLsbD l = true then .poison else (w.reg q).lane l) ∧
    (∀ (w : Warp) (p : Nat) (m bits : Mask), w.p.length = 6 → ∀ q l,
      ((w.setPred p m bits).p.getD q 0).getLsbD l =
        if q = p ∧ p < 6 ∧ m.getLsbD l = true then bits.getLsbD l else (w.p.getD q 0).getLsbD l) ∧
    (∀ (x : Split) (width r : Nat) (v : PWord), x.s.length = 32 → r < 32 → ∀ q, q < 32 →
      (x.setS width r v).sreg q =
        if q = r then (if r < 28 then v else if r - 28 < maskWords width then .val (x.s.getD r 0 &&& v.bits) else .val v.bits) else x.sreg q))

/-- R30, R37, R41, R101, R106, R107, R34: the words of the sequencer that only hold a result or write MR: NOP and a hint do nothing; MODE writes
MR at once; LIMM keeps its literal for the consumer that follows it. -/
def Obligations.SequencerWords : Prop :=
  ∀ s : State,
    (∀ w, Holds (.nop w) s w.s s []) ∧
    (∀ w, Holds (.hint w) s w.s s []) ∧
    (∀ w, Holds (.mode w) s w.s (s.modSplit s.who.split (fun x => { x with mr := modeResult w x.mr })) []) ∧
    (∀ (l c : Word) (t : State), s.fetchWord s.mine (s.me.pc + 8) s.me.prv 0 = (t, .ok c) → limmConsumer c = true →
      exec (.limm l) s = .next (t.modSplit s.who.split (fun x => { x with lit := some l, cons := some c }))) ∧
    (∀ w, Holds (.widthq w) s true s [.sset w.d.toNat (.val (BitVec.ofNat 32 (s.widthOf s.who.split)))]) ∧
    (∀ w, Holds (.warpq w) s true s [.sset w.d.toNat (.val (BitVec.ofNat 32 (s.warpOf s.who.split).id))]) ∧
    (∀ w, Holds (.splitq w) s true s [.sset w.d.toNat (.val (BitVec.ofNat 32
      ((s.me.div.length + s.me.spill.length) * 2 ^ 24 + s.me.timedOut.toNat * 2 ^ 16 + s.me.gang.length * 2 ^ 8 + (s.splitsOf s.me.warp).length)))]) ∧
    (∀ w : VD, RegsReady s [w.d.toNat] →
      ∃ v, Holds (.laneq w) s true s [.vset w.d.toNat s.lanes v] ∧ ∀ l, v.lane l = .val (BitVec.ofNat 32 l)) ∧
    (∀ w : P3,
      let a (l : Nat) : Bool := (s.predOf s.who.split w.a.toNat).getLsbD l ^^ w.x
      let b (l : Nat) : Bool := (s.predOf s.who.split w.b.toNat).getLsbD l ^^ w.y
      let writes (k : Instr) (f : Bool → Bool → Bool) : Prop :=
        ∃ bits : Mask, Holds k s w.s s [.pset w.d.toNat s.lanes bits] ∧ ∀ l, s.lanes.getLsbD l = true → bits.getLsbD l = f (a l) (b l)
      writes (.pand w) and ∧ writes (.por w) or ∧ writes (.pxor w) xor) ∧
    (∀ w : DeactF, ∃ m : Mask, Holds (.deact w) s w.s s [.deact m] ∧
      ∀ l, m.getLsbD l = (s.lanes.getLsbD l && ((s.predOf s.who.split w.a.toNat).getLsbD l == w.n)))

/-- R86 to R90: where every active lane takes a transfer the split goes on at its target, and a linking one leaves the address of the next word in
s26 and s27; where no lane takes it the split goes on at the next word. A target that falls outside the 56 bits of an address wraps within them, which is the model's
choice (log entry 53). The group closes either way, and memory stays. R90: an indirect target whose
bits [1:0] or [63:56] are not zero raises 0x008 at the word where a lane executes, and is not looked at where none does.
(The model's own choice where log entry 53 says so.) -/
def Obligations.TransferWords : Prop :=
  ∀ s : State, s.me.awaiting = false →
    let i := s.who.split
    let all := s.actMask i
    let next := s.me.pc + 4 * s.me.words
    let go (link : Bool) (target : Nat) : State := s.closed.modSplit i (fun x =>
      { (if link then x.linkTo (s.closed.widthOf i) (s.closed.split i).pc else x) with pc := target })
    let goesTo (k : Instr) (link : Bool) (pc : Nat) : Prop :=
      Open s → ∃ t, exec k s = .next t ∧ t.mem = s.mem ∧ (t.split i).pc = pc ∧ (t.split i).phase = .ready ∧ (t.split i).n = 0 ∧
        (t.split i).held = [] ∧ (link = true → 28 ≤ s.me.s.length →
          (t.split i).sreg 26 = .val (BitVec.ofNat 32 next) ∧ (t.split i).sreg 27 = .val (BitVec.ofNat 32 (next / 2 ^ 32 % 2 ^ 24)))
    let target (r : Nat) : Nat := ((s.me.sreg r).bits).toNat + ((s.me.sreg (r + 1)).bits).toNat * 2 ^ 32
    (∀ w : Br,
      let p := s.predOf i w.p.toNat
      let taken := all &&& (if w.n then ~~~p else p)
      let dest := (((s.me.pc : Int) + 4 * w.o.toInt) % ((2 ^ 56 : Nat) : Int)).toNat
      (taken = 0 → Acts (.bra w) s s.closed ∧ Acts (.call w) s s.closed ∧ goesTo (.bra w) false next ∧ goesTo (.call w) false next) ∧
      (taken = all → taken ≠ 0 → Acts (.bra w) s (go false dest) ∧ Acts (.call w) s (go true dest) ∧
        goesTo (.bra w) false dest ∧ goesTo (.call w) true dest)) ∧
    (s.lanes = 0 → (∀ w, Acts (.jmp w) s s.closed ∧ goesTo (.jmp w) false next) ∧ (∀ w, Acts (.callr w) s s.closed ∧ goesTo (.callr w) false next) ∧
      (∀ w, Acts (.ret w) s s.closed ∧ goesTo (.ret w) false next)) ∧
    (s.lanes = all → s.lanes ≠ 0 →
      (∀ w : SA, let a := target w.a.toNat
        a % 4 = 0 → a < 2 ^ 56 →
          Acts (.jmp w) s (go false a) ∧ Acts (.callr w) s (go true a) ∧ goesTo (.jmp w) false a ∧ goesTo (.callr w) true a) ∧
      (∀ w : S0, target 26 % 4 = 0 → target 26 < 2 ^ 56 → Acts (.ret w) s (go false (target 26)) ∧ goesTo (.ret w) false (target 26))) ∧
    (s.lanes ≠ 0 →
      (∀ w : SA, ¬(target w.a.toNat % 4 = 0 ∧ target w.a.toNat < 2 ^ 56) →
        exec (.jmp w) s = .next (raiseHere i 0x008 0 s) ∧ exec (.callr w) s = .next (raiseHere i 0x008 0 s)) ∧
      (∀ w : S0, ¬(target 26 % 4 = 0 ∧ target 26 < 2 ^ 56) → exec (.ret w) s = .next (raiseHere i 0x008 0 s)))

/-- R87 to R90, R92, R94: a transfer that some active lanes take and others do not, the hardware stack having room: BRA and CALL by their predicate, JMP,
CALLR and RET by the guard. The quads without a taker go to a new split at the next word where the partition has an entry for it, and both splits
hold the quads that were one on their gang stacks; the lanes that took the transfer go on at its target, with a rejoin entry of every active lane that
stays below a deferred entry of those that did not take it, which holds the address of the next word, and a linking one leaves that address in s26 and s27.
Where no quad is without a taker, or no entry is free, every lane stays. The target wraps at 2^56, which is the model's choice (log entry 53).
(The model's own choice where log entries 21 and 53 say so.) -/
def Obligations.BranchDiverges : Prop :=
  ∀ s : State, s.who.split < s.splits.length → s.me.live = true → s.me.awaiting = false → s.me.pend = none → s.me.held = [] → s.me.s.length = 32 →
    s.widthOf s.who.split ≤ 128 → (s.wg s.mine).preq = none → (s.wg s.mine).creq = none →
    let i := s.who.split
    let n := s.widthOf i
    let act := s.actMask i
    let next := s.me.pc + 4 * s.me.words
    let free := s.closed.freeTable (s.coreOf i) (s.warpOf i).part
    let diverges (k : Instr) (link : Bool) (dest : Nat) (taken : Mask) : Prop := taken ≠ 0 → taken ≠ act →
      let qs := newQuads s.me.quads act taken
      let left (t : State) (stay : Mask) (gang : List (BitVec 32)) (pushed : Bool) : Prop :=
        exec k s = .next t ∧ (t.split i).pc = dest ∧ (t.split i).act n = taken ∧ (t.split i).gang = gang ∧ t.mem = s.mem ∧
        (t.split i).div = (if pushed then
          { rejoin := false, mask := stay &&& ~~~taken, pc := next, gdepth := gang.length } ::
          { rejoin := true, mask := stay, gdepth := gang.length } :: s.me.div else s.me.div) ∧
        (link = true → (t.split i).sreg 26 = .val (BitVec.ofNat 32 next) ∧ (t.split i).sreg 27 = .val (BitVec.ofNat 32 (next / 2 ^ 32 % 2 ^ 24)))
      (qs = 0 ∨ free = none → s.me.div.length ≤ 14 → ∃ t, left t act s.me.gang true ∧ (t.split i).quads = s.me.quads) ∧
      (∀ e, qs ≠ 0 → free = some e →
        let stay := act &&& ~~~quadLanes qs
        (stay &&& ~~~taken = 0 ∨ s.me.div.length ≤ 14) →
        ∃ t, left t stay (s.me.quads :: s.me.gang) (decide (stay &&& ~~~taken ≠ 0)) ∧ (t.split i).quads = s.me.quads &&& ~~~qs ∧
          let y := t.split (firstIdx (fun x => !x.live) s.splits)
          y.live = true ∧ y.primary = false ∧ y.tix = e ∧ y.warp = s.me.warp ∧ y.quads = qs ∧ y.gang = s.me.quads :: s.me.gang ∧ y.pc = next ∧
          y.act n = act &&& quadLanes qs ∧ y.div = s.me.div ∧ y.mr = s.me.mr ∧ ∀ r, r < 28 → y.sreg r = s.me.sreg r)
    let target (r : Nat) : Nat := ((s.me.sreg r).bits).toNat + ((s.me.sreg (r + 1)).bits).toNat * 2 ^ 32
    (∀ w : Br,
      let p := s.predOf i w.p.toNat
      let taken := act &&& (if w.n then ~~~p else p)
      let dest := (((s.me.pc : Int) + 4 * w.o.toInt) % ((2 ^ 56 : Nat) : Int)).toNat
      diverges (.bra w) false dest taken ∧ diverges (.call w) true dest taken) ∧
    (∀ w : SA, target w.a.toNat % 4 = 0 → target w.a.toNat < 2 ^ 56 →
      diverges (.jmp w) false (target w.a.toNat) s.lanes ∧ diverges (.callr w) true (target w.a.toNat) s.lanes) ∧
    (∀ w : S0, target 26 % 4 = 0 → target 26 < 2 ^ 56 → diverges (.ret w) false (target 26) s.lanes)

/-- R91, R97 to R104, R85: how lanes end and meet again. EXIT of some of the active lanes goes on with the others, EXIT of the last lanes ends the
split. REGANG with an empty stack goes on at gang depth 0 and parks below it; at a deferred entry it makes the lanes of that entry active at their own
pc, with the rejoin entry told where they meet; at a rejoin entry it goes on after the meeting place while the level holds further entries. SPLIT to the
width of the warp does nothing, below it the warp is divided. FUSE to the width of the warp gives 0, to 256 gives 8, below the width gives 1, and over
a block of warps of one width that are all there parks for them. What the merge of R99, the division of R102 and the fuse of R104 leave in the splits
and warps is as `MergeLeaves`, `SplitLeaves` and `FuseLeaves` say, what a failed fuse leaves as `FuseGives`, and the code as `FuseCodes`. The timeouts, once
their last cycle is over, merge, or give 7; a split that has long been ready is boosted.
(The model's own choice where log entries 21, 25, 53, 67 and 70 say so.) -/
def Obligations.SequencerRendezvous : Prop :=
  ∀ s : State,
    let i := s.who.split
    let c := s.closed
    let n := s.widthOf i
    let next := s.me.pc + 4 * s.me.words
    let code (d : BitVec 5) (v : Nat) : State := c.modSplit i (fun x => x.setS n d.toNat (.val (BitVec.ofNat 32 v)))
    (∀ w : S0, Open s → s.outstanding (.split i) = false → s.me.held = [] → s.me.warp < s.warps.length →
      let act := s.actMask i &&& ~~~s.lanes
      let t := (c.modWarp s.me.warp (fun u => { u with exited := u.exited ||| s.lanes })).modSplit i (fun x => x.setAct n act)
      (act ≠ 0 → Acts (.exit w) s (afterGone s.me.warp t)) ∧
      (act = 0 → s.me.div = [] → s.me.spill = [] →
        quadLanes s.me.quads &&& onesMask n &&& ~~~((s.warpOf i).exited ||| s.lanes) = 0 → Acts (.exit w) s (afterGone s.me.warp (endSplit i t)))) ∧
    (∀ w : RegangF, s.me.awaiting = false →
      (s.me.div = [] → s.me.spill = [] →
        (s.me.gang = [] → Acts (.regang w) s (c.modSplit i (fun x => { x with timedOut := false }))) ∧
        (s.me.gang ≠ [] → Acts (.regang w) s (testRegang (c.split i).warp (c.modSplit i (fun x =>
          { x with phase := .parked (.regang w.i.toNat w.t (2 ^ (10 + 2 * w.c.toNat))), since := c.cycleOf i }))))) ∧
      (∀ e r rest, i < s.splits.length → s.me.div = e :: r :: rest → e.gdepth = s.me.gang.length →
        (e.rejoin = false → Acts (.regang w) s (c.modSplit i (fun x =>
          { x.setAct n (e.mask &&& ~~~(s.warpOf i).exited) with
            pc := e.pc, div := { r with id := w.i.toNat, idv := true, pc := s.me.pc } :: rest }))) ∧
        (e.rejoin = true → (e.idv = true → e.id = w.i.toNat) → r.gdepth = s.me.gang.length → Acts (.regang w) s (c.modSplit i (fun x =>
          { x.setAct n (e.mask &&& ~~~(s.warpOf i).exited) with
            pc := if e.idv then e.pc + 4 else next, div := r :: rest, timedOut := false }))))) ∧
    (∀ (j k : Nat) (t : Bool) (len : Nat) (gang : BitVec 32), (s.split j).live = true → (s.split j).phase = .parked (.regang k t len) →
      (s.split j).gang.head? = some gang → s.regangParts (s.split j).warp k gang = [j] → (s.split j).since + len < s.cycleOf j →
      exec (.regangTimeout j) s = .next (regangMerge (s.split j).warp [j] true s)) ∧
    (∀ w : SplitF, s.me.awaiting = false →
      (codeWidth w.w.toNat = n → Acts (.split w) s c) ∧
      (codeWidth w.w.toNat < n → (s.splitsOf s.me.warp).length = 1 → s.me.div = [] → s.me.spill = [] →
        (s.warpOf i).barArr = 0 → s.absentGranule i = none → Acts (.split w) s (doSplit i (codeWidth w.w.toNat) c))) ∧
    (∀ w : FuseF, s.me.awaiting = false → s.absentGranule i = none →
      let width := codeWidth w.w.toNat
      let u := s.warpOf i
      let ws := c.byBase (c.blockWarps u.wg (u.base / width * width) width)
      (width = n → Acts (.fuse w) s (code w.d 0)) ∧ (width ≠ n → width = 256 → Acts (.fuse w) s (code w.d 8)) ∧
      (width ≠ 256 → width < n → Acts (.fuse w) s (code w.d 1)) ∧
      (n < width → width < 256 → ws.length * n = width → (∀ k ∈ ws, (c.warp k).width = n ∧ (c.warp k).gone = false) →
        Acts (.fuse w) s (testFuse u.wg (c.modSplit i (fun x => { x with phase := .parked (.fuse w.w.toNat w.d.toNat), since := c.cycleOf i }))))) ∧
    (∀ (w j code d : Nat), s.splitsOf w = [j] → (s.split j).phase = .parked (.fuse code d) →
      let parked := s.atFuse (s.blockWarps (s.warp w).wg ((s.warp w).base / codeWidth code * codeWidth code) (codeWidth code))
      (∀ k ∈ parked, (s.split j).since ≤ (s.split k).since) →
      (s.split j).since + 65536 < s.cycleOf j → exec (.fuseTimeout w) s = .next (fuseGive parked 7 s)) ∧
    (∀ (w : Nat) (parts : List Nat) (late : Bool), (s.warp w).width ≤ 128 → (∀ j ∈ parts, j < s.splits.length) →
      let trap : Prop := late = true ∧ ∃ j ∈ parts, ∃ id len, (s.split j).phase = .parked (.regang id true len)
      ∃ t, MergeLeaves w parts late s t ∧ (¬trap → regangMerge w parts late s = t) ∧
        ∀ k, s.keepsEntry parts k → trap → regangMerge w parts late s = enterTrap k { cause := 0x007, val := 0, pc := (s.split k).pc } t) ∧
    (∀ w, i < s.splits.length → s.me.live = true → s.me.s.length = 32 → s.me.warp < s.warps.length → (s.warpOf i).live = true → n ≤ 128 →
      w ∈ [4, 8, 16, 32, 64] → w < n → SplitLeaves i w s (doSplit i w s)) ∧
    (∀ (g width : Nat) (ws parts : List Nat), s.fusible width ws parts → FuseLeaves width ws parts s (fuseMerge g width ws s)) ∧
    (∀ (parked : List Nat) (v : Nat), parked.Nodup → (∀ j ∈ parked, j < s.splits.length) → FuseGives parked v s (fuseGive parked v s)) ∧
    (∀ (g width : Nat) (ws parked : List Nat), (∀ j ∈ parked, (s.split j).s.length = 32) → parked ≠ [] → FuseCodes g width ws parked s) ∧
    (∀ (j code d : Nat), (s.split j).live = true → (s.split j).phase = .parked (.fuse code d) →
      let g := s.wgIdxOf j
      let width := codeWidth code
      let ws := s.byBase (s.blockWarps g ((s.warpOf j).base / width * width) width)
      ((∃ w ∈ ws, (s.warp w).gone = true) → testFuseOf j s = fuseGive (s.atFuse ws) 2 s) ∧
      ((∀ w ∈ ws, (s.warp w).gone = false ∧ ∃ k ∈ s.atFuse ws, (s.split k).warp = w) →
        let v := s.fuseCode g width ws (s.atFuse ws)
        testFuseOf j s = if v = 0 then fuseMerge g width ws s else fuseGive (s.atFuse ws) v s)) ∧
    (∀ j : Nat, (s.split j).live = true → (s.split j).phase = .ready ∨ (s.split j).woken = true → (s.split j).since + 256 ≤ s.cycleOf j →
      exec (.splitBoost j) s = .next (s.modSplit j (fun y => { y with boosted := true })))

/-- R111 to R119: an arriving word on a barrier that exists, whose wg-scope release has passed, parks its split for the gathering of its warp; BAR.WAIT
on a phase that has completed goes on; BAR.CNT sets the count while nothing has arrived; BAR.PHQ reads the state word. R114: an arrival is counted and
its split receives the token; the phase completes as soon as its arrivals are as many as it expects, and leaves what `PhaseCompletes` says, the result of
R118 among it, which a split that waits in BAR.FOLD reads.
(The model's own choice where log entries 18 and 24 say so.) -/
def Obligations.BarrierWords : Prop :=
  ∀ s : State, s.me.awaiting = false →
    let i := s.who.split
    let g := s.wgOf i
    let arrives (b : Nat) : Prop := b < g.bars.length ∧ s.fenceWait i 0 = none
    (∀ w : BarB, arrives w.b.toNat → Acts (.barSync w) s (arriveSplit i w.b.toNat .sync s.closed)) ∧
    (∀ w : BarDB, arrives w.b.toNat → Acts (.barArv w) s (arriveSplit i w.b.toNat (.arv w.d.toNat) s.closed)) ∧
    (∀ w : BarFoldF, arrives w.b.toNat → s.payloadClash i w.b.toNat w.o.toNat = false →
      Acts (.barFold w) s (arriveSplit i w.b.toNat (.fold w.d.toNat w.o.toNat (s.ssrc i w.a)) s.closed)) ∧
    (∀ w : BarBA, w.b.toNat < g.bars.length →
      ((g.bar w.b.toNat).par ≠ (s.ssrc i w.a).bits.getLsbD 0 → Acts (.barWait w) s s.closed) ∧
      ((g.bar w.b.toNat).par = (s.ssrc i w.a).bits.getLsbD 0 → Acts (.barWait w) s
        (s.closed.modSplit i (fun x => { x with phase := .parked (.barrier w.b.toNat ((s.ssrc i w.a).bits.getLsbD 0) none) })))) ∧
    (∀ w : BarBA, w.b.toNat < g.bars.length → w.b.toNat ≠ 0 → (s.ssrc i w.a).bits.toNat ≤ 1024 → (g.bar w.b.toNat).arr = 0 →
      ∃ t, Holds (.barCnt w) s true t [] ∧
        (s.mine < s.wgs.length → ((t.wg s.mine).bar w.b.toNat).exp =
          if (s.ssrc i w.a).bits = 0 then s.warpCount s.mine else (s.ssrc i w.a).bits.toNat)) ∧
    (∀ w : BarDB, w.b.toNat < g.bars.length →
      Holds (.barPhq w) s true s [.sset w.d.toNat (.val (BitVec.ofNat 32 (g.bar w.b.toNat).word))]) ∧
    (∀ (j b : Nat) (kind : BarKind), j < s.splits.length → s.splitsOf (s.split j).warp = [j] → s.ordinarySplit j = true →
      (s.warpOf j).barArr.getLsbD b = false →
      arriveSplit j b kind s = settleBar (s.wgIdxOf j) b
        (arriveWarp (s.split j).warp b [(j, kind)] (s.modSplit j (fun x => { x with phase := .parked (.gather b kind) })))) ∧
    (∀ (j b : Nat) (kind : BarKind), j < s.splits.length → s.wgIdxOf j < s.wgs.length → b < (s.wgOf j).bars.length →
      (∃ v, (s.split j).phase = .parked v) → s.ordinarySplit j = true → (s.split j).s.length = 32 →
      let x := (s.wgOf j).bar b
      let t := arriveWarp (s.split j).warp b [(j, kind)] s
      let y := (t.wg (s.wgIdxOf j)).bar b
      (kind = .sync → y.arr = x.arr + 1 ∧ (t.split j).phase = .parked (.barrier b x.par none)) ∧
      (∀ d, kind = .arv d → d < 28 → y.arr = x.arr + 1 ∧ (t.split j).phase = .ready ∧ (t.split j).sreg d = .val (if x.par then 1 else 0)) ∧
      (∀ d op v, kind = .fold d op v → x.pl = false ∨ x.op = op →
        y = ({ x with arr := x.arr + 1 } : Barrier).combine op v ∧ (t.split j).phase = .parked (.barrier b x.par (some d)))) ∧
    (∀ h b : Nat, h < s.wgs.length → b < (s.wg h).bars.length →
      (s.phaseFull h b = true ↔ ((s.wg h).bar b).arr ≠ 0 ∧ ((s.wg h).bar b).arr = ((s.wg h).bar b).exp) ∧
      PhaseCompletes h b s (completePhase h b s) ∧
      (s.phaseFull h b = false → s.warpAgain h b = none → s.ctxAgain h b = none → settleBar h b s = s) ∧
      (s.phaseFull h b = true → (completePhase h b s).warpAgain h b = none → (completePhase h b s).ctxAgain h b = none →
        settleBar h b s = completePhase h b s)) ∧
    (∀ (x : Barrier) (op : Nat), x.any = false → x.poison = false → (x.outcome = .val 0) ∧
      (∀ v vs, op < 7 → ((v :: vs).foldl (fun y u => y.combine op (.val u)) x).outcome = .val (vs.foldl (foldOp op) v)) ∧
      (∀ vs : List PWord, op < 8 → PWord.poison ∈ vs → (vs.foldl (fun y u => y.combine op u) x).outcome = .poison))

/-- R122, R133, R135, R136, R40: SAFE without a request goes on, with a pre-emption it stops with its stop mask; TRAP takes cause 0x028 with the
word in its scalar where a lane executes; TRET returns to the saved pc, MR and privilege. A privileged word raises 0x003 for a split that is not privileged. R31 and R42: a reserved word raises 0x001 at its own address; the results of the earlier words of its group are written first. -/
def Obligations.TrapWords : Prop :=
  (∀ s : State, s.me.awaiting = false →
      let i := s.who.split
      let past := s.closed.modSplit i (fun x => { x with pc := x.pc + 8 })
      (∀ sb lo hi, (s.wgOf i).creq = none →
        ((s.wgOf i).preq = none → Acts (.safe sb lo hi) s past) ∧
        (∀ p, (s.wgOf i).preq = some p → Acts (.safe sb lo hi) s (past.modSplit i (fun x =>
          { x with phase := .stopped none (BitVec.ofNat 64 (lo.toNat + hi.toNat * 2 ^ 32) &&& (s.wgOf i).fullLive) })))) ∧
      (∀ w : SA, (s.lanes = 0 → Acts (.trap w) s s.closed) ∧
        (s.lanes ≠ 0 → Acts (.trap w) s
          (enterTrap i { cause := 0x028, val := (s.ssrc i w.a).bits.toNat, pc := (s.closed.split i).pc } s.closed))) ∧
      (∀ w : S0, s.me.prv = true → s.me.inTrap = true → Acts (.tret w) s (leaveTrap i s.closed)) ∧
      (s.me.prv = false → ∀ k : Instr, (∃ w, k = .tret w) ∨ (∃ w, k = .l1wbinv w) ∨ (∃ w, k = .xlflush w) ∨ (∃ w, k = .regmode w) ∨
          (∃ w, k = .geninc w) ∨ (∃ w, k = .genwait w) ∨ (∃ w, k = .genrd w) ∨ (∃ w, k = .xlat w) ∨ (∃ w, k = .bndSet w) → exec k s = .next (raiseHere i 0x003 0 s)) ∧
      (∀ w : S0, s.me.prv = true → s.me.inTrap = false → exec (.tret w) s = .next (raiseHere i 0x029 0 s))) ∧
  (∀ (w : Word) (s : State), s.me.awaiting = false →
      exec (.reservedEncoding w) s =
        .next (enterTrap s.who.split { cause := 0x001, val := 0, pc := s.me.pc } (commitGroup s.who.split s)))

/-- R135: taking a cause outside a handler saves the pc, MR and privilege, makes the split privileged, and goes on at the workgroup's vector with
MR at 7; inside a handler the launch ends with cause 0x02B, outside one without a vector it ends with the cause, and the split is discarded.
(The model's own choice where log entry 71 says so.) -/
def Obligations.TrapEntry : Prop :=
  ∀ (i : Nat) (c : Trap) (s : State), i < s.splits.length →
    ((s.wgOf i).tvec ≠ 0 → (s.split i).inTrap = false →
      let x := (enterTrap i c s).split i
      x.tcause = c.cause ∧ x.tval = c.val ∧ x.tpc = c.pc ∧ x.tmr = (s.split i).mr ∧ x.pprv = (s.split i).prv ∧ x.prv = true ∧
        x.inTrap = true ∧ x.mr = 7 ∧ x.pc = (s.wgOf i).tvec ∧ x.s = (s.split i).s ∧ x.sp = (s.split i).sp ∧
        (enterTrap i c s).mem = s.mem ∧ (enterTrap i c s).warps = s.warps) ∧
    ((s.wgOf i).tvec = 0 → (s.split i).inTrap = false → enterTrap i c s = endLaunch (s.wgOf i).launch c.cause (discardSplit i s)) ∧
    ((s.split i).inTrap = true → enterTrap i c s = endLaunch (s.wgOf i).launch 0x02B (discardSplit i s)) ∧
    ((discardSplit i s).split i).live = false ∧
    ∀ l v, l < s.launches.length → (s.launch l).ended = none → ((endLaunch l v s).launch l).ended = some v

/-! ## The load-store engine (R166 to R190) -/

/-- R170 to R175: a global load whose lanes pass the checks of R171, and whose blocks bring no enabled exception, completes: it holds the words of
every lane that a copy in the L1 serves, poison for a helper lane that failed, and a place for each block's request.
(The model's own choice where log entries 12 and 13 say so.) -/
def Obligations.GlobalLoads : Prop :=
  ∀ (k : Instr) (o : MemWord) (conv : LoadConv) (s t : State) (hs : List Hit) (lost : List Nat),
    loadWord k = some (o, conv) → MemRegsReady s o true (regsOf o.n) →
    s.checkLanes s.who.split .global o.n .load false false (s.globalAddr s.who.split o.a o.b) = (t, .ok hs lost) →
    let r := loadBlocks s.who.split o.n conv o.reg o.policy false (blocksOf hs) t
    (∀ p ∈ r.2, ∀ q ∈ p.rows, enabledOf s.me.mr q.2.2 = 0) →
    let rows := r.2.flatMap (fun p => p.rows.map (fun q => (q.1, q.2.1))) ++ lost.map (fun l => (l, List.replicate (regsOf o.n) PWord.poison))
    ∃ held, Holds k s o.closes (r.1.joinG (.split s.who.split) (r.2.foldl (fun m p => max m p.v) 0)) held ∧
      (∀ p ∈ r.2, ∀ h ∈ p.held, h ∈ held) ∧
      ∀ l ws, l < 128 → l < s.widthOf s.who.split → rows.find? (fun q => q.1 == l) = some (l, ws) → ws.length = regsOf o.n →
        HoldsLane held o.reg l ws

/-- R173 to R175, R178: a block of a load is served by the copy in the L1 where one covers its words under its key and may be used, unless an
earlier load of the split to these words is still unanswered (R199); else one request for the lanes' words goes to the home. R174: a leased copy serves a core while Meridian time and the bound of its home have not reached its expiry; an untracked copy serves the
accesses of software-managed pages.
(The model's own choice where log entries 12 and 13 say so.) -/
def Obligations.LoadBlocksServed : Prop :=
  (∀ (i n : Nat) (conv : LoadConv) (reg policy : Nat) (strict : Bool) (h : Hit) (hs : List Hit) (s : State),
      let core := (s.wgOf i).core
      let l1 := s.l1Core core h.pa
      let sp := spanOfLanes n ((h :: hs).map (fun k => k.pa))
      (∀ e, s.l1Entry l1 sp.block = some e → s.l1Hit core e sp h.leaf = true → s.earlierRead (.split i) ((h :: hs).map (fun k => spanOf k.pa n)) = false →
          (policy ≠ 1 ∨ h.leaf.m = true) →
        (loadBlock i n conv reg policy strict (h :: hs) s).1 = s ∧
        (loadBlock i n conv reg policy strict (h :: hs) s).2.rows.map (fun q => (q.1, q.2.1)) =
          (h :: hs).map (fun k => (k.lane, (loadWords conv (s.split i).mr (e.bytesAt k.pa n)).1.map PWord.val))) ∧
      (s.l1Entry l1 sp.block = none →
        ∃ r : MemReq, (loadBlock i n conv reg policy strict (h :: hs) s).1.reqs = s.reqs ++ [.mem r] ∧
          (loadBlock i n conv reg policy strict (h :: hs) s).2.held = [.await r.id] ∧ r.party = .split i ∧ r.op = .load n conv reg ∧
          r.lanes.map (fun x => (x.lane, x.pa)) = (h :: hs).map (fun x => (x.lane, x.pa)))) ∧
  (∀ (s : State) (core : Nat) (e : L1Entry) (sp : Span) (l : Leaf),
      e.span.covers sp = true → e.key = l.key →
      (∀ x, e.mode = .leased x → (s.die (dieOfCore core)).unsync = false →
        (s.l1Hit core e sp l = true ↔ l.m = false ∧ s.nowCore core + s.leaseEps (dieOfCore core) sp.base < x)) ∧
      (∀ d, e.mode = .untracked d → (s.l1Hit core e sp l = true ↔ l.m = true)))

/-- R170 to R172, R176, R178: a global store whose lanes pass the checks, in a group that awaits nothing, completes: each block goes to its home as one
request, or into the L1 on a software-managed page where nothing has to come before it, and CT.L is joined with the present time. R178: such a store
makes the bytes dirty in the L1 where the L1 holds its words, or the home can give the rest of them and there is room. R176: a store to a block of a hardware-coherent page is one request that carries each lane's bytes to its physical address.
(The model's own choice where log entries 12 and 13 say so.) -/
def Obligations.GlobalStores : Prop :=
  (∀ (k : Instr) (o : MemWord) (conv : StoreConv) (s t : State) (hs : List Hit) (lost : List Nat),
      storeWord k = some (o, conv) → MemRegsReady s o true (regsOf o.n) →
      s.checkLanes s.who.split .global o.n .store true false (s.globalAddr s.who.split o.a o.b) = (t, .ok hs lost) →
      let data (h : Hit) : List Byte × Flags := storeBytes conv o.n s.me.mr (s.group s.who.split o.reg (regsOf o.n) h.lane)
      (mrPX s.me.mr = true → ∀ h ∈ hs, ∀ p ∈ s.group s.who.split o.reg (regsOf o.n) h.lane, p.isPoison = false) →
      (∀ h ∈ hs, enabledOf s.me.mr (data h).2 = 0) → s.me.awaiting = false →
      let lay (b : List Hit) : List (Nat × List Byte) := b.map (fun h => (h.pa, (data h).1))
      (∀ h b, h :: b ∈ blocksOf hs → h.leaf.m = true →
        t.untrackedWait (s.coreOf s.who.split) h.leaf (s.wgOf s.who.split).troot (s.wgOf s.who.split).trgen h.va o.n (lay (h :: b)) (.split s.who.split) =
          none) →
      let put (b : List Hit) (z : State) : State :=
        match b with
        | [] => z
        | h :: _ =>
          if h.leaf.m then storeUntracked (s.coreOf s.who.split) h.leaf (s.wgOf s.who.split).troot (s.wgOf s.who.split).trgen h.va o.n (lay b) z
          else storeCoherent s.who.split o.n o.policy b (lay b) z
      let u := foldState (blocksOf hs) put t
      (hs ≠ [] → Holds k s o.closes (u.joinL (.split s.who.split) (s.nowOf s.who.split)) []) ∧ (hs = [] → Holds k s o.closes u [])) ∧
  (∀ (i n policy : Nat) (hs : List Hit) (ls : List (Nat × List Byte)) (s : State), hs.length = ls.length →
      ∃ r : MemReq, (storeCoherent i n policy hs ls s).reqs = s.reqs ++ [.mem r] ∧ r.party = .split i ∧ r.op = .store n ∧
        r.lanes.map (fun x => x.pa) = hs.map (fun h => h.pa) ∧ r.lanes.map (fun x => x.data) = ls.map (fun p => natOfBytes p.2) ∧
        (storeCoherent i n policy hs ls s).mem = s.mem) ∧
  (∀ (core : Nat) (l : Leaf) (root rgen va n pa : Nat) (bs : List Byte) (e : L1Entry) (p : Party) (s : State),
      let l1 := s.l1Core core pa
      let sp := spanOfLanes n [pa]
      s.l1Entry l1 sp.block = some e → e.isLeased = false → e.span.covers sp = true →
      s.l1Bytes l1 ≤ l1Capacity →
      let t := storeUntracked core l root rgen va n [(pa, bs)] s
      s.untrackedWait core l root rgen va n [(pa, bs)] p = none ∧ t.mem = s.mem ∧ t.reqs = s.reqs ∧
      t.l1Entry l1 sp.block = some { e.patch pa bs with
        mode := .untracked (e.dirty ||| byteBits pa bs.length), leaf := l, va := va, root := root, rgen := rgen })

/-- R180: scratchpad words. A load gives each lane that passes its checks its bytes of the workgroup's scratchpad; a store of one lane puts the
register's bytes there and changes nothing else of it; ATOMS of one lane leaves the operation's value there and gives the old one. -/
def Obligations.ScratchpadWords : Prop :=
  ∀ s : State,
    (∀ (k : Instr) (o : MemWord) (conv : LoadConv) (hs : List Hit), localLoad k = some (o, conv) → MemRegsReady s o false (regsOf o.n) →
      s.checkLanes s.who.split .scratch o.n .load false false (s.localAddr s.who.split o.a o.b) = (s, .ok hs []) →
      let got (h : Hit) : List Word × Flags := loadWords conv s.me.mr ((s.wgOf s.who.split).scratchRead h.pa o.n)
      (∀ h ∈ hs, enabledOf s.me.mr (got h).2 = 0) →
      ∃ held, Holds k s o.closes s held ∧ ∀ l h, hs.find? (fun x => x.lane == l) = some h → l < s.widthOf s.who.split → l < 128 →
        (got h).1.length = regsOf o.n → HoldsLane held o.reg l ((got h).1.map PWord.val)) ∧
    (∀ (k : Instr) (o : MemWord) (conv : StoreConv) (h : Hit), localStore k = some (o, conv) → MemRegsReady s o false (regsOf o.n) →
      s.checkLanes s.who.split .scratch o.n .store true false (s.localAddr s.who.split o.a o.b) = (s, .ok [h] []) →
      let regs := s.group s.who.split o.reg (regsOf o.n) h.lane
      (mrPX s.me.mr = true → ∀ p ∈ regs, p.isPoison = false) → enabledOf s.me.mr (storeBytes conv o.n s.me.mr regs).2 = 0 →
      s.me.awaiting = false →
      Holds k s o.closes ((s.scratchWrite s.mine h.pa (storeBytes conv o.n s.me.mr regs).1).joinL (.split s.who.split) (s.nowOf s.who.split)) []) ∧
    (∀ (w : AtomsF) (h : Hit), RegsReady s (groupRegs w.d.toNat (atomGroup (atomFn w.w.toNat w.f.toNat) 4) ++ s.addrRegs s.who.split false w.a w.b) →
      s.checkLanes s.who.split .scratch 4 .store true false (s.localAddr s.who.split w.a w.b) = (s, .ok [h] []) →
      let fn := atomFn w.w.toNat w.f.toNat
      let x := atomOperands fn 4 (s.group s.who.split w.d.toNat (atomGroup fn 4) h.lane)
      let old := natOfBytes ((s.wgOf s.who.split).scratchRead h.pa 4)
      x.2.2 = false → s.me.awaiting = false → (fn = .cas → old = x.2.1) →
      ∃ held, Holds (.atoms w) s w.s
          ((s.scratchWrite s.mine h.pa (bytesOfNat 4 (atomNew fn 4 old x.1 x.2.1))).joinL (.split s.who.split) (s.nowOf s.who.split)) held ∧
        (w.n = true → held = []) ∧
        (w.n = false → h.lane < s.widthOf s.who.split → h.lane < 128 → HoldsLane held w.d.toNat h.lane [.val (BitVec.ofNat 32 old)]))

/-- R181: a constant load of one lane whose window's home has no cause and is not busy gives the lane its bytes of the window.
(The model's own choice where log entry 15 says so.) -/
def Obligations.ConstantLoads : Prop :=
  ∀ (w : LdsF) (s t : State) (h : Hit),
    let n := 2 ^ w.w.toNat
    RegsReady s (groupRegs w.d.toNat (regsOf n) ++ s.addrRegs s.who.split false w.a w.b) →
    s.checkLanes s.who.split .const n .load false false (s.localAddr s.who.split w.a w.b) = (t, .ok [h] []) →
    t.homeBusy (dieOfCore (s.coreOf s.who.split)) false h.pa n (.split s.who.split) = false → t.homeCause h.pa n = none →
    let got := loadWords (if w.k then .sign else .zero) s.me.mr (t.readMem h.leaf.key h.pa n)
    got.1.length = regsOf n → s.lanes.getLsbD h.lane = true → h.lane < s.widthOf s.who.split →
    ∃ held, Holds (.ldc w) s w.s t held ∧ HoldsLane held w.d.toNat h.lane (got.1.map PWord.val)

/-- R182 to R184: ATOM and RED whose lanes pass their checks post one request for each block, with the operation and, of each of its lanes, the address,
the operand and the compare operand of its data group, and CT.L is joined with the present time; ATOM holds a place for each request's results, RED
holds none. With an ordering the word closes its group.
(The model's own choice where log entries 16 and 67 say so.) -/
def Obligations.AtomicWords : Prop :=
  ∀ (w : AtomF) (s t : State) (h : Hit) (hs : List Hit),
    let fn := atomFn w.w.toNat w.f.toNat
    let n := if w.w.toNat % 2 = 1 then 8 else 4
    RegsReady s (groupRegs w.d.toNat (atomGroup fn n) ++ s.addrRegs s.who.split true w.a w.b) →
    (w.o ≠ 0 → s.scopeUnsync (dieOfCore (s.coreOf s.who.split)) 2 = false) →
    s.checkLanes s.who.split .global n .store true true (s.globalAddr s.who.split w.a w.b) = (t, .ok (h :: hs) []) →
    (mrPX s.me.mr = true → ∀ x ∈ h :: hs, ∀ p ∈ s.group s.who.split w.d.toNat (atomGroup fn n) x.lane, p.isPoison = false) →
    s.me.awaiting = false → (w.o.getLsbD 1 = true → s.fenceWait s.who.split 2 = none) →
    let sent (k : Instr) (ret : Option Nat) : Prop :=
      ∃ (u : State) (rs : List MemReq), u.reqs = t.reqs ++ rs.map Req.mem ∧ rs.length = (blocksOf (h :: hs)).length ∧
        (∀ r ∈ rs, r.op = .atomic fn n ret ∧ r.party = .split s.who.split) ∧
        rs.map (fun r => r.lanes.map (fun x => (x.lane, x.pa, x.data, x.cmp, x.poison))) = (blocksOf (h :: hs)).map (fun b => b.map (fun x =>
          (x.lane, x.pa, atomOperands fn n (s.group s.who.split w.d.toNat (atomGroup fn n) x.lane)))) ∧
        Holds k s (w.s || w.o != 0) (u.joinL (.split s.who.split) (s.nowOf s.who.split))
          (if ret.isSome then .mark s.me.pc :: rs.map (fun r => .await r.id) else [])
    sent (.atom w) (some w.d.toNat) ∧ sent (.red w) none ∧
    ∀ a b c d : Word, let val (x : Word) : PWord := .val x
      (fn ≠ .cas → atomOperands fn 4 [val a] = (a.toNat, 0, false) ∧ atomOperands fn 8 [val a, val b] = (a.toNat + b.toNat * 2 ^ 32, 0, false)) ∧
      (fn = .cas → atomOperands fn 4 [val a, val b] = (b.toNat, a.toNat, false) ∧
        atomOperands fn 8 [val a, val b, val c, val d] = (c.toNat + d.toNat * 2 ^ 32, a.toNat + b.toNat * 2 ^ 32, false))

/-- R186 to R188: a release fence completes once what it waits for has come; an acquire fence once earlier loads have returned; LD.ACQ is a
load that closes its group. R189: cache control acts once on each block its lanes name: CC.WB sends the dirty bytes of a block to its home under the key they
were written with and leaves the copy clean, CC.INV drops the copy, CC.WBINV does both, and those that write back join EVW into CT.G. A prefetch sends, for each
block that its lanes reach and the L1 does not hold already, a request that nobody waits for, whatever the state of the split.
(The model's own choice where log entries 14 and 67 say so.) -/
def Obligations.FencesAndCacheControl : Prop :=
  (∀ s : State,
      (∀ w : FenceF, s.scopeUnsync (dieOfCore (s.coreOf s.who.split)) w.c.toNat = false →
        (s.fenceWait s.who.split w.c.toNat = none → w.c.toNat ≠ 3 → Holds (.fenceRel w) s true s []) ∧
        (s.drainCxl.fenceWait s.who.split 3 = none → w.c.toNat = 3 → s.outstanding (.split s.who.split) = false →
          Holds (.fenceRel w) s true s.drainCxl []) ∧
        (s.me.awaiting = false → Holds (.fenceAcq w) s true s [])) ∧
      (∀ (w : LdAcqF) (t : State) (hs : List Hit) (lost : List Nat), s.scopeUnsync (dieOfCore (s.coreOf s.who.split)) w.c.toNat = false →
        let n := 4 * 2 ^ w.w.toNat
        RegsReady s (groupRegs w.d.toNat (regsOf n) ++ s.addrRegs s.who.split true w.a w.b) →
        s.checkLanes s.who.split .global n .load false (w.c.toNat != 0) (s.globalAddr s.who.split w.a w.b) = (t, .ok hs lost) →
        let r := loadBlocks s.who.split n .zero w.d.toNat 0 (w.c.toNat != 0) (blocksOf hs) t
        ∃ held, Holds (.ldAcq w) s true (r.1.joinG (.split s.who.split) (r.2.foldl (fun m p => max m p.v) 0)) held ∧
          ∀ p ∈ r.2, ∀ h ∈ p.held, h ∈ held) ∧
      (∀ i scope, s.fenceWait i scope = none ↔
        s.outstanding (.split i) = false ∧ (s.split i).awaiting = false ∧
        (if scope = 0 then (s.split i).ctl else if scope = 1 ∧ (s.wgOf i).fuse = true then (s.split i).ctl
          else if scope ≤ 2 then (s.split i).ctg else (s.split i).ctg + s.epsHost (dieOfCore (s.coreOf i))) ≤ s.nowOf i)) ∧
  (∀ (w : CcF) (s t : State) (hs : List Hit), RegsReady s (s.addrRegs s.who.split true w.a w.b) →
      s.checkLanes s.who.split .global 1 .load false false (s.globalAddr s.who.split w.a w.b) = (t, .ok hs []) →
      s.me.awaiting = false → (hs.map (fun h => h.lane)).Nodup →
      let on (wb inv : Bool) : State := foldState ((blocksOf hs).filterMap List.head?) (ccBlock s.who.split wb inv) t
      let dirty (h : Hit) : Bool := match t.l1Entry (t.l1Core (s.coreOf s.who.split) h.pa) (h.pa / 256) with
        | some e => e.dirty != 0
        | none => false
      let hot := hs.filter dirty
      Holds (.ccInv w) s w.s (on false true) [] ∧
      (lookupLanes s.who.split .store 0 1 true (s.helpersOf s.who.split) (hot.map (fun h => (h.lane, h.va)))
          { s := t, hits := [], poisoned := [], bad := none, later := false } =
          { s := t, hits := hot, poisoned := [], bad := none, later := false } →
        Holds (.ccWb w) s w.s (on true false) [] ∧ Holds (.ccWbinv w) s w.s (on true true) [])) ∧
  (∀ (i : Nat) (wb inv : Bool) (h : Hit) (s : State),
      let l1 := s.l1Core (s.coreOf i) h.pa
      let block := h.pa / 256
      let t := ccBlock i wb inv h s
      t.mem = s.mem ∧
      (wb = true → i < s.splits.length → (t.split i).ctg = max (s.split i).ctg (s.core l1).evw) ∧
      (inv = true → t.l1Entry l1 block = none) ∧
      (∀ e, s.l1Entry l1 block = some e → wb = true → e.dirty ≠ 0 →
        (∃ r : MemReq, t.reqs = s.reqs ++ [.mem r] ∧ r.op = .writeBack e.dirty e.blockData ∧ r.party = .split i ∧ r.leaf.key = e.key ∧
          r.lanes.map (fun x => x.pa) = [block * 256]) ∧
        (inv = false → t.l1Entry l1 block = some { e with mode := .untracked 0 })) ∧
      (wb = false ∨ (∀ e, s.l1Entry l1 block = some e → e.dirty = 0) →
        t.reqs = s.reqs ∧ (inv = false → t.l1Entry l1 block = s.l1Entry l1 block))) ∧
  (∀ (w : CcF) (s : State), RegsReady s (s.addrRegs s.who.split true w.a w.b) →
      let i := s.who.split
      let lanes := (lanesIn (s.widthOf i) s.lanes).map (fun l => (l, s.globalAddr i w.a w.b l))
      let good := (lanes.filter (fun p => (s.earlyCheck i .global 1 p.2 p.1).isNone)).map (fun p => (p.1, p.2.addr))
      let r := lookupLanes i .load 0 1 false (onesMask 128) good { s := s, hits := [], poisoned := [], bad := none, later := false }
      let blocks := (blocksOf r.hits).filterMap List.head?
      ∃ (u : State) (rs : List MemReq), Holds (.pf w) s w.s u [] ∧ u.reqs = s.reqs ++ rs.map Req.mem ∧
        (∀ q ∈ rs, q.op = .prefetch ∧ q.party = .device) ∧
        rs.map (fun q => q.lanes.map (fun x => x.pa)) = (blocks.filter (fun h => !r.s.prefetched (s.wgOf i).core h)).map (fun h => [h.pa / 256 * 256]) ∧
        u.mem = s.mem ∧ u.wgs = s.wgs ∧ u.splits = s.splits ∧ u.warps = s.warps)

/-! ## Memory at the homes (R191 to R214) and the host's side (R210, R211, R213) -/

/-- R7, R176, R422: bytes written under a key slot read back under it; no other byte changes under that slot, and no byte of a granule that the write
does not touch changes under any slot; memory keeps its canonical form. R180: a scratchpad write changes the bytes it stores and no other byte of any workgroup's scratchpad, and keeps the canonical form.
(The model's own choice where log entries 1 and 52 say so.) -/
def Obligations.MemoryWrites : Prop :=
  (∀ (s : State) (key pa : Nat) (bs : List Byte), Memory.wf s.mem = true →
      (∀ a, (s.writeMem key pa bs).byteAt key a = if pa ≤ a ∧ a < pa + bs.length then bs.getD (a - pa) 0 else s.byteAt key a) ∧
      (∀ k a, a / 32 ∉ granulesOf pa bs.length → (s.writeMem key pa bs).byteAt k a = s.byteAt k a) ∧
      Memory.wf (s.writeMem key pa bs).mem = true) ∧
  (∀ (s : State) (g off : Nat) (bs : List Byte), g < s.wgs.length → Memory.wf (s.wg g).scratch = true →
      Memory.wf ((s.scratchWrite g off bs).wg g).scratch = true ∧
      (∀ a, cellGet ((s.scratchWrite g off bs).wg g).scratch a =
        if off ≤ a ∧ a < off + bs.length then bs.getD (a - off) 0 else cellGet (s.wg g).scratch a) ∧
      (∀ h, h ≠ g → ((s.scratchWrite g off bs).wg h).scratch = (s.wg h).scratch) ∧ (s.scratchWrite g off bs).mem = s.mem)

/-- R191: the first 48 GiB of each die's 2^36 bytes are homed on that die, the upper half of the 52-bit space in host memory, whose proxy is on die 0; an
access of any other address fails with 0x084. The slice is the exclusive or of three nibbles of the address, so that a block lies in one slice, and
with it every aligned access of up to 16 bytes. -/
def Obligations.AddressMap : Prop :=
  (∀ pa : Nat, pa < 2 ^ 52 →
    (∀ d off, d < 8 → off < 48 * 2 ^ 30 → pa = d * 2 ^ 36 + off → homeOf pa = .dram d (sliceOf pa) ∧ homeDie pa = d) ∧
    (∀ d off, d < 8 → 48 * 2 ^ 30 ≤ off → off < 2 ^ 36 → pa = d * 2 ^ 36 + off → homeOf pa = .none) ∧
    (2 ^ 39 ≤ pa → pa < 2 ^ 51 → homeOf pa = .none) ∧
    (2 ^ 51 ≤ pa → homeOf pa = .host (sliceOf pa) ∧ homeDie pa = 0) ∧
    (∀ (s : State) n, homeOf pa = .none → s.homeCause pa n = some 0x084) ∧
    sliceOf pa = (pa / 2 ^ 8 % 16) ^^^ (pa / 2 ^ 12 % 16) ^^^ (pa / 2 ^ 16 % 16) ∧ sliceOf pa < 16 ∧
    (∀ a, a / 256 = pa / 256 → homeOf a = homeOf pa)) ∧
  (∀ a k j : Nat, k ≤ 4 → a % 2 ^ k = 0 → j < 2 ^ k → (a + j) / 256 = a / 256)

/-- R196: the time that a home on device memory returns for a write is the later of its present time and the latest expiry over the written words, plus the
package bound of its die; the records that overlap keep it.
(The model's own choice where log entry 29 says so.) -/
def Obligations.CompletionTimes : Prop :=
  ∀ (s : State) (key pa : Nat) (bs : List Byte), isHost pa = false →
    let w := (s.homeStore key pa bs).2
    let sp := spanOf pa bs.length
    w = max (s.nowDie (homeDie pa)) (s.latestE sp) + s.epsPkg (homeDie pa) ∧
    (∀ l ∈ s.leases, l.span.overlaps sp = true → l.e + s.epsPkg (homeDie pa) ≤ w) ∧
    (∀ l ∈ (s.homeStore key pa bs).1.leases, l.span.overlaps sp = true → w ≤ l.wl) ∧
    (s.homeStore key pa bs).1.leases.map (fun l => (l.span, l.e)) = s.leases.map (fun l => (l.span, l.e))

/-- R194: a lease expires its class's length after the present time of its home, and the class is no longer than the one asked for: none on an
uncorrectable granule, none from an unsynchronised die to another die, none without a free record. -/
def Obligations.LeasesGranted : Prop :=
  ∀ (s : State) (d : Nat) (sp : Span) (c : Nat), c < 4 →
    (∀ e, (s.grant d sp c).2 = some e → ∃ k, 0 < k ∧ k ≤ c ∧ e = s.nowDie (homeDie sp.base) + leaseLength k ∧
      (isHost sp.base = true → k = 1) ∧ (s.isPool sp.base = true → k ≤ 2)) ∧
    ((granulesOf sp.base (4 * sp.count)).any (fun g => s.ecc.contains g) = true → (s.grant d sp c).2 = none) ∧
    ((s.die (homeDie sp.base)).unsync = true → homeDie sp.base ≠ d → (s.grant d sp c).2 = none) ∧
    (32768 ≤ (s.leases.filter (fun l => homeOf l.span.base == homeOf sp.base)).length → (s.grant d sp c).2 = none) ∧
    (c = 0 → (s.grant d sp c).2 = none) ∧ (s.grant d sp c).1.mem = s.mem

/-- R28, R194 to R196, R183, R203, R204, R178: what the homes do once nothing holds a request back. A read is answered and changes no byte of memory, and
a split's load takes its bytes into its group; a store is applied lane by lane and its time joins CT.G
(its home compared the generation as it was sent); an atomic of one lane leaves the operation's
value and answers the old one; a group whose results are back is written; a span is released; a record that lies in the past is freed; a leased span is dropped.
(The model's own choice where log entries 5, 29 and 49 say so.) -/
def Obligations.HomeServices : Prop :=
  ∀ s : State,
    (∀ (id : Nat) (r : MemReq), s.memReq id = some r → r.op.writes = false → s.blockedBy r = false → r.fail = none → s.wholeCause r.pa = none →
      s.stale r.leaf r.pa = false → s.homeBusy (dieOfCore r.core) false (s.readSpan r).base (4 * (s.readSpan r).count) r.party = false →
      s.l1Bytes r.l1 + 4 * (s.readSpan r).count ≤ 128 * 1024 →
      ∃ t, exec (.homeRead id) s = .next t ∧ t.mem = s.mem ∧ (∀ q ∈ t.reqs, q.id ≠ id) ∧
        (∀ i n conv reg, r.party = .split i → r.op = .load n conv reg → i < s.splits.length → s.readGroup r = [r] →
          (s.wg (s.wgIdxOf i)).preq = none → (s.wg (s.wgIdxOf i)).creq = none →
          let got (l : LaneReq) : List Word × Flags := loadWords conv r.mr
            (if r.leaf.m then s.seenBytes r.l1 r.leaf l.pa n else s.readMem r.leaf.key l.pa n)
          (∀ l ∈ r.lanes, s.homeCause l.pa n = none ∧ enabledOf r.mr (got l).2 = 0) →
          (t.split i).held =
            fillHeld id (loadHeld (s.widthOf i) reg (regsOf n) (r.lanes.map (fun l => (l.lane, (got l).1.map PWord.val)))) (s.split i).held)) ∧
    (∀ (id n : Nat) (r : MemReq), s.memReq id = some r → r.op = .store n → s.blockedBy r = false → r.fail = none → s.wholeCause r.pa = none →
      s.homeBusy (dieOfCore r.core) true r.pa (4 * r.span.count) r.party = false →
      let w := s.homeStores r.leaf.key (r.lanes.map (fun l => (l.pa, bytesOfNat n l.data)))
      exec (.homeWrite id) s = .next ((w.1.dropReq r.id).joinG r.party w.2)) ∧
    (∀ (id n : Nat) (fn : AtomFn) (ret : Option Nat) (r : MemReq) (l : LaneReq), s.memReq id = some r → r.op = .atomic fn n ret → r.lanes = [l] →
      s.blockedBy r = false → r.fail = none → s.wholeCause r.pa = none →
      s.homeBusy (dieOfCore r.core) true r.pa (4 * r.span.count) r.party = false → s.homeCause l.pa n = none → fn ≠ .cas →
      let old := s.readNat r.leaf.key l.pa n
      let w := s.homeStore r.leaf.key l.pa (bytesOfNat n (atomNew fn n old l.data l.cmp))
      exec (.homeAtomic id) s = .next (answerAtomic r [(l, .inr old)] n w.2 w.1)) ∧
    (∀ i, (s.split i).live = true → (s.split i).phase = .parked .group → (s.split i).awaiting = false →
      ((s.split i).pend = none → exec (.resultReturn i) s = .next (commitGroup i s)) ∧
      (∀ t, (s.split i).pend = some t → exec (.resultReturn i) s = .next (enterTrap i t (commitGroup i (cutHeld i t.pc s))))) ∧
    (∀ (k : Nat) (o : Owner), s.owners[k]? = some o → s.ownerBusy o = false →
      exec (.spanRelease k) s = .next (releaseSpan k s) ∧
      (o.recalled = true → exec (.recallSpan k) s = .next (releaseSpan k s))) ∧
    (∀ (k : Nat) (l : Lease), s.leases[k]? = some l → l.e ≤ s.nowDie (homeDie l.span.base) → l.wl ≤ s.nowDie (homeDie l.span.base) →
      exec (.leaseRecordFree k) s = .next { s with leases := s.leases.eraseIdx k }) ∧
    (∀ (c k : Nat) (e : L1Entry), (s.core c).l1[k]? = some e → e.isLeased = true →
      exec (.l1SpanDrop c k) s = .next (s.setL1 c e.span.block none))

/-- R210, R211, R213: the host's snoops, its answers to the proxy, and its own reads and writes of device memory, where nothing holds them back and the
device is not in PS2; there the snoops and answers wake it (R434).
(The model's own choice where log entry 28 says so.) -/
def Obligations.HostServices : Prop :=
  ∀ s : State,
    (∀ line, s.hdown = false → s.dev.ps ≠ 2 → exec (.hostSnoop line) s =
      .next { s with hlines := s.hlines.map (fun l => if l.line == line then { l with snooped := true } else l) }) ∧
    (∀ line, ∃ t, exec (.hostSnoopAnswer line) s = .next t ∧
      (∀ l ∈ s.hlines, l.line = line → l.snooped = true → l.e ≤ s.nowDie 0 → l ∉ t.hlines) ∧
      (∀ l ∈ s.hlines, l.line ≠ line ∨ l.snooped = false ∨ s.nowDie 0 < l.e → l ∈ t.hlines)) ∧
    (∀ (line : Nat) (data : List Byte) (q : HostReq), data.length = 64 → s.hdown = false → s.dev.ps ≠ 2 → s.hreqs = [q] → q.line = line →
      s.hlines.find? (fun l => l.line == line) = none → Memory.wf s.mem = true →
      ∃ t, exec (.cxlCacheResponse line false data) s = .next t ∧ t.hreqs = [] ∧ { line := line, owned := q.own } ∈ t.hlines ∧
        ∀ j, j < 64 → t.byteAt 0 (64 * line + j) = data.getD j 0) ∧
    (∀ (line : Nat) (q : HostReq), q ∈ s.hreqs → q.line = line → q.since + 16000000 ≤ s.nowDie 0 →
      exec (.cxlCacheTimeout line) s = .next (failLine line s)) ∧
    (∀ pa n, hostRange pa n = true → s.hostOn = true → s.onHold pa = false → s.homeBusy 0 false pa n .device = false →
      s.homeCause pa n = none → s.hheld.contains (pa / 256) = false → (s.heldIn pa).length < 16384 →
      exec (.hostMemRead pa n) s = .next { s with hout := s.readMem 0 pa n, hheld := s.hheld ++ [pa / 256] }) ∧
    (∀ (pa : Nat) (data : List Byte), hostRange pa data.length = true → s.hostOn = true → s.onHold pa = false → s.noRoute 0 (homeDie pa) = false →
      s.ownedByOther (spanOf pa data.length) .device = false → s.wholeCause pa = none →
      ∃ t, exec (.hostMemWrite pa data) s = .next t ∧ t.hwrites = s.hwrites ++ [(pa, (s.homeStore 0 pa data).2)] ∧
        t.mem = (s.homeStore 0 pa data).1.mem) ∧
    (∀ k pa w, s.hwrites[k]? = some (pa, w) → w ≤ s.nowDie (homeDie pa) → s.hdown = false →
      exec (.hostWriteCompletion k) s = .next { s with hwrites := s.hwrites.eraseIdx k }) ∧
    (∀ b, s.hbinv.contains b = true → s.hdown = false → s.dev.ps ≠ 2 → exec (.backInvalidateResponse b) s =
      .next { s with hbinv := s.hbinv.filter (fun x => x != b), hheld := s.hheld.filter (fun x => x != b) }) ∧
    (s.hdown = false → s.dev.ps = 2 → ∀ line err data b, exec (.hostSnoop line) s = .next (beginStart .wake s) ∧
      exec (.cxlCacheResponse line err data) s = .next (beginStart .wake s) ∧ exec (.backInvalidateResponse b) s = .next (beginStart .wake s))

/-! ## Time, completion times and translation (R207 to R209, R226 to R230, R235 to R246) -/

/-- R207, R226 to R230: the words that read or wait for time. TIME and CTRD give a pair of scalars; TWAIT goes on once its time has come; CTJOIN joins a
time into CT.L and CT.G; MTEPS and LOCQ.SELF read the die; LOCQ on cached translations gives each lane the word of its home. -/
def Obligations.TimeWordResults : Prop :=
  ∀ s : State,
    let i := s.who.split
    (∀ w : SD, Holds (.time w) s w.s s (pairSet w.d.toNat (s.nowOf i))) ∧
    (∀ (w : SA) (t : Nat), s.spair i w.a.toNat = some t → t ≤ s.nowOf i → Holds (.twait w) s true s []) ∧
    (∀ w : MtepsF, Holds (.mteps w) s w.s s [.sset w.d.toNat (.val (BitVec.ofNat 32 (s.eps (dieOfCore (s.coreOf i)) w.c.toNat)))]) ∧
    (∀ w : SD, s.outstanding (.split i) = false → s.me.awaiting = false →
      Holds (.ctrdL w) s true s (pairSet w.d.toNat s.me.ctl) ∧ Holds (.ctrdG w) s true s (pairSet w.d.toNat s.me.ctg)) ∧
    (∀ (w : SA) (t : Nat), s.spair i w.a.toNat = some t → s.me.awaiting = false → ∃ u, Holds (.ctjoin w) s w.s u [] ∧
      (i < s.splits.length → (u.split i).ctl = max s.me.ctl t ∧ (u.split i).ctg = max s.me.ctg t)) ∧
    (∀ w : SD, Holds (.locqSelf w) s w.s s [.sset w.d.toNat (.val (BitVec.ofNat 32
      ((if s.me.prv then siteOfDie s.spare (dieOfCore (s.coreOf i)) else 0) * 2 ^ 18 + clusterOfCore (s.coreOf i) * 2 ^ 13 +
        dieOfCore (s.coreOf i) * 2 ^ 10 + (s.warpOf i).part * 2 ^ 8 + s.coreOf i)))]) ∧
    (∀ w : VDA, RegsReady s [w.d.toNat, w.a.toNat, w.a.toNat + 1] →
      ∀ (va : Nat → Nat) (k : Nat → Leaf),
        (∀ l, s.lanes.getLsbD l = true → s.vpair i w.a.toNat l = some (va l) ∧ va l < 2 ^ 56 ∧
          s.cached (s.coreOf i) (s.wgOf i).troot (s.wgOf i).trgen (va l) = some (k l) ∧ (k l).allows .load s.me.prv = true ∧
          s.keyOn (k l).key = true) →
        ∃ held, Holds (.locq w) s w.s s held ∧ ∀ l, s.lanes.getLsbD l = true →
          HoldsLane held w.d.toNat l [.val (BitVec.ofNat 32 (s.locqWord (dieOfCore (s.coreOf i)) (k l) ((k l).at (va l))))])

/-- R139, R208, R243, R244, R237, R238: the privileged words on regions, generations and translations, in the mode that may run them and with nothing in
their way: REGMODE, GENINC and GENWAIT over a valid run; GENRD of a frame with a home; XLAT; XLFLUSH; L1WBINV of an L1 without dirty spans; and the
steps of the translation engine.
(The model's own choice where log entries 17 and 67 say so.) -/
def Obligations.TranslationWords : Prop :=
  ∀ s : State, s.me.prv = true → s.me.awaiting = false →
    let i := s.who.split
    let d := dieOfCore (s.coreOf i)
    (∀ (w : SDAB) (base : Nat) (r : Run) (m : Bool), s.runOf i w.a.toNat w.b = (base, some (r, m)) →
      (∀ f ∈ r.frames, isDram f = true ∧ (m = true → s.isPool f = false)) → s.runBusy d r = false → runInFlight r s.reqs = false →
      let q := (List.range 128).foldl (fun p c => sweepL1 r c p) (releaseRun r s, some 0)
      let u := bumpFrames (s.liveFrames r) (some m) q.1
      ((∀ c e, c < 128 → e ∈ (s.core c).l1 → r.has e.span.base = true → e.dirty = 0) → q.2 = some 0) ∧
      (∀ last, q.2 = some last →
        Holds (.regmode w) s true u (pairSet w.d.toNat (max (max (s.nowDie d) last) (u.runTime r) + s.epsPkg d)))) ∧
    (∀ (w : SDAB) (base : Nat) (r : Run), s.runOf i w.a.toNat w.b = (base, some (r, false)) →
      (∀ f ∈ r.frames, homeOf f ≠ .none ∧ s.isPool f = false ∧ s.onHold f = false) → s.runBusy d r = false →
      let q := genBump d (s.coreOf i) r s
      Holds (.geninc w) s true q.1 (pairSet w.d.toNat q.2) ∧
      (Open s → ∃ t, exec (.genwait w) s = .next t ∧ t.pgen = q.1.pgen ∧ (t.split i).phase = .parked (.genwait q.2 w.d.toNat) ∧
          (t.split i).pc = s.me.pc ∧ (t.split i).held = s.me.held)) ∧
    (∀ (w : SDA) (pa : Nat), s.spair i w.a.toNat = some pa → pa < 2 ^ 52 → homeOf pa ≠ .none →
      Holds (.genrd w) s w.s s [.sset w.d.toNat (.val (BitVec.ofNat 32 ((s.genOf pa).2.toNat * 2 ^ 16 + (s.genOf pa).1)))]) ∧
    (∀ w : VDA, RegsReady s [w.d.toNat, w.d.toNat + 1, w.a.toNat, w.a.toNat + 1] →
      ∀ (va : Nat → Nat) (k : Nat → Leaf),
        (∀ l, s.lanes.getLsbD l = true → s.vpair i w.a.toNat l = some (va l) ∧ va l < 2 ^ 56 ∧
          s.walk d (s.wgOf i).troot (s.wgOf i).trgen (va l) = .leaf (k l) ∧ s.keyOn (k l).key = true) →
        ∃ held, Holds (.xlat w) s w.s s held ∧ ∀ l, s.lanes.getLsbD l = true →
          HoldsLane held w.d.toNat l (xlatWords (va l) (.inr (k l)))) ∧
    (∀ w : SD, ∃ t, Holds (.xlflush w) s true t (pairSet w.d.toNat (s.nowOf i)) ∧
      ∀ c, c < 128 → (s.die (dieOfCore c)).lost = none → (t.core c).xlat = []) ∧
    (∀ w : SD, s.fusedAt (s.coreOf i) = false → (∀ e ∈ (s.core (s.coreOf i)).l1, e.dirty = 0) →
      let time := max (s.core (s.coreOf i)).evw (s.nowOf i)
      Holds (.l1wbinv w) s true ((s.modCore (s.coreOf i) (fun x => { x with l1 := [], evw := 0 })).joinG (.split i) time) (pairSet w.d.toNat time)) ∧
    (∀ c g va l, s.walk (dieOfCore c) (s.wg g).troot (s.wg g).trgen va = .leaf l →
      exec (.pageWalk c g va) s = .next (s.cacheLeaf c (s.wg g).troot (s.wg g).trgen va l)) ∧
    (∀ c k x, (s.core c).xlat[k]? = some x → x.time + 16000000 ≤ s.nowCore c →
      exec (.translationExpiry c k) s = .next (s.modCore c (fun y => { y with xlat := y.xlat.eraseIdx k })))

/-- R236, R237: a walk reads one entry a level under the root: an entry that is not valid faults with 0x0A1, a malformed one with 0x0A3; a leaf ends it;
a table that is not in a frame of its generation is not read, whatever else its home would answer, and one at an address that nothing backs, or on a lost
die, faults with 0x0A4. -/
def Obligations.TableWalks : Prop :=
  ∀ (s : State) (d va k t g : Nat),
    let b := levelBits (4 - k)
    let pa := t + 16 * (va / 2 ^ b.1 % 2 ^ b.2)
    let e := s.readNat 0 pa 16
    (s.noHome pa = true → s.noRoute d (homeDie pa) = false → s.walkFrom d va (k + 1) t g = .fault 0x0A4) ∧
    (s.noRoute d (homeDie pa) = false → s.noHome pa = false → (s.genOf pa).1 ≠ g → s.walkFrom d va (k + 1) t g = .again pa) ∧
    (s.noRoute d (homeDie pa) = false → s.noHome pa = false → s.homeCause pa 16 = none → s.hostReady false pa 16 = true → s.ownedByOther (spanOf pa 16) .device = false →
    ((s.genOf pa) = (g, true) → s.walkFrom d va (k + 1) t g = .fault 0x0A4) ∧
    ((s.genOf pa) = (g, false) →
      (e % 2 = 0 → s.walkFrom d va (k + 1) t g = .fault 0x0A1) ∧
      (e % 2 = 1 → malformed e (4 - k) = true → s.walkFrom d va (k + 1) t g = .fault 0x0A3) ∧
      (e % 2 = 1 → malformed e (4 - k) = false → e / 2 % 2 = 1 → ∃ l, s.walkFrom d va (k + 1) t g = .leaf l ∧
        l.pa = e / 2 ^ 16 % 2 ^ 36 * 2 ^ 16 ∧ l.lg = b.1 ∧ l.w = decide (e / 2 ^ 2 % 2 = 1) ∧ l.x = decide (e / 2 ^ 3 % 2 = 1) ∧
        l.u = decide (e / 2 ^ 4 % 2 = 1) ∧ l.gen = e / 2 ^ 112 % 2 ^ 16) ∧
      (e % 2 = 1 → malformed e (4 - k) = false → e / 2 % 2 = 0 →
        s.walkFrom d va (k + 1) t g = s.walkFrom d va k (e / 2 ^ 9 % 2 ^ 43 * 2 ^ 9) (e / 2 ^ 112 % 2 ^ 16))))

/-! ## The spokes (R301 to R319) -/

/-- R301, R303, R47, R302, R312: an instruction of RV64IM, Zba and Zbb writes its value to rd, none to x0, counts in instret, and goes on at the next
instruction or at its target; so do the reads of a counter, of Meridian time, of the package bound and of the context's number. FENCE.I has no effect and
FENCE waits as a release and acquire at dev scope for each set that is not empty; WFI ends the context; ECALL, EBREAK and illegal instructions halt it.
(The model's own choice where log entry 6 says so.) -/
def Obligations.SpokeWords : Prop :=
  ∀ s : State, CtxRuns s →
    let g := s.who.wg
    let st := s.who.store
    let x := s.xval g st
    let pc := s.ctx.pc
    (∀ c op, let does (rd : Nat) (v : DWord) (target : Option Nat) : Prop := Retires (.spokeOtherInstruction c op) s s.begun (rvSize c) rd v target
      match op with
      | .lui rd i => does rd.toNat ((i.signExtend 64) <<< 12) none
      | .auipc rd i => does rd.toNat (BitVec.ofNat 64 pc + ((i.signExtend 64) <<< 12)) none
      | .jal rd off => does rd.toNat (BitVec.ofNat 64 (pc + rvSize c)) (some (pcPlus pc off.toInt))
      | .jalr rd a i => does rd.toNat (BitVec.ofNat 64 (pc + rvSize c)) (some ((x a + i.signExtend 64).toNat / 2 * 2))
      | .branch k a b off => does 0 0 (if rvCond k (x a) (x b) then some (pcPlus pc off.toInt) else none)
      | .imm f rd a i => does rd.toNat (rvImm f (x a) i) none
      | .reg f rd a b => does rd.toNat (rvReg f (x a) (x b)) none
      | .un f rd a => does rd.toNat (rvUn f (x a)) none) ∧
    (∀ d, Retires (.spokeRdmt d) s s.begun 4 d.d.toNat (BitVec.ofNat 64 (s.nowCore (s.wg g).core)) none ∧
      Retires (.spokeRdeps d) s s.begun 4 d.d.toNat (BitVec.ofNat 64 (s.epsPkg (dieOfCore (s.wg g).core))) none ∧
      Retires (.spokeRdctx d) s s.begun 4 d.d.toNat
        (BitVec.ofNat 64 ((s.wg g).core * 256 + st.toNat * 4 + (s.wg g).slot.getD 0 % 4)) none) ∧
    (∀ r : RvCsr,
      (r.csr = 0xC00 → Retires (.spokeCsrRead r) s s.begun 4 r.rd.toNat (BitVec.ofNat 64 ((s.ctx.cycle + 1) % 2 ^ 64)) none) ∧
      (r.csr = 0xC01 → Retires (.spokeCsrRead r) s s.begun 4 r.rd.toNat (BitVec.ofNat 64 (s.nowCore (s.wg g).core)) none) ∧
      (r.csr = 0xC02 → Retires (.spokeCsrRead r) s s.begun 4 r.rd.toNat (BitVec.ofNat 64 s.ctx.instret) none)) ∧
    Retires .spokeFenceI s s.begun 4 0 0 none ∧
    (∀ r : RvFence, s.spokeOrdered (r.succ != 0) (r.pred != 0) → Retires (.spokeFence r) s s.begun 4 0 0 none) ∧
    (s.outstanding (.spoke g st) = false → exec .spokeWfi s = .next (s.spokeStop (tryRetire g
      (((s.retired s.begun 4 0 0 none).modWg g (fun w => { w with report := max w.report s.ctx.ctg })).modSpoke g st (fun c =>
        { c with phase := .ended }))))) ∧
    exec .spokeEcall s = .next (haltCtx (.spoke g st) 0x125 pc 0 s.begun) ∧
    (∀ c, exec (.spokeEbreak c) s = .next (haltCtx (.spoke g st) 0x125 pc 0 s.begun)) ∧
    (∀ w, exec (.spokeIllegalInstruction w) s = .next
      (if s.ctx.badFetch then haltCtx (.spoke g st) 0x122 pc pc s.begun else haltCtx (.spoke g st) 0x121 pc w.toNat s.begun))

/-- R304 to R307: data accesses of a spoke that pass their checks. Scratchpad is read and written at once; a global load that the L1 serves returns its
bytes, and any other, and a global atomic, sends a request and retires with its answer; a global store is posted, or goes to the L1's untracked span of a
software-managed page. LR holds a reservation, and SC in scratchpad stores where one holds its bytes. An atomic of a software-managed page halts with 0x068.
(The model's own choice where log entries 6 and 30 say so.) -/
def Obligations.SpokeMemory : Prop :=
  ∀ s : State, CtxRuns s →
    let g := s.who.wg
    let st := s.who.store
    let x := s.xval g st
    let w := s.wg g
    let now := s.nowCore w.core
    let p : Party := .spoke g st
    let leafAt (va : Nat) (acc : Acc) (t : State) (l : Leaf) : Prop := s.begun.translate w.core w.troot w.trgen va acc w.prv = (t, .leaf l)
    let takes (t : State) (l : Leaf) (va : Nat) : Prop := t.stale l (l.at va) = false ∧ t.onHold (l.at va) = false
    let refused (k : Instr) (a : DWord) (n off : Nat) (acc : Acc) : Prop := ∀ t l, s.spokeOk a n true .global off → leafAt off acc t l → takes t l off →
      l.m = true → exec k s = .next (haltCtx p 0x068 s.ctx.pc off t)
    (∀ (r : RvLoad) (off : Nat),
      let n := 2 ^ r.w.toNat
      let a := x r.rs1 + r.imm.signExtend 64
      (s.spokeOk a n false .scratch off → Retires (.spokeLoad r) s s.begun (rvSize r.c) r.rd.toNat (loadExt n r.u (w.scratchRead off n)) none) ∧
      (∀ t bs, s.spokeOk a n false .const off → s.begun.vaRead g (w.cwin + off) n w.prv p 9 = (t, .ok bs) →
        Retires (.spokeLoad r) s t (rvSize r.c) r.rd.toNat (loadExt n r.u bs) none) ∧
      (∀ t l, s.spokeOk a n false .global off → leafAt off .load t l →
        let q := t.spokeReq g st (.xload n r.u r.rd.toNat) off l 0
        let span := spanOf (l.at off) n
        (∀ e, t.l1Entry q.l1 span.block = some e → t.l1Hit w.core e span l = true → t.earlierRead p [span] = false →
          Retires (.spokeLoad r) s (t.joinG p e.v) (rvSize r.c) r.rd.toNat (loadExt n r.u (e.bytesAt (l.at off) n)) none) ∧
        ((∀ e, t.l1Entry q.l1 span.block = some e → t.l1Hit w.core e span l = false ∨ t.earlierRead p [span] = true) → Sends (.spokeLoad r) s (t.sendMem q) (rvSize r.c)))) ∧
    (∀ (r : RvStore) (off : Nat),
      let n := 2 ^ r.w.toNat
      let a := x r.rs1 + r.imm.signExtend 64
      let v := (x r.rs2).toNat % 2 ^ (8 * n)
      (s.spokeOk a n true .scratch off →
        Retires (.spokeStore r) s ((s.begun.scratchWrite g off (bytesOfNat n v)).joinL p now) (rvSize r.c) 0 0 none) ∧
      (∀ t l, s.spokeOk a n true .global off → leafAt off .store t l → takes t l off →
        (l.m = false →
          Retires (.spokeStore r) s ((sendStore (t.spokeReq g st (.store n) off l v) [(l.at off, bytesOfNat n v)] t).joinL p now)
            (rvSize r.c) 0 0 none) ∧
        (l.m = true → t.untrackedWait w.core l w.troot w.trgen off n [(l.at off, bytesOfNat n v)] p = none →
          Retires (.spokeStore r) s ((storeUntracked w.core l w.troot w.trgen off n [(l.at off, bytesOfNat n v)] t).joinL p now)
            (rvSize r.c) 0 0 none))) ∧
    (∀ (r : RvAmo) (off : Nat), s.spokeOrdered r.aq r.rl →
      let n := if r.dbl then 8 else 4
      let a := x r.rs1
      let v := (x r.rs2).toNat % 2 ^ (8 * n)
      let old := natOfBytes (w.scratchRead off n)
      (s.spokeOk a n true .scratch off →
        Retires (.spokeAmo r) s ((s.begun.scratchWrite g off (bytesOfNat n (atomNew (amoFn r.op) n old v 0))).joinL p now) 4 r.rd.toNat
          (BitVec.ofNat 64 (signExtend64 n old)) none) ∧
      refused (.spokeAmo r) a n off .store ∧
      (∀ t l, s.spokeOk a n true .global off → leafAt off .store t l → takes t l off → l.m = false →
        let q := t.spokeReq g st (.xamo (amoFn r.op) n r.rd.toNat) off l v
        Sends (.spokeAmo r) s (((t.joinL p now).dropL1 q.l1 q.span).sendMem q) 4)) ∧
    (∀ (r : RvLr) (off : Nat), s.spokeOrdered r.aq r.rl →
      let n := if r.dbl then 8 else 4
      (s.spokeOk (x r.rs1) n true .scratch off →
        Retires (.spokeLr r) s
          (s.begun.modSpoke g st (fun c => { c with resv := some { scratch := true, addr := off, n := n, time := now } })) 4 r.rd.toNat
          (BitVec.ofNat 64 (signExtend64 n (natOfBytes (w.scratchRead off n)))) none) ∧
      refused (.spokeLr r) (x r.rs1) n off .load ∧
      (∀ t l, s.spokeOk (x r.rs1) n true .global off → leafAt off .load t l → takes t l off → l.m = false →
        let q := t.spokeReq g st (.xlr n r.rd.toNat) off l 0
        Sends (.spokeLr r) s ((t.dropL1 q.l1 q.span).sendMem q) 4)) ∧
    (∀ (r : RvSc) (off : Nat), s.spokeOrdered r.aq r.rl →
      let n := if r.dbl then 8 else 4
      let v := (x r.rs2).toNat % 2 ^ (8 * n)
      let u := s.begun.modSpoke g st (fun c => { c with resv := none })
      (s.spokeOk (x r.rs1) n true .scratch off →
        (∀ q, s.ctx.resv = some q → q.scratch = true → q.addr ≤ off → off + n ≤ q.addr + q.n → now < q.time + 64000 →
          Retires (.spokeSc r) s ((u.scratchWrite g off (bytesOfNat n v)).joinL p now) 4 r.rd.toNat 0 none) ∧
        (s.ctx.resv = none → Retires (.spokeSc r) s u 4 r.rd.toNat 1 none)) ∧
      refused (.spokeSc r) (x r.rs1) n off .store ∧
      (∀ t l, s.spokeOk (x r.rs1) n true .global off → leafAt off .store t l → takes t l off → l.m = false →
        let q := t.spokeReq g st (.xsc n r.rd.toNat) off l v
        Sends (.spokeSc r) s (((t.joinL p now).dropL1 q.l1 q.span).sendMem q) 4))

/-- R308 to R314: the extension of a spoke does what the words of the warp stream do with a copy, a handle, a ring or a barrier, with its operands in x
registers and its result zero-extended in rd. -/
def Obligations.SpokeExtension : Prop :=
  ∀ s : State, CtxRuns s →
    let g := s.who.wg
    let st := s.who.store
    let p : Party := .spoke g st
    let x (r : BitVec 5) : Nat := (s.xval g st r).toNat
    let gives (k : Instr) (rd : Nat) (r : HRes) : Prop := ∃ t v, r = .ok t v ∧ Retires k s t 4 rd (BitVec.ofNat 64 v) none
    (∀ (w : RvAB) (t : State) (nd : Nat) (l : Option Layout), s.begun.readLayout p g (x w.a / 64 * 64) (s.wg g).prv = (t, .ok (nd, l)) →
      let y (k : Nat) : Nat := (s.ctx.x.getD (w.b.toNat + k) 0).toNat
      let half (v k : Nat) : Int := (BitVec.ofNat 32 (v / 2 ^ (32 * k))).toInt
      let req (kind : Nat) (win : Bool) (aux : Nat) : CopyReq :=
        { kind := kind, win := win, h := x w.a % 64, recAddr := x w.a / 64 * 64, rec_ := l, aux := aux, prv := (s.wg g).prv
          coord := [half (y 0) 0, half (y 0) 1, half (y 1) 0, half (y 1) 1, half (y 2) 0] }
      let copies (k : Instr) (q : CopyReq) : Prop := t.copyPasses g q → ∃ u v, issueCopy p g q t = .ok u v ∧ Retires k s u 4 0 0 none
      copies (.spokeCpTensor w) (req 1 false (y 2 / 2 ^ 32)) ∧ copies (.spokeCpTensorW w) (req 1 true (y 2 / 2 ^ 32)) ∧
      copies (.spokeCpStore w) (req 2 false (y 2 / 2 ^ 32)) ∧ copies (.spokeCpGather w) (req 3 false (y 2 / 2 ^ 32)) ∧
      copies (.spokeCpMcast w) (req 4 false (y 2 / 2 ^ 32 % 16))) ∧
    (∀ w, s.entryIs g (x w.a % 64) .free → gives (.spokeHbAcq w) w.d.toNat (hbAcq g (x w.a % 64) s.begun)) ∧
    (∀ w, s.freeable g (x w.a % 64) → gives (.spokeHbRel w) 0 (hbRel g (x w.a % 64) s.begun)) ∧
    (∀ w, x w.a % 64 < (s.wg g).entries.length → gives (.spokeHbState w) w.d.toNat (hbState g (x w.a % 64) s.begun)) ∧
    (∀ w, x w.a % 64 < (s.wg g).entries.length → gives (.spokeCpFrec w) w.d.toNat (cpFrec g (x w.a % 64) (x w.b % 16) s.begun)) ∧
    (∀ w, x w.a % 32 < (s.wg g).rings.length → gives (.spokeRgNext w) w.d.toNat (rgCursor g (x w.a % 32) w.c true s.begun)) ∧
    (∀ w, x w.a % 32 < (s.wg g).rings.length → gives (.spokeRgPeek w) w.d.toNat (rgCursor g (x w.a % 32) w.c false s.begun)) ∧
    (∀ w : RvA, let h := x w.a % 64
      (s.resumable g h → gives (.spokeCpResume w) 0 (cpResume g h s.begun)) ∧
      (s.entryIs g h .full ∨ s.entryIs g h .filling → gives (.spokeCpAbort w) 0 (cpAbort g h s.begun)) ∧
      (s.fullAt g h ((s.xval g st w.a).getLsbD 6) →
        let time := ((s.wg g).entry h).cdone
        Retires (.spokeHbWait w) s ((s.begun.joinL p time).joinG p time) 4 0 0 none)) ∧
    (∀ b : Nat, s.ctxBarCause g b true = none → s.spokeRelease g st 0 s.ctx.ctl = none →
      let arrives (k : Instr) (d : Option Nat) : Prop := exec k s = .next (s.spokeStop (ctxArrive p g b d (s.retired s.begun 4 0 0 none)))
      (∀ w : RvDA, x w.a = b → arrives (.spokeSbarArv w) (some w.d.toNat)) ∧ (∀ w : RvA, x w.a = b → arrives (.spokeSbarSync w) none)) ∧
    (∀ w : RvAB, s.ctxBarCause g (x w.a) false = none →
      let tok := (s.xval g st w.b).getLsbD 0
      let u := s.retired s.begun 4 0 0 none
      exec (.spokeSbarWait w) s = .next (s.spokeStop (if ((s.wg g).bar (x w.a)).par = tok then
        u.modSpoke g st (fun c => { c with phase := .barrier (x w.a) tok }) else u)))

/-! ## The uniform sequencer and the matrix engine (R248 to R276) -/

/-- R252, R253, R249, R28, R46, R268, R267: control and scalar words of the matrix stream. A word holds its values, and its group writes them in
program order when it closes; MBR goes to its target where its condition holds; MLIMM keeps its literal for its consumer; MLDG reads the constant
window; MEND ends the context once every word has been performed; a reserved word halts it with 0x0E1, after the words before it. R249, R28: what a word of the matrix stream leaves in its context: the pc moves past it, its values wait for the end of the group, and a group that
closes writes them in program order.
(The model's own choice where log entries 53 and 57 say so.) -/
def Obligations.MatrixControl : Prop :=
  (∀ s : State, CtxRuns s →
      let g := s.who.wg
      let q := s.seq g
      (∀ (k : Instr) (w : Mg3) (f : DWord → DWord → DWord), matrixScalar k = some (w, f) →
        SeqHolds k s s w.s [(w.d.toNat, f (s.gval g w.a) (s.gbval g w.b))]) ∧
      (∀ w, SeqHolds (.mmov w) s s w.s [(w.d.toNat, s.gval g w.a)]) ∧
      (∀ w, SeqHolds (.maddi w) s s w.s [(w.d.toNat, s.gval g w.a + w.i.signExtend 64)]) ∧
      (∀ w, SeqHolds (.mnop w) s s w.s []) ∧ (∀ w, SeqHolds (.mhint w) s s w.s []) ∧
      (∀ w, exec (.mbr w) s = .next (s.seqStop (
        let t := s.modSeq g (fun q => q.finish true [])
        if mbrTaken w.n (s.gval g w.c) then t.modSeq g (fun p => { p with pc := (((q.pc : Int) + 4 * w.o.toInt) % ((2 ^ 56 : Nat) : Int)).toNat }) else t))) ∧
      (∀ (w : MiF) (t : State) (bs : List Byte),
        let off := ((s.gval g w.a).setWidth 32 + w.i.signExtend 32).toNat
        off % 8 = 0 → off + 8 ≤ (s.wg g).cwsize → s.vaRead g ((s.wg g).cwin + off) 8 (s.wg g).prv (.seq g) 7 = (t, .ok bs) →
        SeqHolds (.mldg w) s t w.s [(w.d.toNat, BitVec.ofNat 64 (natOfBytes bs))]) ∧
      (∀ (l w : Word) (t : State), s.fetchWord g ((q.pc + 8) % 2 ^ 56) (s.wg g).prv 7 = (t, .ok w) → mlimmConsumer w = true →
        exec (.mlimm l) s = .next (t.modSeq g (fun p => { p with lit := some (l.signExtend 64), cons := some w }))) ∧
      (∀ w, s.seqDrained g = true → exec (.mend w) s = .next (s.seqStop (tryRetire g ((s.modSeq g (fun p => p.finish true [])).modWg g (fun u =>
        { u with report := max u.report u.seq.report, seq := { u.seq with phase := .ended, tiles := u.seq.tiles.map Tile.discard } }))))) ∧
      (∀ w, (s.seqDrained g = true → exec (.matrixReservedEncoding w) s = .next (haltCtx (.seq g) 0x0E1 q.pc w.toNat (s.modSeq g Seq.commit))) ∧
        (s.seqDrained g = false → exec (.matrixReservedEncoding w) s = .next (s.modSeq g (fun p =>
          { p.commit with phase := .halted, lit := none, cons := none, fault := some { cause := 0x0E1, pc := q.pc, val := w.toNat } })))) ∧
      (∀ w : MA1, let h := (s.gval g w.a).toNat % 64
        (s.fullAt g h ((s.gval g w.a).getLsbD 6) → SeqHolds (.mhwait w) s s true []) ∧
        (q.cmds.any Cmd.reads = false → s.freeable g h → ∃ t, hbRel g h s = .ok t 0 ∧ SeqHolds (.mhrel w) s t true [])) ∧
      (∀ b : Nat, s.ctxBarCause g b true = none → q.cmds.any Cmd.isMld = false →
        let arrives (k : Instr) (d : Option Nat) : Prop := exec k s = .next (s.seqStop (ctxArrive (.seq g) g b d (s.modSeq g (fun q => q.finish true []))))
        (∀ w : MDB, b = w.b.toNat + 1 → arrives (.marv w) (some w.d.toNat)) ∧ (∀ w : MB1, b = w.b.toNat + 1 → arrives (.msync w) none)) ∧
      (∀ w : MAB, s.ctxBarCause g (w.b.toNat + 1) false = none → ((s.wg g).bar (w.b.toNat + 1)).par ≠ (s.gval g w.a).getLsbD 0 →
        SeqHolds (.mwait w) s s true [])) ∧
  (∀ (q : Seq) (closes : Bool) (ws : List (Nat × DWord)),
      let k := if q.lit.isSome then 3 else 1
      let r := q.finish closes ws
      r.pc = (q.pc + 4 * k) % 2 ^ 56 ∧ r.lit = none ∧ r.cmds = q.cmds ∧ r.tiles = q.tiles ∧ r.window = q.window ∧
      (closes = false → q.n + k < 16 → r.g = q.g ∧ r.held = q.held ++ ws ∧ r.n = q.n + k) ∧
      (closes = true ∨ 16 ≤ q.n + k → r.held = [] ∧ r.n = 0 ∧ ∀ d, d < q.g.length →
        r.g.getD d 0 = (((q.held ++ ws).filter (fun p => p.1 == d)).getLast?.map Prod.snd).getD (q.g.getD d 0)))

/-- R255 to R266, R271, R272: the words for the engine that pass their checks at issue, while the queue of 16 has room, go to it in order, with the values of
their registers; MSTAT reads the status word once the tile is quiet.
(The model's own choice where log entry 32 says so.) -/
def Obligations.MatrixWords : Prop :=
  ∀ s : State, CtxRuns s →
    let g := s.who.wg
    let q := s.seq g
    let has (t : BitVec 4) : Prop := t.toNat < s.tileCount g
    q.cmds.length < 16 →
    (∀ (w : MldaF) (cls : Nat), fmtClass w.f.toNat = some cls → fmtOnlyB w.f.toNat = false →
      let off := (s.gval g w.a).toNat % 2 ^ 32
      let stride := (s.gbval g w.b).toNat % 2 ^ 32
      let n := panelRecord w.f.toNat (kDense cls * (1 + w.x.toNat))
      off % 4 = 0 → stride % 4 = 0 → n ≤ stride → off + 63 * stride + n ≤ (s.wg g).scratchSize →
      Enqueues (.mldA w) s s w.s (.mldA w.k.toNat w.x w.f.toNat) (s.gval g w.a) (s.gbval g w.b)
        (fun q => { q with islots := q.islots.set w.k.toNat (some (w.f.toNat, w.x)) }) []) ∧
    (∀ w : Mab,
      let off := (s.gval g w.a).toNat % 2 ^ 32
      let n := if (s.gval g w.a).toNat / 2 ^ 32 % 2 ^ 16 = 0 then 65536 else (s.gval g w.a).toNat / 2 ^ 32 % 2 ^ 16
      let win := (s.gbval g w.b).toNat % 2 ^ 16
      off % 16 = 0 → n % 16 = 0 → off + n ≤ (s.wg g).scratchSize → win % 16 = 0 → win + n ≤ 65536 →
      Enqueues (.mldB w) s s w.s .mldB (s.gval g w.a) (s.gbval g w.b) id []) ∧
    (∀ (w : MmaF) (cls k : Nat) (d : Bool), has w.t → mmaShape w.f.toNat w.g.toNat = some (cls, k) →
      q.islots.getD w.k.toNat none = some (w.f.toNat, d) → k ≤ kDense ((fmtClass w.f.toNat).getD 0) * (1 + d.toNat) →
      let off := (s.gbval g w.b).toNat % 2 ^ 16
      let int := intFormat w.f.toNat && intFormat w.g.toNat
      off % 16 = 0 → off + 64 * columnRecord w.g.toNat k ≤ 65536 → ((q.at w.t.toNat).valid = true → w.z = false → (q.at w.t.toNat).kind = int) →
      q.isTarget w.t.toNat = false →
      Enqueues (.mma w) s s w.s (.mma w.t.toNat w.k.toNat w.f.toNat w.g.toNat w.z) 0 (s.gbval g w.b)
        (fun q => q.setAt w.t.toNat (fun x => { x with valid := true, kind := if w.z || !x.valid then int else x.kind })) []) ∧
    (∀ w : MT1, has w.t → q.isTarget w.t.toNat = false →
      let clears (k : Instr) (int : Bool) : Prop :=
        Enqueues k s s w.s (.mclr w.t.toNat int) 0 0 (fun q => q.setAt w.t.toNat (fun x => { x with valid := true, kind := int })) []
      clears (.mclr w) false ∧ clears (.mclrI w) true) ∧
    (∀ w : MstatF, has w.t → s.tileQuiet g w.t.toNat = true → SeqHolds (.mstat w) s s true [(w.d.toNat, BitVec.ofNat 64 (q.status w.t.toNat))]) ∧
    (∀ w : MpushF, has w.t → (q.at w.t.toNat).shadow = false → (w.c = true → q.isTarget w.t.toNat = false) →
      let f := (s.gval g w.a).toNat % 64
      let n := (s.gval g w.a).toNat / 256 % 128
      n ≠ 0 → f + n ≤ 64 →
      Enqueues (.mpush w) s s w.s (.mpush w.t.toNat w.c) (s.gval g w.a) (s.gbval g w.b)
        (fun q => if w.c && f == 0 && n == 64 then q.setAt w.t.toNat (fun x => { x with valid := false }) else q) []) ∧
    (∀ w : MstF, has w.t → (q.at w.t.toNat).shadow = false → (w.c = true → q.isTarget w.t.toNat = false) →
      (storeBits (q.at w.t.toNat).kind w.f.toNat).isSome = true → (s.gval g w.a).toNat % 4 = 0 → (s.gbval g w.b).toNat % 4 = 0 →
      (s.gval g w.a).toNat < 2 ^ 56 →
      Enqueues (.mst w) s s w.s (.mst w.t.toNat w.f.toNat w.r.toNat w.x w.c) (s.gval g w.a) (s.gbval g w.b)
        (fun q => if w.c then q.setAt w.t.toNat (fun x => { x with valid := false }) else q) []) ∧
    (∀ w : MspecF, has w.u → has w.t → q.openShadows.length < 4 → w.u ≠ w.t → (q.at w.u.toNat).shadow = false → q.isTarget w.u.toNat = false →
      (q.at w.t.toNat).shadow = false → q.isTarget w.t.toNat = false →
      Enqueues (.mspec w) s s w.s (.mspec w.u.toNat w.t.toNat w.z) 0 0 (fun p => p.setAt w.u.toNat (fun x =>
        { x with valid := true, shadow := true, target := w.t.toNat, kind := (q.at w.t.toNat).valid && (q.at w.t.toNat).kind })) []) ∧
    (∀ (set : Nat) (c : DWord), (∀ u, u < 16 → set.testBit u = true → u < s.tileCount g ∧ (q.at u).shadow = true) →
      (∀ w : Mg3, set = (s.gval g w.a).toNat % 65536 → c = s.gval g w.b →
        Enqueues (.mresolve w) s s true .mresolve (BitVec.ofNat 64 set) c (fun q => q.resolveAt set (c != 0)) [(w.d.toNat, c)]) ∧
      (∀ (w : MresSigF) (v : Word), set = (s.gval g w.a).toNat % 65536 → q.sig.getD w.k.toNat none = some v → c = v.setWidth 64 →
        Enqueues (.mresolveSig w) s s true .mresolve (BitVec.ofNat 64 set) c
          (fun q => { q with sig := q.sig.set w.k.toNat none }.resolveAt set (c != 0)) [(w.d.toNat, c)])) ∧
    (∀ (w : McommitF) (t : State) (l : Leaf), has w.t → (q.at w.t.toNat).shadow = false → (s.gval g w.a).toNat % 4 = 0 →
      (s.gval g w.a).toNat < 2 ^ 56 →
      s.translate (s.wg g).core (s.wg g).troot (s.wg g).trgen (s.gval g w.a).toNat .store (s.wg g).prv = (t, .leaf l) → l.m = false →
      Enqueues (.mcommit w) s t w.s (.mcommit w.t.toNat) (s.gval g w.a) 0 id [])

/-- R250, R256 to R266, R271, R272: what the engine performs. The head of the queue is performed while the workgroup runs, and a cause it detects halts the
context, with the values of the words that have issued, once every earlier word is done. MMA gives each element the accumulation of its panel row and its column; MCLR clears; MSPEC copies its target; MRESOLVE writes the shadows back
where the condition holds and closes them; MLD.A fills its slot with the 64 panel rows of scratchpad, MLD.B the window with scratchpad bytes; MPUSH puts a row
with its tag at the end of the queue, and MST writes a row's bytes at its address, each row by row: the last row of a whole tile clears DIRTY, and VALID where
c is set; MCOMMIT sends the decrement once Now has reached the time of the tile's stores.
(The model's own choice where log entries 5, 32 and 67 say so.) -/
def Obligations.MatrixPerforms : Prop :=
  ∀ (s : State) (g : Nat), g < s.wgs.length → (s.wg g).phase = .running → (s.wg g).preq = none →
    (∀ (c : Cmd) (rest : List Cmd), (s.seq g).cmds = c :: rest →
      (∀ t, performCmd g c s = .fin t → exec (.matrixCommandPerform g) s = .next (settleFault g (t.modSeq g (fun q => { q with cmds := rest })))) ∧
      (∀ t, performCmd g c s = .row t →
        exec (.matrixCommandPerform g) s = .next (t.modSeq g (fun q => { q with cmds := { c with row := c.row + 1 } :: rest }))) ∧
      (∀ t k v, performCmd g c s = .trap k v t →
        exec (.matrixCommandPerform g) s = .next (settleFault g (t.modSeq g (fun q =>
          { q.commit with cmds := [], lit := none, cons := none, phase := .halted, fault := some { cause := k, pc := c.pc, val := v } }))))) ∧
    (∀ (c : Cmd) (t slot fa fb cls k : Nat) (z : Bool) (p : Panel), c.op = .mma t slot fa fb z → mmaShape fa fb = some (cls, k) →
      (s.seq g).slots.getD slot none = some p → (s.seq g).badIndex fb k (c.b.toNat % 2 ^ 16) = none → t < (s.seq g).tiles.length →
      let int := intFormat fa && intFormat fb
      let q := s.seq g
      let old (i j : Nat) : Word := if z then 0 else ((q.tile t).row i).getD j 0
      let a (i : Nat) := panelValues fa (kDense ((fmtClass fa).getD 0) * (1 + p.d.toNat)) k (p.rows.getD i [])
      let b (j : Nat) := columnValues fb k (q.windowRead (c.b.toNat % 2 ^ 16 + j * columnRecord fb k) (columnRecord fb k))
      ∃ u, performCmd g c s = .fin u ∧ u.mem = s.mem ∧ ((u.seq g).tile t).valid = true ∧ ((u.seq g).tile t).dirty = true ∧
        (∀ t', t' ≠ t → (u.seq g).tile t' = q.tile t') ∧
        ∀ i j, i < 64 → j < 64 → (((u.seq g).tile t).row i).getD j 0 =
          if int then (accumInt (groupSize cls) (old i j) (a i) (b j)).1 else accumFloat (groupSize cls) (old i j) (a i) (b j)) ∧
    (∀ (c : Cmd) (t : Nat) (int : Bool), c.op = .mclr t int → t < (s.seq g).tiles.length →
      ∃ u, performCmd g c s = .fin u ∧ ((u.seq g).tile t).valid = true ∧ ((u.seq g).tile t).kind = int ∧
        ∀ i j, (((u.seq g).tile t).row i).getD j 0 = 0) ∧
    (∀ (c : Cmd) (t x : Nat), c.op = .mspec t x false → t < (s.seq g).tiles.length → x ≠ t →
      ∃ u, performCmd g c s = .fin u ∧ ((u.seq g).tile t).shadow = true ∧ ((u.seq g).tile t).target = x ∧
        (∀ i, ((u.seq g).tile t).row i = ((s.seq g).tile x).row i) ∧ (u.seq g).tile x = (s.seq g).tile x) ∧
    (∀ (c : Cmd) (t x : Nat), c.op = .mresolve → c.a.toNat = 2 ^ t → t < 16 → x < 16 → x ≠ t → (s.seq g).tiles.length = 16 →
      ((s.seq g).tile t).target = x → ((s.seq g).tile t).valid = true →
      ∃ u, performCmd g c s = .fin u ∧ ((u.seq g).tile t).valid = false ∧ ((u.seq g).tile t).shadow = false ∧
        (c.b ≠ 0 → ∀ i, ((u.seq g).tile x).row i = ((s.seq g).tile t).row i) ∧ (c.b = 0 → (u.seq g).tile x = (s.seq g).tile x)) ∧
    (∀ (c : Cmd) (slot fa : Nat) (d : Bool), c.op = .mldA slot d fa → slot < (s.seq g).slots.length →
      let off := c.a.toNat % 2 ^ 32
      let stride := c.b.toNat % 2 ^ 32
      ∃ (u : State) (p : Panel), performCmd g c s = .fin u ∧ u.mem = s.mem ∧ (u.seq g).tiles = (s.seq g).tiles ∧
        (u.seq g).slots.getD slot none = some p ∧ p.fa = fa ∧ p.d = d ∧
        (∀ r, r < 64 → p.rows.getD r [] =
          (s.wg g).scratchRead (off + r * stride) (panelRecord fa (kDense ((fmtClass fa).getD 0) * (1 + d.toNat)))) ∧
        ∀ j, j ≠ slot → (u.seq g).slots.getD j none = (s.seq g).slots.getD j none) ∧
    (∀ c : Cmd, c.op = .mldB →
      let off := c.a.toNat % 2 ^ 32
      let n := if c.a.toNat / 2 ^ 32 % 2 ^ 16 = 0 then 65536 else c.a.toNat / 2 ^ 32 % 2 ^ 16
      let win := c.b.toNat % 2 ^ 16
      ∃ u, performCmd g c s = .fin u ∧ u.mem = s.mem ∧ (u.seq g).tiles = (s.seq g).tiles ∧
        ∀ a, (u.seq g).windowByte a = if win ≤ a ∧ a < win + n then cellGet (s.wg g).scratch (off + (a - win)) else (s.seq g).windowByte a) ∧
    (∀ (c : Cmd) (t : Nat) (clear : Bool), c.op = .mpush t clear → t < (s.seq g).tiles.length →
      let i := c.a.toNat % 64 + c.row
      let n := c.a.toNat / 256 % 128
      let x := (s.seq g).tile t
      (64 ≤ (s.seq g).queue.length → performCmd g c s = .later s) ∧
      ((s.seq g).queue.length < 64 → ∃ u, performCmd g c s = (if c.row + 1 = n then .fin u else .row u) ∧ u.mem = s.mem ∧
        (u.seq g).queue = (s.seq g).queue ++ [{ tag := BitVec.ofNat 32 (c.b.toNat % 2 ^ 16 * 2 ^ 16 + t * 2 ^ 12 + i), words := x.row i,
                                                 time := (s.seq g).report }] ∧
        ((u.seq g).tile t).rows = x.rows ∧
        (c.row + 1 = n ∧ n = 64 → ((u.seq g).tile t).dirty = false ∧ ((u.seq g).tile t).valid = (x.valid && !clear)) ∧
        (¬(c.row + 1 = n ∧ n = 64) → (u.seq g).tile t = x))) ∧
    (∀ (c : Cmd) (t fd rm bits : Nat) (sat clear : Bool) (v : State) (l : Leaf), c.op = .mst t fd rm sat clear → t < (s.seq g).tiles.length →
      storeBits ((s.seq g).tile t).kind fd = some bits →
      let w := s.wg g
      let x := (s.seq g).tile t
      let va := c.a.toNat + c.row * (c.b.toNat % 2 ^ 32)
      let bs := storeRow x.kind fd bits (RM.ofCode rm) sat (x.row c.row)
      va < 2 ^ 56 → va % 256 + bs.length ≤ 256 → s.translate w.core w.troot w.trgen va .store w.prv = (v, .leaf l) →
      v.stale l (l.at va) = false → l.m = false → v.wholeCause (l.at va) = none → v.onHold (l.at va) = false →
      v.homeBusy (dieOfCore w.core) true (l.at va) bs.length (.seq g) = false →
      let r := v.homeStore l.key (l.at va) bs
      ∃ u, performCmd g c s = (if c.row = 63 then .fin u else .row u) ∧ u.mem = r.1.mem ∧ (u.seq g).report = max (s.seq g).report r.2 ∧
        ((u.seq g).tile t).rows = x.rows ∧ ((u.seq g).tile t).ctime = max x.ctime r.2 ∧
        ((u.seq g).tile t).dirty = (x.dirty && decide (c.row ≠ 63)) ∧
        ((u.seq g).tile t).valid = (x.valid && !(clear && decide (c.row = 63)))) ∧
    (∀ (int : Bool) (rm : RM) (sat : Bool) (row : List Word) (j : Nat), j < 64 →
      natOfBytes (storeRow int 0 32 rm sat row) / 2 ^ (32 * j) % 2 ^ 32 = (row.getD j 0).toNat) ∧
    (∀ (k : Nat) (c : Commit), (s.seq g).commits[k]? = some c → c.time ≤ s.nowCore (s.wg g).core →
      (∀ a b d, (s.seq g).phase ≠ .stopped a b d) →
      ∃ (t : State) (r : EngReq), exec (.tileRetire g k) s = .next t ∧ t.reqs = s.reqs ++ [.eng r] ∧ r.party = .seq g ∧ r.op = .depDec ∧
        r.vals = [c.pa, c.va] ∧ r.die = homeDie c.pa ∧ (t.seq g).commits = (s.seq g).commits.eraseIdx k ∧ t.mem = s.mem)

/-- R264, R269, R270: the words of the warp stream on the queue, tiles and signals. QPOP gives the executing lanes the oldest row and takes it away; MTRD gives each
lane the element that it names; MTWR writes it for the highest lane that names it; TILESTAT and MQCNT read; MSIG fills a free slot.
(The model's own choice where log entry 32 says so.) -/
def Obligations.MatrixWarpWords : Prop :=
  ∀ s : State, (s.wgOf s.who.split).matrix = true →
    let i := s.who.split
    let g := s.mine
    let q := s.seq g
    (∀ (w : QpopF) (r : QRow) (rest : List QRow), s.me.awaiting = false → s.widthOf i = 64 → RegsReady s [w.d.toNat] → s.lanes ≠ 0 → q.queue = r :: rest →
      r.time ≤ s.nowOf i →
      ∃ (t : State) (held : List Held), t = s.modSeq g (fun p => { p with queue := rest }) ∧ Holds (.qpop w) s true t held ∧
        (∀ l, l < 64 → s.lanes.getLsbD l = true → HoldsLane held w.d.toNat l [.val (r.words.getD l 0)]) ∧
        (w.t = true → .sset w.e.toNat (.val r.tag) ∈ held)) ∧
    (∀ w : MtrF, RegsReady s [w.d.toNat, w.a.toNat] → w.t.toNat < s.tileCount g → q.infl w.t.toNat = false → (q.tile w.t.toNat).shadow = false →
      let index (l : Nat) : PWord := ((s.warpOf i).reg w.a.toNat).lane l
      let data (l : Nat) : PWord := ((s.warpOf i).reg w.d.toNat).lane l
      ((mrPX s.me.mr = true → ∀ l, s.lanes.getLsbD l = true → (index l).isPoison = false) →
        ∃ held, Holds (.mtrd w) s w.s s held ∧ ∀ l, l < s.widthOf i → s.lanes.getLsbD l = true → l < 128 →
          (∀ a, index l = .val a → HoldsLane held w.d.toNat l [.val (((q.tile w.t.toNat).row (a.toNat / 64 % 64)).getD (a.toNat % 64) 0)]) ∧
          (index l = .poison → HoldsLane held w.d.toNat l [.poison])) ∧
      (s.me.awaiting = false → (mrPX s.me.mr = true → ∀ l, s.lanes.getLsbD l = true → (index l).isPoison = false ∧ (data l).isPoison = false) →
        q.tiles.any (fun u => u.shadow && u.target == w.t.toNat) = false → g < s.wgs.length → w.t.toNat < q.tiles.length →
        let writes (r c l : Nat) : Bool := !(index l).isPoison && (index l).bits.toNat % 4096 == r * 64 + c
        ∃ t, Holds (.mtwr w) s w.s t (lastUses s.lanes [(w.x, w.a)]) ∧ ∀ r c, r < 64 → c < 64 →
          (((t.seq g).tile w.t.toNat).row r).getD c 0 =
            match if (q.tile w.t.toNat).valid then ((lanesIn (s.widthOf i) s.lanes).filter (writes r c)).getLast? else none with
            | some l => (data l).bits
            | none => ((q.tile w.t.toNat).row r).getD c 0)) ∧
    (∀ w : TilestatF, w.t.toNat < s.tileCount g → Holds (.tilestat w) s w.s s (setScalar w.d (q.status w.t.toNat))) ∧
    (∀ w : SD, Holds (.mqcnt w) s w.s s (setScalar w.d q.queue.length)) ∧
    (∀ w : MsigF, s.me.awaiting = false → ((s.ssrc i w.a).isPoison = true → mrPX s.me.mr = false) → q.sig.getD w.k.toNat none = none →
      s.fenceWait i 0 = none →
      Holds (.msig w) s true (s.modSeq g (fun p => { p with sig := p.sig.set w.k.toNat (some (s.ssrc i w.a).bits) })) [])

/-! ## The transfer engine (R277 to R300) -/

/-- R279, R290, R291, R294, R295: the operations on handles and rings. HB.ACQ makes a free handle filling, with no kind and nothing arrived; HB.WAIT answers
on a full handle of its parity, takes the cause of a fault else, and waits where there is none; HB.REL frees a full handle, and one that fills without a
copy; CP.ABORT frees those too, and stops a copy in progress; CP.RESUME clears a fault, and the copy goes on from the element that failed; HB.STATE and
CP.FREC read; a ring cursor gives its stage's handle and advances.
(The model's own choice where log entry 31 says so.) -/
def Obligations.HandleOperations : Prop :=
  ∀ (s : State) (g h : Nat), g < s.wgs.length → h < (s.wg g).entries.length →
    let e := (s.wg g).entry h
    (e.st = .free → ∃ t, hbAcq g h s = .ok t (h + if e.phase then 0 else 64) ∧
      ((t.wg g).entry h).st = .filling ∧ ((t.wg g).entry h).kind = 0 ∧ ((t.wg g).entry h).fault = false ∧
      ((t.wg g).entry h).arrived = 0 ∧ ((t.wg g).entry h).phase = e.phase ∧ t.mem = s.mem ∧ ∀ j, j ≠ h → (t.wg g).entry j = (s.wg g).entry j) ∧
    (∀ p, (e.st = .full → e.phase = p → hbWait g h p s = .ok s e.cdone) ∧
      (∀ f, ¬(e.st = .full ∧ e.phase = p) → e.fault = true → e.frec = some f → hbWait g h p s = .trap f.cause f.va) ∧
      (¬(e.st = .full ∧ e.phase = p) → e.fault = false → hbWait g h p s = .wait (.entryFull h p))) ∧
    (e.st = .full ∨ (e.st = .filling ∧ e.kind = 0) → ∃ t, hbRel g h s = .ok t 0 ∧ ((t.wg g).entry h).st = .free ∧
      ((t.wg g).entry h).phase = e.phase ∧ t.mem = s.mem) ∧
    (e.st = .free ∨ e.st = .draining ∨ (e.st = .filling ∧ e.kind ≠ 0) → hbRel g h s = .trap 0x102 e.hstat) ∧
    hbState g h s = .ok s e.hstat ∧
    (∀ k f, e.frec = some f → cpFrec g h k s = .ok s (f.word k)) ∧
    (∀ (n : Nat) (r : Ring), (s.wg g).rings[n]? = some r →
      let moved (stage : Nat) (par : Bool) (stage2 : Nat) (par2 : Bool) : Prop :=
        stage2 = (if stage + 1 = r.stages then 0 else stage + 1) ∧ par2 = (if stage + 1 = r.stages then !par else par)
      (∃ t q, rgCursor g n false true s = .ok t (r.first + r.pStage + if r.pPar then 64 else 0) ∧ (t.wg g).rings[n]? = some q ∧
        q.cStage = r.cStage ∧ q.cPar = r.cPar ∧ moved r.pStage r.pPar q.pStage q.pPar) ∧
      (∃ t q, rgCursor g n true true s = .ok t (r.first + r.cStage + if r.cPar then 64 else 0) ∧ (t.wg g).rings[n]? = some q ∧
        q.pStage = r.pStage ∧ q.pPar = r.pPar ∧ moved r.cStage r.cPar q.cStage q.cPar) ∧
      rgCursor g n false false s = .ok s (r.first + r.pStage + if r.pPar then 64 else 0) ∧
      rgCursor g n true false s = .ok s (r.first + r.cStage + if r.cPar then 64 else 0)) ∧
    (e.st = .full ∨ s.entryDone g h = true ∨ (e.st = .filling ∧ e.copy = none) → ∃ t, cpAbort g h s = .ok t 0 ∧ ((t.wg g).entry h).st = .free) ∧
    (∀ k c, e.st = .filling → s.entryDone g h = false → e.copy = some k → s.copyOf k = some c →
      cpAbort g h s = .ok (if c.wg = g then stopCopy k s else stopDelivery k g c s) 0) ∧
    (e.st = .free ∨ e.st = .draining → cpAbort g h s = .trap 0x102 e.hstat) ∧
    (∀ k c, e.st = .filling → e.fault = true → e.copy = some k → s.copyOf k = some c → ∃ t, cpResume g h s = .ok t 0 ∧
      ((g, h) ∈ c.served → ((t.wg g).entry h).fault = false) ∧
      ∀ f off, c.fail = some (f, off) → ∃ x, t.copyOf k = some x ∧ x.fail = none ∧ x.sent = f.off ∧ x.again = max off c.again)

/-- R282, R283, R287 to R289, R295, R290, R291: the words of the transfer engine. A copy word reads its layout record as a load and its leader's registers,
and issues the copy where it passes the checks of R283; with no executing lane it does nothing; the handle words do their operation and hold its value.
(The model's own choice where log entry 31 says so.) -/
def Obligations.CopyWords : Prop :=
  ∀ s : State,
    let i := s.who.split
    let g := s.mine
    let reg (lane k : Nat) : PWord := ((s.warpOf i).reg k).lane lane
    (∀ (kind : Nat) (win closes : Bool) (h c : BitVec 6) (l : BitVec 5) (mask : Nat) (k : Instr),
      (∃ w : CpF, k = .cpTensor w ∧ kind = 1 ∧ win = false ∧ closes = w.s ∧ h = w.h ∧ c = w.c ∧ l = w.l ∧ mask = 0) ∨
        (∃ w : CpF, k = .cpTensorW w ∧ kind = 1 ∧ win = true ∧ closes = w.s ∧ h = w.h ∧ c = w.c ∧ l = w.l ∧ mask = 0) ∨
        (∃ w : CpF, k = .cpStore w ∧ kind = 2 ∧ win = false ∧ closes = w.s ∧ h = w.h ∧ c = w.c ∧ l = w.l ∧ mask = 0) ∨
        (∃ w : CpF, k = .cpGather w ∧ kind = 3 ∧ win = false ∧ closes = w.s ∧ h = w.h ∧ c = w.c ∧ l = w.l ∧ mask = 0) ∨
        (∃ w : CpMF, k = .cpMcast w ∧ kind = 4 ∧ win = false ∧ closes = w.s ∧ h = w.h ∧ c = w.c ∧ l = w.l ∧ mask = w.m.toNat) →
      let aux := win || kind == 3
      RegsReady s ([h.toNat, c.toNat] ++ if aux then [h.toNat + 1] else []) →
      (s.lanes = 0 → Holds k s closes s []) ∧
      (∀ (lane va nd : Nat) (lo hi : Word) (t : State) (r : Option Layout), s.me.awaiting = false → lowestLane s.lanes = some lane →
        s.me.sreg l.toNat = .val lo → s.me.sreg (l.toNat + 1) = .val hi → va = lo.toNat + hi.toNat * 2 ^ 32 →
        s.readLayout (.split i) g va s.me.prv = (t, .ok (nd, r)) →
        let used := (List.range nd).filter (fun d => !(kind == 3 && d == 1))
        let q : CopyReq :=
          { kind := kind, win := win, h := (reg lane h.toNat).bits.toNat % 64, recAddr := va, rec_ := r
            coord := (List.range 5).map (fun d => if Nat.blt d nd then (reg lane (c.toNat + d)).bits.toInt else 0)
            aux := if aux then (reg lane (h.toNat + 1)).bits.toNat else mask, prv := s.me.prv }
        RegsReady s (used.map (fun d => c.toNat + d)) →
        (reg lane h.toNat).isPoison = false → (aux = true → (reg lane (h.toNat + 1)).isPoison = false) →
        (∀ d ∈ used, (reg lane (c.toNat + d)).isPoison = false) → t.copyPasses g q →
        ∃ u v, issueCopy (.split i) g q t = .ok u v ∧ Holds k s closes u [])) ∧
    (∀ (a : BitVec 5) (v : Word), s.ssrc i a = .val v →
      let h := v.toNat % 64
      let gives (k : Instr) (closes : Bool) (r : HRes) (held : Nat → List Held) : Prop := ∃ t x, r = .ok t x ∧ Holds k s closes t (held x)
      (s.me.awaiting = false →
        (∀ w : SDA, w.a = a → s.entryIs g h .free → gives (.hbAcq w) true (hbAcq g h s) (setScalar w.d)) ∧
        (∀ w : SA, w.a = a → s.freeable g h → gives (.hbRel w) true (hbRel g h s) (fun _ => [])) ∧
        (∀ w : SA, w.a = a → s.fullAt g h (v.getLsbD 6) →
          let time := ((s.wg g).entry h).cdone
          Holds (.hbWait w) s true ((s.joinL (.split i) time).joinG (.split i) time) []) ∧
        (∀ w : RgF, w.a = a → v.toNat % 32 < (s.wg g).rings.length → gives (.rgNext w) w.s (rgCursor g (v.toNat % 32) w.c true s) (setScalar w.d)) ∧
        (∀ w : SA, w.a = a → s.resumable g h → gives (.cpResume w) w.s (cpResume g h s) (fun _ => [])) ∧
        (∀ w : SA, w.a = a → s.entryIs g h .full ∨ s.entryIs g h .filling → gives (.cpAbort w) w.s (cpAbort g h s) (fun _ => []))) ∧
      (h < (s.wg g).entries.length →
        (∀ w : SDA, w.a = a → gives (.hbState w) w.s (hbState g h s) (setScalar w.d)) ∧
        (∀ w : FrecF, w.a = a → gives (.cpFrec w) w.s (cpFrec g h w.k.toNat s) (setScalar w.d))))

/-- R283, R284, R279, R288, R293: a copy whose handle is filling and whose box fits it is issued, and its entry expects its bytes. The engine then reads or owns each
unit, writes it where it goes, counts it in ARRIVED, and makes the handle full with the last; a unit that fails raises FAULT once the earlier ones are
released. A copy whose tag is cancelled sends no more units (R298).
(The model's own choice where log entries 5, 31 and 58 say so.) -/
def Obligations.CopiesProceed : Prop :=
  ∀ (s : State) (g h : Nat), g < s.wgs.length → h < (s.wg g).entries.length →
    let e := (s.wg g).entry h
    (∀ (p : Party) (r : CopyReq) (l : Layout), r.h = h → r.rec_ = some l → r.win = false → r.kind = 1 ∨ r.kind = 2 → e.st = .filling → e.kind = 0 →
      let bytes := 2 ^ l.fmt * l.dim.foldl (fun a d => a * d) 1
      bytes ≤ e.size → s.tagCancelled (dieOfCore (s.wg g).core) (s.wg g).ltag = false → ∃ (u : State) (k : Nat) (c : Copy), issueCopy p g r s = .ok u 0 ∧ u.copies[k]? = some c ∧ c.live = true ∧ c.kind = r.kind ∧
        c.base = l.base ∧ c.dim = l.dim ∧ c.stride = l.stride ∧ c.coord = r.coord ∧ c.bytes = bytes ∧ c.sent = 0 ∧
        ((u.wg g).entry h).copy = some k ∧ ((u.wg g).entry h).kind = r.kind ∧ ((u.wg g).entry h).expected = bytes ∧ u.mem = s.mem) ∧
    (∀ (k : Nat) (c : Copy), e.copy = some k → s.copyOf k = some c →
      (c.stop = false → s.tagCancelled (dieOfCore c.core) c.ltag = false → c.fail = none → c.sent < c.bytes → c.flight.length < 32 →
        exec (.ownershipRequest g h) s = .next (sendUnit k c s)) ∧
      (c.stop = false → s.tagCancelled (dieOfCore c.core) c.ltag = true → exec (.ownershipRequest g h) s = .next (stopCopy k s)) ∧
      (∀ n : Nat, ∀ u : Machine.Unit, c.flight[n]? = some u → c.kind = 1 → c.win = false → c.stop = false → c.dests = [] → c.issuer = true → c.own = true →
        c.wg = g → c.h = h → c.again = 0 → u.more = [] →
        ∃ v, exec (.copyUnitRelease g h n) s = .next (tryRetire g v) ∧ v.mem = s.mem ∧ ((v.wg g).entry h).arrived = e.arrived + u.n ∧
          ((v.wg g).entry h).cdone = max e.cdone (s.nowCore (s.wg g).core)) ∧
      (∀ n : Nat, ∀ u : Machine.Unit, c.flight[n]? = some u → c.kind = 2 →
        s.wholeCause u.span.base = none → s.homeBusy (dieOfCore c.core) true u.span.base (4 * u.span.count) (.copy k) = false →
        ∃ t, exec (.copyUnitRelease g h n) s = .next t ∧ t.mem = (s.storeUnit u.leaf.key u.span (c.unitWrites u)).1.mem) ∧
      (c.fail.isSome = true → c.raised = false → c.flight = [] → c.stop = false →
        exec (.copyUnitFault g h) s = .next (foldState (c.attached.map Prod.fst) tryRetire (raiseCopy k s))) ∧
      (∀ rank, exec (.mcastDeliveryAccept g h rank) s = .next (acceptDelivery k rank s)) ∧
      (∀ (rank : Nat) (d : Delivery), c.dests.find? (fun x => x.rank == rank && !x.accepted) = some d → d.wg < s.wgs.length →
        c.h < (s.wg d.wg).entries.length → ((s.wg d.wg).entry c.h).st = .filling → ((s.wg d.wg).entry c.h).kind = 0 → c.stop = false → d.wg ≠ c.wg →
        (((acceptDelivery k rank s).wg d.wg).entry c.h).kind = 4 ∧ (((acceptDelivery k rank s).wg d.wg).entry c.h).expected = c.bytes ∧
        (((acceptDelivery k rank s).wg d.wg).entry c.h).copy = some k)) ∧
    (s.entryDone g h = true → exec (.handleFull g h) s = .next (tryRetire g (fillEntry g h s)) ∧
      (((fillEntry g h s).wg g).entry h).st = .full ∧ (((fillEntry g h s).wg g).entry h).phase = !e.phase)

/-! ## Lineage and masks (R320 to R355) -/

/-- R328, R329, R331 to R341, R351: a word on trees whose operands are valid and whose engine is enabled asks the home of its tree, and holds a place for
the answer: a split-wide word sends one request, after a release where it has one; a per-lane word one for each tree that its lanes name. A word that changes its
tree is sent once the loads of its group have returned (R31).
(The model's own choice where log entry 33 says so.) -/
def Obligations.LineageWords : Prop :=
  ∀ s : State,
    let i := s.who.split
    let die := dieOfCore (s.coreOf i)
    let may (op : EngOp) : Prop := op.reads = true ∨ s.me.awaiting = false
    let asks (k : Instr) (closes : Bool) (op : EngOp) (home d : Nat) (vals : List Nat) : Prop :=
      let p := s.sendEng (s.engOf i op home d vals [])
      may op → Holds k s closes p.1 [.mark s.me.pc, .await p.2]
    let free : Prop := s.scopeUnsync die 2 = false ∧ s.fenceWait i 2 = none
    (∀ (w : SDA) (x : Word), s.ssrc i w.a = .val x → (s.die die).lEn = true → x.toNat / 2 ^ 24 = 0 → x.toNat / 2 ^ 8 % 2 ^ 8 = 0 →
      x.toNat / 2 ^ 20 % 16 ≤ 8 → x.toNat / 2 ^ 16 % 16 ≤ 8 → asks (.treeNew w) w.s .treeNew die w.d.toNat [x.toNat, 0]) ∧
    (∀ (a : BitVec 5) (x : Word), s.ssrc i a = .val x → s.lineageOff die [x.toNat] = none → (s.die (treeOf x.toNat % 8)).lost = none →
      let home := treeOf x.toNat % 8
      (∀ w : TreeRdF, w.a = a → asks (.treeRd w) w.s (.treeRd w.k.toNat) home w.d.toNat [x.toNat, 0]) ∧
      (free → (∀ w : SDA, w.a = a →
          asks (.treeClone w) true .treeClone home w.d.toNat [x.toNat, 0] ∧ asks (.treeRel w) true .treeRel home w.d.toNat [x.toNat, 0] ∧
          asks (.nodePrune w) true .nodePrune home w.d.toNat [x.toNat, 0]) ∧
        (∀ (w : SDAB) (y : Word), w.a = a → s.sbsrc i w.b = .val y →
          (y.toNat < 2 → asks (.nodeCommit w) true .nodeCommit home w.d.toNat [x.toNat, y.toNat]) ∧
          (1 ≤ y.toNat → y.toNat ≤ 4096 → asks (.kvAppend w) true .kvAppend home w.d.toNat [x.toNat, y.toNat])))) ∧
    (∀ f : Nat → List Nat, s.lineageOff die ((lanesIn (s.widthOf i) s.lanes).map (fun l => (f l).getD 0 0)) = none →
      (∀ l, s.lanes.getLsbD l = true → f l ≠ []) →
      let rows := (lanesIn (s.widthOf i) s.lanes).map (fun l => (l, f l))
      let asksAll (k : Instr) (closes : Bool) (op : EngOp) (d : Nat) (regs : List Nat) (ops : Nat → List PWord) : Prop :=
        may op → RegsReady s regs → (op.isMask = true ∨ ∀ l, s.lanes.getLsbD l = true → (s.die (treeOf ((f l).getD 0 0) % 8)).lost = none) →
        (∀ l, s.lanes.getLsbD l = true → ops l = (f l).map (fun v => .val (BitVec.ofNat 32 v)) ∧ ∀ v ∈ f l, v < 2 ^ 32) →
        let p := sendTrees i op d rows (rows.map (fun r => treeOf (r.2.getD 0 0))).eraseDups s
        Holds k s closes p.1 (if p.2 = [] then [] else .mark s.me.pc :: p.2)
      let va (a : BitVec 6) (l : Nat) : PWord := (s.vsrc i a).lane l
      let vb (b : BitVec 6) (l : Nat) : PWord := (s.vbsrc i b).lane l
      (∀ w : V3N, asksAll (.nodeFork w) w.s .nodeFork w.d.toNat (w.d.toNat :: w.a.toNat :: s.vbreg i w.b) (fun l => [va w.a l, vb w.b l])) ∧
      (∀ w : NodeRdF, asksAll (.nodeRd w) w.s (.nodeRd w.k.toNat) w.d.toNat [w.d.toNat, w.a.toNat] (fun l => [va w.a l])) ∧
      (∀ w : VAB, asksAll (.nodePay w) w.s .nodePay 0 [w.a.toNat, w.b.toNat, w.b.toNat + 1]
        (fun l => [va w.a l, va w.b l, ((s.warpOf i).reg (w.b.toNat + 1)).lane l])) ∧
      (∀ w : V3N, asksAll (.kvSlot w) w.s .kvSlot w.d.toNat (w.d.toNat :: (w.d.toNat + 1) :: w.a.toNat :: s.vbreg i w.b) (fun l => [va w.a l, vb w.b l])) ∧
      ((∀ l, s.lanes.getLsbD l = true → keyOk ((f l).getD 1 0) = true ∧ (f l).length = 2) →
        (∀ w : V3N, asksAll (.maskgen w) w.s (.maskgen false) w.d.toNat (w.d.toNat :: w.a.toNat :: s.vbreg i w.b) (fun l => [va w.a l, vb w.b l]) ∧
          asksAll (.maskgenS w) w.s (.maskgen true) w.d.toNat (w.d.toNat :: (w.d.toNat + 1) :: w.a.toNat :: s.vbreg i w.b) (fun l => [va w.a l, vb w.b l]))))

/-- R328, R329, R332 to R342, R344, R349 to R353, R327, R323: the home of a tree performs an operation and answers once its time has come; what each
operation leaves in the tree and its nodes, in the page pool and on the way to the dies, and what it answers; and what the passing of time frees.
(The model's own choice where log entry 33 says so.) -/
def Obligations.LineageHomes : Prop :=
  ∀ s : State,
    (∀ (id : Nat) (r : EngReq) (t : State) (p : EngReply), s.engReq id = some r → r.reply = none → s.treeWaits r = false → s.serves r.die →
      performTree r s = (t, some p) →
      let u := if p.ready ≤ t.nowDie r.die then answerEng r p t else t.setEng { r with reply := some p }
      (r.op.isTree = true → exec (.treeOpPerform id) s = .next u) ∧
      (∀ b, r.op = .maskgen b → (s.die r.die).lost = none → exec (.maskgenRequest id) s = .next u)) ∧
    (∀ (id : Nat) (r : EngReq) (b : Bool), s.engReq id = some r → r.reply = none → r.op = .maskgen b → (s.die r.die).lost ≠ none →
      exec (.maskgenRequest id) s = .next (maskLost r s)) ∧
    (∀ (id : Nat) (r : EngReq) (p : EngReply), s.engReq id = some r → r.reply = some p → p.ready ≤ s.nowDie r.die → s.serves r.die →
      exec (.treeOpPerform id) s = .next (answerEng r p s) ∧ exec (.maskgenRequest id) s = .next (answerEng r p s)) ∧
    (∀ (d cfg dom t : Nat), s.freeTree d = some t → 2 ≤ s.blocksFree d →
      (treeNew d cfg dom s).2 = t * 2 ^ 16 ∧ ∃ x : Tree, (treeNew d cfg dom s).1 = { s with trees := s.trees ++ [x] } ∧ x.id = t ∧ x.live = true ∧
        x.plen = 0 ∧ x.dom = dom ∧ x.nstrm = cfg % 2 ^ 8 + 1) ∧
    (∀ (d t : Nat), d < 8 → s.freeTree d = some t → t % 8 = d ∧ t < 65536 ∧ ∀ x ∈ s.trees, x.id ≠ t) ∧
    (∀ (tr dom h key : Nat) (x : Tree) (j : Nat), s.liveTree tr dom = some x → j < 32 →
      (genOfHandle h = 0 ∨ (x.liveNode h).isSome = true) →
      (key < 2 ^ 31 → ((maskOfKey tr dom h key s).1.testBit j = true ↔ key % 2 ^ 24 + j < x.plen)) ∧
      (2 ^ 31 ≤ key → genOfHandle h = 0 → (maskOfKey tr dom h key s).1 = 0) ∧
      (2 ^ 31 ≤ key → genOfHandle h ≠ 0 → (maskOfKey tr dom h key s).1.testBit j = (x.node (slotOf h)).anc.getLsbD (key % 2 ^ 8 + j)) ∧
      (maskOfKey tr dom h key s).2 = x.plen) ∧
    (∀ (tr dom h token k : Nat) (x : Tree), s.liveTree tr dom = some x → genOfHandle h ≠ 0 → x.liveNode h = some k → k < x.nodes.length →
      (x.node k).pos + 1 < 2 ^ 24 → ∀ j, (List.range (2 ^ x.flog)).find? (fun n => (x.node n).st == .free) = some j → j < x.nodes.length → j ≠ k →
      x.front.any (fun p => p.1 == j / x.perPage) = true →
      (nodeFork tr dom h token s).2 = tr * 2 ^ 16 + (x.node j).ngen * 2 ^ 8 + j ∧
      ∃ y : Tree, (nodeFork tr dom h token s).1 = s.setTree y ∧ (y.node j).st = .live ∧ (y.node j).token = token ∧ (y.node j).pos = (x.node k).pos + 1 ∧
        (y.node j).parent = k ∧ (y.node j).depth = (x.node k).depth + 1 ∧ (y.node k).nchild = (x.node k).nchild + 1 ∧
        (∀ n, n < 256 → (y.node j).anc.getLsbD n = ((x.node k).anc.getLsbD n || n == j)) ∧ ∀ n, n ≠ j → n ≠ k → y.node n = x.node n) ∧
    (∀ (x : Tree) (n : Nat) (l : List Nat), x.liveSlots ≠ [] → kvAppend x n l s = .ok s (failWord 7) 0) ∧
    (∀ (x : Tree), s.tree x.id = some x →
      (∀ d dom, CloneLeaves x d dom s) ∧ RelLeaves x s ∧ (∀ h, PruneLeaves x h s) ∧
      (∀ h k prune, x.liveNode h = some k → CommitLeaves x h k prune s) ∧ (∀ n, AppendLeaves x n s) ∧
      ∀ n t y cows, growTree x n [] s = .inl (t, y, cows) → x.pages.length = x.nstrm → Grows x y n ∧ cows = [] ∧
        ∃ got : List Nat, t = { s with pool := s.pool ++ got.map (fun p => { page := p }) } ∧
          got.length = ((x.plen + n + x.perPage - 1) / x.perPage - (x.plen + x.perPage - 1) / x.perPage) * x.nstrm) ∧
    (∀ (tr dom h v : Nat), (∀ x, s.liveTree tr dom = some x → NodeAnswers tr dom h v x s) ∧
      (s.liveTree tr dom = none → nodePay tr dom h v s = s ∧ kvSlot tr dom h v s = 2 ^ 63 + 1 ∧ ∀ k, nodeRd tr dom h k s = 0)) ∧
    (∀ r : EngReq, settleTrees s = s →
      (r.op.wide = false → performTree r s = ((laneOps r.op r.dom r.lanes s).1,
        some { held := if r.op.outs = 0 then [] else loadHeld r.width r.d r.op.outs (laneOps r.op r.dom r.lanes s).2 })) ∧
      ∀ x, s.handleTree (r.vals.getD 0 0) r.dom = some x →
        (r.op = .treeClone → let q := treeClone x (dieOfCore r.core) r.dom s; performTree r s = (q.1, some (.one r.d q.2))) ∧
        (r.op = .treeRel → let q := treeRel x s; performTree r s = (q.1, some (.two r.d q.2))) ∧
        (∀ k, r.op = .treeRd k → performTree r s = (s, some (.one r.d (x.word k)))) ∧
        (∀ t v, r.op = .nodePrune → nodePrune x (r.vals.getD 0 0) s = (t, .inl v) → performTree r s = (t, some (.two r.d v))) ∧
        (x.claims s = [] → r.claim = none →
          (∀ t v c, r.op = .nodeCommit → nodeCommit x (r.vals.getD 0 0) (r.vals.getD 1 0 % 2 = 1) [] s = .ok t v c →
            performTree r s = (t, some { EngReply.two r.d v with ct := c, ready := c })) ∧
          (∀ t v c, r.op = .kvAppend → kvAppend x (r.vals.getD 1 0) [] s = .ok t v c →
            performTree r s = (t, some { EngReply.one r.d v with ct := c, ready := c })))) ∧
    (∀ (tr slot : Nat) (x : Tree), s.tree tr = some x → (s.dueSlots x).contains slot = true →
      exec (.nodeSlotFree tr slot) s = .next (freeSlots x [slot] s).1) ∧
    (∀ (tr : Nat) (x : Tree), s.tree tr = some x → s.treeDue x = true → exec (.treeIdFree tr) s = .next (endTree x s)) ∧
    (∀ page, ∃ t, exec (.poolPageLapse page) s = .next t ∧ ∀ p, p ∈ t.pool ↔ p ∈ s.pool ∧ ¬(p.page = page ∧ s.pageLapsed p = true)) ∧
    (∀ (d k : Nat) (c : CancelSet), d < 8 → s.cancels[k]? = some c → c.arrived.getLsbD d = false → (s.die d).lost = none →
      c.sent ≤ s.nowDie (c.tree % 8) →
      ∃ t, exec (.cancelArrival d k) s = .next t ∧ t = cancelArrive d k s ∧ ∀ e, e ∈ (t.die d).pq ∨ e ∈ (t.die d).pqPend → c.hits e.tag = false)

/-! ## Tasks, dependences, priorities and bounds (R356 to R381) -/

/-- R365, R366, R373, R377, R378: a word of the task engine whose operands pass the checks waits for its release, and asks the home of what it names;
DEP.WAIT goes on when its counter is zero; BND.RD reads the copy of its core.
(The model's own choice where log entry 34 says so.) -/
def Obligations.TaskWords : Prop :=
  ∀ s : State, (∀ w : BndDF, Holds (.bndRd w) s w.s s (pairSet w.d.toNat ((s.core (s.coreOf s.who.split)).bnd.getD w.k.toNat 0))) ∧
    (s.me.awaiting = false →
    let i := s.who.split
    let g := s.wgOf i
    let asks (k : Instr) (op : EngOp) (d : Nat) (vals : List Nat) (t : State) (die : Nat) : Prop :=
      let p := t.sendEng (t.engOf i op die d vals [])
      Holds k s true p.1 [.mark (t.split i).pc, .await p.2]
    let free : Prop := s.scopeUnsync (dieOfCore (s.coreOf i)) 2 = false ∧ s.fenceWait i 2 = none
    let homed (va : Nat) (acc : Acc) (t : State) (die : Nat) : Prop :=
      ∃ l, s.translate g.core g.troot g.trgen va acc s.me.prv = (t, .leaf l) ∧ die = homeDie (l.at va)
    (∀ (w : SDAB) (h r : Nat) (t : State) (die : Nat), s.spair i w.a.toNat = some h → s.spair i w.b.toNat = some r → h % 64 = 0 → r % 64 = 0 → r ≠ 0 →
      h < 2 ^ 56 → r < 2 ^ 56 → free → homed h .store t die → asks (.tqPush w) .tqPush w.d.toNat [h, r] t die) ∧
    (∀ (w : SDA) (h : Nat) (t : State) (die : Nat), s.spair i w.a.toNat = some h → h % 64 = 0 → h < 2 ^ 56 → homed h .store t die →
      asks (.tqPop w) .tqPop w.d.toNat [h] t die ∧ asks (.tqSteal w) .tqSteal w.d.toNat [h] t die) ∧
    (∀ (w : SDAB) (r : Nat) (d : Word), s.spair i w.a.toNat = some r → s.sbsrc i w.b = .val d → r % 64 = 0 → r ≠ 0 → r < 2 ^ 56 → d.toNat < 8 →
      (s.die d.toNat).lost = none → free → asks (.pqIns w) .pqIns w.d.toNat [r, d.toNat] s d.toNat) ∧
    (∀ (w : SDB) (d : Word), s.sbsrc i w.b = .val d → d.toNat < 8 → (s.die d.toNat).lost = none → asks (.pqMin w) .pqMin w.d.toNat [d.toNat] s d.toNat) ∧
    (∀ (w : SDAB) (va : Nat) (n : Word) (t : State) (die : Nat), s.spair i w.a.toNat = some va → s.sbsrc i w.b = .val n → va % 4 = 0 → va < 2 ^ 56 →
      free → homed va .store t die → asks (.depDec w) .depDec w.d.toNat [0, va, n.toNat] t die) ∧
    (∀ (w : SDA) (r : Nat) (t : State) (die : Nat), s.spair i w.a.toNat = some r → r % 64 = 0 → r ≠ 0 → r < 2 ^ 56 → free → homed r .load t die →
      asks (.taskEnd w) .taskEnd w.d.toNat [0, r] t die) ∧
    (∀ (w : SA) (va : Nat) (t : State) (l : Leaf), s.spair i w.a.toNat = some va → va % 4 = 0 → va < 2 ^ 56 →
      taskAt (s.engOf i .depDec 0 0 [] []) va 4 .load s = (t, .ok l) → t.readNat l.key (l.at va) 4 = 0 →
      let span := spanOf (l.at va) 4
      t.acceptedWrites (t.l1Core (s.coreOf i) (l.at va)) span = [] →
      Holds (.depWait w) s true ((t.joinG (.split i) (t.readV span)).dropL1 (t.l1Core (s.coreOf i) (l.at va)) span) []) ∧
    (∀ (w : BndAF) (v : Nat), s.spair i w.a.toNat = some v →
      let die := dieOfCore (s.coreOf i)
      let p := s.sendEng (s.engOf i (.bndMin w.k.toNat) die 0 [v] [])
      Holds (.bndMin w) s w.s p.1 [.await p.2] ∧
      (s.me.prv = true → Holds (.bndSet w) s w.s (s.sendEng (s.engOf i (.bndSet w.k.toNat) die 0 [v] [])).1 [])))

/-- R367 to R374, R378, R363, R364: the task engine's homes. TQ.PUSH stores the record's address and advances BOT, or reports a full deque; TQ.POP takes the record
at BOT and TQ.STEAL the one at TOP, or they find nothing; a counter's decrement leaves the difference and gives the old value, and one that fires an
armed block starts the enqueue of the record that the block names, in the queue of the die that its CTL names; the entries of a priority queue stand in the
order of key and sequence; a bound register takes the least of its value and the cycle's, which goes to the copies on the
cores of its cluster; a BND.MIN returns when the copy of its core is no greater than its operand.
(The model's own choice where log entry 34 says so.) -/
def Obligations.TaskHomes : Prop :=
  ∀ s : State,
    (∀ (id : Nat) (r : EngReq) (t : State) (p : EngReply), s.engReq id = some r → r.reply = none →
      let u := if p.ready ≤ t.nowDie r.die then answerEng r p t else t.setEng { r with reply := some p }
      s.serves r.die → (r.op.isDeque = true → performDeque r s = (t, some p) → exec (.dequeOperation id) s = .next u) ∧
      (r.op = .depDec ∨ r.op = .taskEnd → performDec r s = (t, some p) → exec (.depDecrement id) s = .next u)) ∧
    (∀ (id : Nat) (r : EngReq) (p : EngReply), s.engReq id = some r → r.reply = some p → p.ready ≤ s.nowDie r.die → s.serves r.die →
      exec (.dequeOperation id) s = .next (answerEng r p s) ∧ exec (.depDecrement id) s = .next (answerEng r p s)) ∧
    (∀ (r : EngReq) (hdr record : Nat) (t : State) (q : Deque) (l : Leaf), readDeque r hdr s = (t, .ok (q, l)) → q.ok = true →
      (q.count = 2 ^ q.clog → dequePush r hdr record s = (t, some (.one r.d 1))) ∧
      (∀ u e, q.count ≠ 2 ^ q.clog → taskAt r (q.entry q.bot) 8 .store t true = (u, .ok e) →
        let v := taskPut e (q.entry q.bot) (bytesOfNat 8 record) u
        let w := taskPut l hdr (bytesOfNat 4 q.top ++ bytesOfNat 4 ((q.bot + 1) % 2 ^ 32)) v.1
        dequePush r hdr record s = (w.1, some { EngReply.one r.d 0 with ct := max v.2 w.2, ready := max v.2 w.2 }))) ∧
    (∀ (r : EngReq) (hdr : Nat) (t u v : State) (q : Deque) (l : Leaf) (bs : List Byte) (x : TaskRec), r.vals.getD 0 0 = hdr →
      s.noRoute (dieOfCore r.core) r.die = false → s.opBehind r = false → s.dequeAhead r = false → r.op = .tqPop ∨ r.op = .tqSteal →
      readDeque r hdr s = (t, .ok (q, l)) → q.ok = true →
      (q.count = 0 → ∃ p, performDeque r s = (t, some p) ∧ p.held = pairSet r.d 0 ∧ p.trap = none ∧ p.ltag = none) ∧
      (q.count ≠ 0 →
        let i := if r.op = .tqSteal then q.top else (q.bot + 2 ^ 32 - 1) % 2 ^ 32
        taskRead r (q.entry i) 8 t = (u, .ok bs) → readTag r (natOfBytes bs) u = (v, .ok x) → v.tagCancelled r.die x.tag = false →
        let w := taskPut l hdr (if r.op = .tqSteal then bytesOfNat 4 ((q.top + 1) % 2 ^ 32) ++ bytesOfNat 4 q.bot
          else bytesOfNat 4 q.top ++ bytesOfNat 4 ((q.bot + 2 ^ 32 - 1) % 2 ^ 32)) v
        ∃ p, performDeque r s = (w.1, some p) ∧ p.held = pairSet r.d (natOfBytes bs) ∧ p.trap = none ∧ p.ct = w.2 ∧ p.ready = w.2 ∧
          p.ltag = if x.flags % 2 = 1 then some x.tag else none)) ∧
    (∀ (r : EngReq) (pa n : Nat) (l : Leaf),
      let old := s.readNat l.key pa 4
      let new := (old + 2 ^ 32 - n % 2 ^ 32) % 2 ^ 32
      let ctl := s.readNat l.key (pa + 4) 4
      let w := s.homeStore l.key pa (bytesOfNat 4 new)
      let d := decrement r pa n l s
      d.2 = (old, w.2) ∧ d.1.mem = w.1.mem ∧
      (new ≠ 0 ∨ old = 0 ∨ pa % 16 ≠ 0 ∨ ctl.testBit 7 = false → d.1.autos = w.1.autos) ∧
      (new = 0 → old ≠ 0 → pa % 16 = 0 → ctl.testBit 7 = true →
        ∃ a : AutoEnq, d.1.autos = w.1.autos ++ [a] ∧ a.pa = pa ∧ a.ctl = ctl ∧ a.addr = s.readNat l.key (pa + 8) 8 ∧ a.core = r.core ∧
          a.root = r.root ∧ a.rgen = r.rgen ∧ a.prv = r.prv)) ∧
    (∀ (r : EngReq) (i : Nat) (u : State) (l : Leaf) (pa : Nat), r.op = .depDec → r.party = .split i →
      s.noRoute (dieOfCore r.core) r.die = false → s.opBehind r = false → counterAt r (r.vals.getD 1 0) s = (u, .ok (l, pa)) →
      let q := decrement r pa (r.vals.getD 2 1) l u
      performDec r s = (q.1, some { EngReply.one r.d q.2.1 with ct := q.2.2, ready := q.2.2 })) ∧
    (∀ (e : PqEntry) (q : List PqEntry), q.Pairwise (fun a b => a.before b = true) → (∀ a ∈ q, a.seq ≠ e.seq) →
      (pqPut e q).Pairwise (fun a b => a.before b = true) ∧ ∀ x, x ∈ pqPut e q ↔ x = e ∨ x ∈ q) ∧
    (∀ d, (s.die d).lost = none → s.stopped d = false →
      let t := pqDrain d (s.die d).pqPend.length s
      let u := foldState (t.pqReqs d .pqIns) pqIns t
      exec (.pqRound d) s = .next (pqMins d ((u.pqReqs d .pqMin).take 64) (u.die d).pq u)) ∧
    (∀ (c k time : Nat) (r : EngReq), s.reqs = [.eng r] → r.op = .bndMin k → r.reply = none → clusterOfCore r.core = c → r.time = time →
      let v := r.vals.getD 0 0
      let t := sendBound c k (min (s.bound c k) v) s
      t.bounds = s.bounds.modify c (fun l => l.set k (min (s.bound c k) v)) ∧ (∀ j, (t.core j).bnd = (s.core j).bnd) ∧
      exec (.boundUpdate c k) s = .next (if (s.core r.core).bnd.getD k 0 ≤ v then answerEng r {} t else t.setEng { r with reply := some {} })) ∧
    (∀ (core k : Nat) (w : BndSent), s.reqs = [] → (s.core core).bndWay.find? (fun x => x.k == k) = some w →
      ∃ t, takeTurn (.boundCopy core k) s = .next t ∧ (t.core core).bnd = (s.core core).bnd.set k w.val ∧
        (t.core core).bndWay = (s.core core).bndWay.erase w) ∧
    (∀ (n : Nat) (a : AutoEnq) (t u : State) (x : TaskRec), s.autos[n]? = some a → bitsOf a.ctl 8 23 = 0 → bitsOf a.ctl 3 4 = 0 →
      readKey { id := 0, party := .device, core := a.core, die := homeDie a.pa, op := .pqIns, prv := a.prv, pc := 0, mr := 7, root := a.root, rgen := a.rgen }
        a.addr { s with autos := s.autos.eraseIdx n } = (t, .ok x) →
      t.tagCancelled (homeDie a.pa) x.tag = false → t.tagCancelled (a.ctl % 8) x.tag = false → (t.die (a.ctl % 8)).lost = none →
      pqQueue (a.ctl % 8) { key := x.key, addr := a.addr, tag := x.tag } t = some u → exec (.autoEnqueue n) s = .next u) ∧
    (∀ (n : Nat) (b : GiveBack) (t : State), s.gives[n]? = some b → b.req.op = .pqMin →
      let u := { s with gives := s.gives.eraseIdx n }
      u.tagCancelled b.req.die b.entry.tag = false → pqQueue b.req.die b.entry u = some t → exec (.taskGiveBack n) s = .next t)

/-! ## System registers (R137, R138 and the rules it gathers) -/

/-- R137, R138, R40: SRD, SWR and SXCH of a register that the privilege may access read the old value and write the new one; the unassigned numbers raise
0x026, a privileged register 0x027, and so does a write of a read-only one. The host's writes go to BAR0 and to the per-die registers. R138, R96, R135, R137: what the trap registers of a split and the registers of its workgroup read, and what a write of them leaves; the fault records
are cleared by ones.
(The model's own choice where log entries 27 and 60 say so.) -/
def Obligations.RegisterWords : Prop :=
  (∀ s : State,
      let i := s.who.split
      let d := dieOfCore (s.coreOf i)
      let ok (rd wr : Bool) (n : BitVec 13) : Prop := sysCheck s.me.prv (s.die d).pmuv rd wr n.toNat = none
      let old (n : BitVec 13) : PWord := .val (BitVec.ofNat 32 (s.sysRead i n.toNat))
      (∀ w : SrdF, ok true false w.n → (readActs w.n.toNat = true → s.me.awaiting = false) →
        Holds (.srd w) s w.s (sysReadEffect d w.n.toNat s) [.sset w.d.toNat (old w.n)]) ∧
      (s.me.awaiting = false →
        (∀ w : SwrF, ok false true w.n →
          let r := sysWrite i w.n.toNat (s.ssrc i w.a).bits s
          Holds (.swr w) s w.s r.1 r.2) ∧
        (∀ w : SxchF, ok true true w.n →
          let r := sysWrite i w.n.toNat (s.ssrc i w.a).bits (sysReadEffect d w.n.toNat s)
          Holds (.sxch w) s w.s r.1 (r.2 ++ [.sset w.d.toNat (old w.n)]))) ∧
      (∀ w : SrdF, sysReg (s.die d).pmuv w.n.toNat = none → exec (.srd w) s = .next (raiseHere i 0x026 0 s)) ∧
      (∀ (w : SwrF) (r : SysReg), sysReg (s.die d).pmuv w.n.toNat = some r → r.ro = true ∨ (r.priv = true ∧ s.me.prv = false) → s.me.awaiting = false →
        exec (.swr w) s = .next (raiseHere i 0x027 0 s)) ∧
      (∀ d v, ∃ t, exec (.lctlWrite d v) s = .next t ∧
        (v.getLsbD 0 = (s.die d).lEn → t = s) ∧
        (v.getLsbD 0 = false → (∃ x ∈ s.trees, x.live = true ∧ x.id % 8 = d) → t = s) ∧
        (v.getLsbD 0 = true → (s.die d).lEn = false → d < s.dies.length → d < 8 → (s.die d).lost = none →
          (t.die d).lEn = true ∧ (t.die d).lCopy.getLsbD d = true ∧ (∀ p ∈ t.pool, p.page % 8 ≠ d) ∧ ∀ x ∈ t.trees, x.id % 8 ≠ d)) ∧
      (∀ d v, exec (.pmctlWrite d v) s = .next (s.modDie d (fun x =>
        { x with pmfrz := v.getLsbD 31, pmuv := v.getLsbD 30, pmovf := x.pmovf &&& ~~~(v.setWidth 8) }))) ∧
      (∀ d k, exec (.pmcntLoRead d k) s = .next (s.modDie d (fun x => { x with pmlat := x.pmlat.set k (x.pmcnt.getD k 0 / 2 ^ 32 % 2 ^ 32) }))) ∧
      (∀ off v, s.bar0On = true → exec (.registerWrite (.bar0 off v)) s = .next (bar0Write off v s)) ∧
      (∀ (d n : Nat) (v : Word) (r : SysReg), sysReg false n = some r → r.ro = false → exec (.registerWrite (.die d n v)) s = .next (dieWrite d n v s))) ∧
  (∀ (s : State) (i : Nat) (v : Word), i < s.splits.length →
      s.sysRead i 0x002 = (s.split i).tcause ∧ s.sysRead i 0x003 = (s.split i).tpc % 2 ^ 32 ∧ s.sysRead i 0x004 = (s.split i).tpc / 2 ^ 32 % 2 ^ 32 ∧
      s.sysRead i 0x007 = (s.split i).tmr.toNat ∧ s.sysRead i 0x060 = (s.wgOf i).ltag ∧
      s.sysRead i 0x010 = (if (s.wgOf i).preq.isSome then 2 else 0) + (if (s.wgOf i).creq.isSome then 1 else 0) ∧
      (((sysWrite i 0x003 v s).1.split i).tpc % 2 ^ 32 = v.toNat ∧ ((sysWrite i 0x003 v s).1.split i).tpc / 2 ^ 32 = (s.split i).tpc / 2 ^ 32) ∧
      (((sysWrite i 0x007 v s).1.split i).tmr = if mrOk v then v &&& 0xFFFFF else (s.split i).tmr) ∧
      (∀ n, (sysWrite i n v s).1.mem = s.mem ∧ (sysWrite i n v s).1.warps = s.warps ∧ (sysWrite i n v s).1.reqs = s.reqs) ∧
      (sysWrite i 0x0C2 v s = (s, [.sys 0x0C2 v])) ∧
      (∀ r : FaultRec, (r.clear v).valid = (r.valid && !v.getLsbD 31) ∧ (r.clear v).ovf = (r.ovf && !v.getLsbD 30) ∧ (r.clear v).cause = r.cause))

/-! ## Pre-emption and cancellation (R122 to R133) -/

/-- R122 to R125, R132, R133, R344: the requests that reach a workgroup. A pre-emption sets PREQ at its time and stops what may stop; what has not stopped after
20 µs is stopped between groups; a cancelled workgroup is killed after 2 µs; with every split and context stopped the save area is written, and marked
valid once its time has come, or fails with 0x024; an absent granule is filled from it.
(The model's own choice where log entries 19, 20, 39, 62, 64 and 71 say so.) -/
def Obligations.StopEvents : Prop :=
  ∀ s : State,
    (∀ g tq, (s.wg g).phase = .running → (s.wg g).preq = none → (s.wg g).creq = none →
      let q := s.queue (s.launch (s.wg g).launch).queue
      q.state = .preempting → q.tq = tq → tq ≤ s.nowCore (s.wg g).core →
      exec (.preemptRequest g tq) s = .next (stopSweep g (stopSeq g (stopSpoke g true (stopSpoke g false
        (s.modWg g (fun x => { x with preq := some { tq := tq } }))))))) ∧
    (∀ (i : Nat) (p : Preempt), (s.wgOf i).preq = some p → (s.split i).live = true →
      (s.split i).phase = .ready ∨ (∃ c, (s.split i).phase = .parked (.retest c) ∧ ∀ k, c ≠ .granule k) → (s.split i).n = 0 → (s.split i).held = [] →
      p.tq + 320000 ≤ s.nowOf i →
      ∃ t, exec (.forcedStop i) s = .next t ∧ t.mem = s.mem ∧
        (i < s.splits.length → (t.split i).phase = .stopped none (s.wgOf i).fullLive ∧ (t.split i).pc = (s.split i).pc) ∧
        ((s.split i).warp < s.warps.length → (t.warp (s.split i).warp).forced = true)) ∧
    (∀ g tc, (s.wg g).creq = some tc → (s.wg g).phase = .running → tc + 32000 ≤ s.nowCore (s.wg g).core →
      exec (.cancelKill g) s = .next (finishCancelled g (foldState (s.wgSplits g) discardSplit s))) ∧
    (∀ (g : Nat) (p : Preempt) (t : State) (v : Nat), (s.wg g).preq = some p → p.unitDone = false → p.failed = false → (s.wg g).phase = .running →
      (s.wg g).creq = none → s.allStopped g = true → (s.warpsOf g).any (fun k => (s.liveAbsent k).isSome) = false →
      ((s.wg g).seq.phase.still && (s.wg g).lspoke.phase.still && (s.wg g).sspoke.phase.still) = true →
      (p.written = none →
        (writeSave g s = (t, .ok v) → exec (.unitSaveDone g) s = .next (t.modWg g (fun x => { x with preq := some { p with written := some v } }))) ∧
        (writeSave g s = (t, .bad v) →
          exec (.unitSaveDone g) s = .next (t.modWg g (fun x => { x with preq := some { p with failed := true, cause := 0x024 } })))) ∧
      (∀ x, p.written = some v → v ≤ s.nowCore (s.wg g).core →
        saveBytes g 2 ((s.wg g).save + 4) (bytesOfNat 4 (1 + if (s.warpsOf g).any (fun k => (s.warp k).forced) then 2 else 0))
          (saveBytes g 2 ((s.wg g).save + 0x18) (bytesOfNat 8 v) (s, .ok 0)) = (t, .ok x) →
        exec (.unitSaveDone g) s = .next (t.modWg g (fun y => { y with preq := some { p with unitDone := true, tdone := max v x } })))) ∧
    (∀ (w k : Nat) (t u : State) (hd : List Byte) (rs : List VReg), (s.warp w).live = true → k < 8 → (s.warp w).absent.getLsbD k = true →
      loadBytes (s.warp w).wg 2 (s.warp w).record 0x48 (s, .ok []) = (t, .ok hd) →
      restoreGranule (s.warp w).wg w ((s.warp w).record + 256 + 512 * bitsOf (natOfBytes hd) 64 32 + roundUp (s.warp w).width 64)
        (bitsOf (natOfBytes hd) 192 64) (s.warp w).tags (bitsOf (natOfBytes hd) 384 64) ((List.range 8).map (fun j => 8 * k + j))
        (t, .ok []) = (u, .ok rs) →
      ∃ f, exec (.lazyFillDone w k) s = .next (foldState (f.granuleWaiters w k) readySplit f) ∧
        (w < u.warps.length → (f.warp w).absent.getLsbD k = false ∧
          ∀ r, r < (s.warp w).v.length → (f.warp w).reg r = if r / 8 = k then rs.getD (r % 8) ((s.warp w).reg r) else (s.warp w).reg r))

/-! ## The command cores (R382 to R403) -/

/-- R383 to R388, R390, R403: queues and packets. A doorbell write moves QDB; QCTL takes an active queue to pre-empting and enables, disables or resumes one;
a lane takes its head packet in the round's order, and NOP, WAIT, SIGNAL and dispatch packets do what they say; QRD passes the packets of a round when it
ends; SIGNALs of one round on one word are written in lane order; a malformed packet, or one of a reserved
type, puts the queue in error with 0x1A1. A WAIT whose condition does not hold is registered at the home of its word; a write that makes it hold wakes
it, and the lane then goes on.
(The model's own choice where log entries 35, 36 and 65 say so.) -/
def Obligations.QueuePackets : Prop :=
  ∀ (s : State) (q : Nat), q < s.queues.length →
    (s.hostOn = true →
      (∀ v, exec (.qdbWrite q v) s = .next (qdbWrite q v.toNat s)) ∧
      (∀ v : Word, (s.queue q).state = .disabled → (((qdbWrite q v.toNat s).queue q).qdb = v.toNat)) ∧
      exec (.queueEnable q) s = .next (qctlWrite q true (s.queue q).preq s) ∧
      exec (.queueDisable q) s = .next (qctlWrite q false (s.queue q).preq s) ∧
      exec (.queueResume q) s = .next (qctlWrite q (s.queue q).en false s) ∧
      (s.allSaved q = false → exec (.queuePreempt q) s = .next (qctlWrite q (s.queue q).en true s)) ∧
      ((s.queue q).state = .active → (s.queue q).en = true →
        ((qctlWrite q true true s).queue q).state = .preempting ∧ ((qctlWrite q true true s).queue q).tq = s.nowDie (s.queue q).owner ∧
        ∀ p, qctlWrite q false p s = s) ∧
      ((s.queue q).state = .error → ((qctlWrite q false false s).queue q).state = .disabled)) ∧
    (∀ t v, s.allSaved q = true → s.queueWrite q (s.queue q).qsave (s.queueRecord q) = (t, .ok v) →
      exec (.queuePreempt q) s = .next (t.modQueue q (fun x => { x with state := .saved }))) ∧
    (∀ (t : State) (p : List Byte), s.laneOpen q = true → s.headPacket q = (t, .ok p) → t.barred q p = false →
      t.laneBehind q (packetRank (fieldOf p 0 1)) = false →
      let done (k : Instr) (u : State) : Prop := exec k s = .next (endTurn q t u)
      (fieldOf p 0 1 = 4 → headerOk p = true → done (.nopPacket q) (passPacket q t)) ∧
      (fieldOf p 0 1 = 4 → headerOk p = false → done (.nopPacket q) (queueError q 0x1A1 (passPacket q t))) ∧
      (fieldOf p 0 1 = 0 ∨ 4 < fieldOf p 0 1 → done (.reservedPacket q) (queueError q 0x1A1 (passPacket q t))) ∧
      (fieldOf p 0 1 = 2 → (s.queue q).waiting = none → headerOk p = true → fieldOf p 4 4 = 0 → fieldOf p 8 8 % 8 = 0 → fieldOf p 24 8 < 4 →
        fieldOf p 32 32 = 0 →
        ∀ u l, t.rooted (t.ccDie q) (t.queue q).qroot (t.queue q).qrgen (fieldOf p 8 8) 8 .load = (u, .ok l) →
          let pa := l.at (fieldOf p 8 8)
          let word := u.readNat l.key pa 8
          u.homeCause pa 8 = none →
          (waitHolds (fieldOf p 24 1) word (fieldOf p 16 8) = true → done (.waitPacket q) (passWait q pa u)) ∧
          (waitHolds (fieldOf p 24 1) word (fieldOf p 16 8) = false → done (.waitPacket q) (u.modQueue q (fun x =>
            { x with waiting := some { key := l.key, pa := pa, cond := fieldOf p 24 1, value := fieldOf p 16 8 } })))) ∧
      (fieldOf p 0 1 = 3 → headerOk p = true → fieldOf p 4 4 = 0 → fieldOf p 8 8 % 8 = 0 → fieldOf p 24 40 = 0 →
        done (.signalPacket q) (noteWork q (t.modQueue q (fun x => { x with signal := some (fieldOf p 8 8, fieldOf p 16 8, relOf p) })))) ∧
      (∀ (u v : State) (d r : List Byte) (x : Launch), fieldOf p 0 1 = 1 → packetOk (t.queue q) p = true →
        t.queueRead q (fieldOf p 0x10 8) 128 = (u, .ok d) →
        u.queueRead q (fieldOf p 0x10 8 + 128) (if fieldOf d 13 1 ≤ 32 then 8 * fieldOf d 13 1 else 0) = (v, .ok r) →
        describe p d r = some x → launchCause v x = none →
        ∃ k, done (.dispatchPacket q) (passPacket q ({ v with launches := putAt v.launches k { x with queue := q } }.modQueue q (fun y =>
          { y with launches := y.launches ++ [k] })))) ∧
      (fieldOf p 0 1 = 1 → packetOk (t.queue q) p = false → done (.dispatchPacket q) (rejectLaunch q 0x1A1 p t))) ∧
    (∀ w : QWait, (s.queue q).waiting = some w → w.woken = true → s.laneOpen q = true → s.homeCause w.pa 8 = none →
      exec (.waitPacket q) s = .next (passWait q w.pa s)) ∧
    (∀ w : QWait, (s.queue q).waiting = some w → s.homeCause w.pa 8 = none →
      ((s.noteWaits.queue q).waiting = some { w with woken := w.woken || waitHolds w.cond (s.readNat w.key w.pa 8) w.value })) ∧
    (∀ (addr value rel : Nat) (t : State), (s.queue q).signal = some (addr, value, rel) → (s.queue q).state = .active → s.queueServed q = true →
      s.signalBehind q = false → s.signalDue q (s.queue q).latest rel = true → writeSignal q addr value rel s = some t → exec (.signalValueWrite q) s = .next (passPacket q t)) ∧
    (∀ t, passPacket q s = t → (t.queue q).passed = true ∧ (t.queue q).signal = none ∧ (t.queue q).waiting = none ∧ (t.queue q).qrd = (s.queue q).qrd ∧
      (t.queue q).qdb = (s.queue q).qdb ∧ t.mem = s.mem ∧ t.wgs = s.wgs) ∧
    ((s.queue q).passed = true → (s.queue q).owner < 8 → (∀ k, k ≠ q → (s.queue k).passed = false) →
      (s.roundOver (s.queue q).owner = false → s.endRounds = s) ∧
      (s.roundOver (s.queue q).owner = true → let t := s.endRounds
        (t.queue q).qrd = ((s.queue q).qrd + 1) % 2 ^ 32 ∧ (t.queue q).passed = false ∧ (t.queue q).qdb = (s.queue q).qdb ∧ t.mem = s.mem ∧
          ∀ k, k ≠ q → t.queue k = s.queue k))

/-- R14, R19, R22, R391 to R395: workgroups are placed by their launch's queue owner, start where their roles bind, and a launch that is over writes its
signal once its time has come: its value, or its cause; queues are asked for by idle dies, handed over when nothing of them is in flight, and
return home. R396, R397, R400, R402: a workgroup with every role stopped stores its parts and then the header, and leaves its core once Now has reached the time of
that store; the next saved workgroup of a queue is placed and read back, with the words of its matrix stream that were not done issued again; one whose launch may run on a lost die is ended.
(The model's own choice where log entries 37, 38, 40, 62, 65, 67 and 69 say so.) -/
def Obligations.LaunchesAndSaves : Prop :=
  (∀ s : State,
      (∀ (l core area : Nat) (at_ : List (Nat × Nat)),
        let q := (s.launch l).queue
        let d := (s.queue q).owner
        let g := s.freeWgSlot
        let u := placeNew l core area (s.launch l).next 0 at_ s
        (s.runList d).find? (fun k => (s.nextPlace k).isSome) = some l → s.nextPlace l = some ([(core, at_)], [area]) → s.fusedLeft = [] →
        (s.launch l).cgrp = 1 →
        exec (.workgroupPlace l) s = .next (noteWork q ((advancePointer d core (u.modLaunch l (fun y => { y with next := y.next + 1 }))).modQueue q (fun y =>
          { y with granted := s.nowDie d }))) ∧
        (u.wg g).phase = .placed ∧ (u.wg g).core = core ∧ (u.wg g).lid = (s.launch l).next ∧ (u.wg g).launch = l ∧ u.mem = s.mem) ∧
      (∀ (g : Nat) (t : State) (im : List Byte × List Byte), (s.wg g).phase = .placed → bindWg g s = (t, some im) → g < s.wgs.length →
        ∃ u, exec (.workgroupStart g) s = .next u ∧ u = (startWarps g (startContexts g im t)).modWg g (fun w =>
          { w with phase := .running, bars := (startWarps g (startContexts g im t)).freshBars g })) ∧
      (∀ (l : Nat) (t u : State), (s.launch l).live = true → (s.launch l).ended = none → (s.launch l).cut = false →
        (s.launch l).total ≤ (s.launch l).next → s.launchGone l = true → s.queueServed (s.launch l).queue = true →
        s.signalDue (s.launch l).queue (s.launch l).largest (s.launch l).rel = true →
        signalLaunch l (s.launch l).sigval (s.launch l).largest s = (some t, u) → exec (.launchCompletionSignal l) s = .next t) ∧
      (∀ (l c : Nat) (t u : State), (s.launch l).live = true → (s.launch l).ended = some c → s.launchGone l = true →
        s.queueServed (s.launch l).queue = true →
        let time := max (s.launch l).endTime (s.launch l).largest
        s.signalDue (s.launch l).queue time (s.launch l).rel = true →
        signalLaunch l (0xFFFFFFFFFFFFFE00 + c) time (queueError (s.launch l).queue (if c / 32 = 13 then c else 0x1A4) s) = (some t, u) →
        exec (.launchEndSignal l) s = .next t) ∧
      (∀ d e, d < 8 → s.ccAlive d = true → s.dies.any (fun x => x.mail.contains d) = false → s.queues.any (fun x => x.thief == some d) = false →
        (s.die d).busyAt + 32000 ≤ s.nowDie d → s.hasWork d = false → s.nextDie d = some e →
        exec (.stealIdleRequest d) s = .next (s.modDie e (fun x => { x with mail := x.mail ++ [d] }))) ∧
      (∀ d e q rest, (s.die d).mail = e :: rest → e ≠ d → s.ccAlive e = true → s.ccAlive d = true → s.grantable d = some q → (s.ownedBy e).length < 32 →
        exec (.stealRequestReceive d) s = .next ((s.modDie d (fun x => { x with mail := rest })).modQueue q (fun x => { x with thief := some e }))) ∧
      (∀ q d, q < s.queues.length → (s.queue q).thief = some d → (s.queue q).state = .active → (s.queue q).launches = [] → (s.queue q).signal = none →
        (s.queue q).waiting = none → (s.queue q).passed = false → (s.roundOf (s.queue q).owner).contains q = false → s.ccAlive d = true →
        s.ccAlive (s.queue q).owner = true →
        ∃ t, exec (.queueStealHandoff q) s = .next t ∧ (t.queue q).owner = d ∧ (t.queue q).thief = none ∧ (t.queue q).hdie = (s.queue q).hdie) ∧
      (∀ q, (s.queue q).state = .active → (s.queue q).owner ≠ (s.queue q).hdie → (s.queue q).qrd = (s.queue q).qdb →
        (s.queue q).drained + 160000 ≤ s.nowDie (s.queue q).owner → s.ccAlive (s.queue q).owner = true → s.ccAlive (s.queue q).hdie = true →
        exec (.queueReturnHome q) s = .next (s.modQueue q (fun y => { y with owner := y.hdie, thief := none })))) ∧
  (∀ s : State,
      (∀ (g : Nat) (p : Preempt), (s.wg g).preq = some p → (s.wg g).phase = .running → (s.wg g).creq = none → p.failed = false →
        let q := (s.launch (s.wg g).launch).queue
        (s.queue q).state = .preempting → s.queueServed q = true →
        (∀ v, p.header = some v → v ≤ s.nowDie (s.ccDie q) →
          exec (.workgroupSave g) s = .next (shelveWg g s) ∧ (g < s.wgs.length → ((shelveWg g s).wg g).phase = .saved ∧ (shelveWg g s).mem = s.mem)) ∧
        (∀ t u v x, p.header = none → p.unitDone = true → s.wgStill g = true →
          writeParts q (s.areaBase q (s.wg g).area) (s.saveParts g) (s, .ok 0) = (t, .ok v) →
          t.queueWrite q (s.areaBase q (s.wg g).area) (t.header g (max v p.tdone)) = (u, .ok x) →
          exec (.workgroupSave g) s = .next ((u.modWg g (fun y => { y with preq := some { p with header := some x } })).modQueue q (fun y =>
            { y with savedDone := max y.savedDone (max v p.tdone) })))) ∧
      (∀ (q area : Nat) (hd recs : List Byte) (t u : State), (s.queue q).state = .active → s.queueServed q = true → (s.queue q).resume = true →
        s.queueRead q (s.queue q).qsave 0x40 = (t, .ok hd) → fieldOf hd 0 4 = 1 → (fieldOf hd 4 4).testBit 0 = true →
        t.queueRead q ((s.queue q).qsave + 0x40) (128 * (fieldOf hd 4 4 / 2 ^ 4 % 2 ^ 3)) = (u, .ok recs) →
        let v := resumeLaunches q hd recs u
        exec (.workgroupRestore q area) s = .next v ∧
        ∀ l, (u.queue q).launches = [l] → l < u.launches.length → q < u.queues.length → fieldOf hd 4 4 / 2 ^ 4 % 2 ^ 3 = 1 →
          (∀ g ∈ u.savedOf q, (u.wg g).launch = l ∧ (fieldOf hd 0x20 32).testBit (u.wg g).area = true) → (∀ d, (u.die d).lost = none) →
          (v.queue q).resume = false ∧ (v.queue q).launches = [l] ∧ (v.launch l).next = fieldOf recs 64 4 ∧ (v.launch l).retired = fieldOf recs 68 4 ∧
          (v.launch l).largest = fieldOf recs 72 8 ∧ (v.launch l).packet = recs.take 64 ∧ v.wgs = u.wgs) ∧
      (∀ q area g, s.nextRestore q = some g → (s.queue q).state = .active → s.queueServed q = true → (s.queue q).resume = false → (s.wg g).area = area →
        ((List.range 8).any (fun d => (s.launch (s.wg g).launch).dies.getLsbD d && (s.die d).lost.isSome) = true →
          exec (.workgroupRestore q area) s = .next (endLaunch (s.wg g).launch 0x1A5 s)) ∧
        (∀ core at_ t u v x, (List.range 8).any (fun d => (s.launch (s.wg g).launch).dies.getLsbD d && (s.die d).lost.isSome) = false →
          s.restoreSet g = [g] → checkAreas q [area] s = (t, .ok x) →
          t.restoreSet g = [g] → t.placesFor (t.queue q).owner (t.wg g).launch [unitsOf (byFirstLane (t.wg g).stored)] = some [(core, at_)] →
          t.canBindOn g core = true → (t.launch (t.wg g).launch).fuse = false → t.fusedLeft = [] →
          gotThen (restoreAll q [(g, (core, at_))] t) (fun _ z => reissueAll [g] z) = (v, .ok u) →
          exec (.workgroupRestore q area) s = .next (noteWork q (afterRestore [g] (advancePointer (t.queue q).owner core u))))))

/-! ## Crossing and time (R216 to R233) -/

/-- R219 to R224, R231, R402, R435, R17: what the crossing engine does: links go down and are recorded, heartbeats are sent and received, a reply slews the
clock by half the difference of its two ways and sets the bound by hops, bounds that grow or fail unsynchronise a die, PTM drives die 0, and a die
without a path is declared lost.
(The model's own choice where log entries 41, 42, 47 and 67 say so.) -/
def Obligations.CrossingEvents : Prop :=
  ∀ s : State, s.dies.length = 8 →
    (∀ link, s.linkOn link = true →
      let d := link / 4
      let t := declareLinkDown d (link % 4) s
      (s.asleep d = false → 16 ≤ (s.die d).resends.getD (link % 4) 0 → exec (.linkDown link) s = .next t) ∧ (t.die d).linkUp.getLsbD (link % 4) = false ∧
      (s.asleep d = false → (s.die d).linkBeat.getD (link % 4) 0 + 128000 ≤ (s.die d).now → exec (.heartbeatTimeout link) s = .next t) ∧
      (∀ resend, exec (.flitCrcFailure (.mesh link resend)) s = .next (pmCount d 0x12 (link % 4) 1 (s.modDie d (fun x =>
        { x with resends := x.resends.modify (link % 4) (fun n => if resend then n + 1 else 0) }))))) ∧
    (∀ d p resend, ((s.die d).ports.getD p {}).up = true →
      exec (.flitCrcFailure (.fabric d p resend)) s = .next (s.modPort d p (fun x => { x with resends := if resend then x.resends + 1 else 0 }))) ∧
    (∀ d, d < 8 → s.asleep d = false →
      ((s.die d).sent.1 + 16000 ≤ (s.die d).now →
        exec (.heartbeatSend d) s = .next (s.modDie d (fun y => { y with sent := (y.now, s.deltaOf d, y.linkUp) }))) ∧
      (∀ src, src ≠ d → (s.hops src d).isSome = true → (s.die d).beats.find? (fun p => p.1 == src) = none → 0 < (s.die src).sent.1 →
        ∃ t, exec (.heartbeatReceive d src) s = .next t ∧ (src, (s.die src).sent.2.1, (s.die src).sent.1) ∈ (t.die d).beats ∧
          (t.die d).view = (s.die d).view.set src (s.die src).sent.2.2) ∧
      (∀ e, s.upstream d = some e → max (((s.die d).sync.map Prod.fst).getD 0) (s.die d).lastSync + 16000 ≤ (s.die d).now →
        exec (.syncSend d) s = .next (s.modDie d (fun y => { y with sync := some (y.now, s.nowDie e) }))) ∧
      (∀ (t1 t2 t3 t4 : Nat), s.syncTimes d t1 t2 t3 t4 = true →
        ∃ t, exec (.syncReceive d t1 t2 t3 t4) s = .next t ∧ (t.die d).slew = (((t2 : Int) - t1) - ((t4 : Int) - t3)) / 2 ∧
          (t.die d).delta = 24 * (s.hops d 0).getD 0 ∧ (t.die d).hold = false ∧ (t.die d).now = (s.die d).now) ∧
      (d ≠ 0 → (s.die d).hold = false → (s.die d).lastSync + 64000 ≤ (s.die d).now →
        exec (.servoHoldover d) s = .next (s.modDie d (fun y => { y with hold := true, xf := y.xf.record { cause := 0x0C4 } })))) ∧
    (∀ d osc, d < 8 → s.asleep d = false → (s.die d).unsync = false → osc = true ∨ 160000 < s.pkgRaw d →
      exec (.dieUnsync d osc) s = .next (s.modDie d (fun y => { y with unsync := true, belowSince := none, xf := y.xf.record { cause := 0x0C5 } }))) ∧
    (∀ d t, s.asleep d = false → (s.die d).belowSince = some t → (s.die d).unsync = true → s.pkgRaw d < 16000 → t + 1600000 ≤ (s.die d).now →
      exec (.dieResync d) s = .next (s.modDie d (fun y => { y with unsync := false }))) ∧
    (∀ m rtt turn gran, s.ptm.enabled = true → s.hdown = false → s.asleep 0 = false →
      ∃ t, exec (.ptmExchange m rtt turn gran) s = .next t ∧ (t.die 0).slew = ((16 * m : Nat) : Int) - (s.nowDie 0 : Int) ∧
        t.ptm.unc = (rtt - turn + 1) / 2 + gran ∧ t.ptm.last = s.nowDie 0 ∧ ∀ d, d < 8 → (t.die d).hunsync = false) ∧
    (s.ptm.enabled = true → s.asleep 0 = false → s.ptm.lost = false → s.ptm.last + 16000000 ≤ s.nowDie 0 →
      ∃ t, exec .ptmLost s = .next t ∧ t.ptm.lost = true ∧ ∀ d, d < 8 → (t.die d).hunsync = true) ∧
    (∀ d p, 0 < d → d < 8 →
      ((s.die d).unseen = some p → (s.die d).lost = none → s.asleep 0 = false → p + 256000 ≤ s.nowDie 0 →
        exec (.partitionDeclare d) s = .next (partitionQueues ((s.modDie d (fun x => { x with lost := some (s.nowDie 0) })).modDie 0 (fun x =>
          { x with xf := x.xf.record { cause := 0x0C6, info := d * 2 ^ 13 } })))) ∧
      ((s.die d).noPath = some p → (s.die d).quiesced = false → s.dev.ps ≠ 2 → p + 256000 ≤ (s.die d).now →
        ∃ t, exec (.diePartitioned d) s = .next t ∧ ∀ q ∈ t.reqs, match q with
          | .mem r => dieOfCore r.core = d → (t.hops d (homeDie r.pa)).isSome = true
          | .eng r => dieOfCore r.core = d → (t.hops d r.die).isSome = true)) ∧
    (∀ d, ∃ t, exec (.timeTargetReached d) s = .next t ∧ t.mem = s.mem) ∧
    (∀ (i t r : Nat), idxsOf s.splits (fun x => x.live && x.phase.timed) = [i] → (s.split i).phase = .parked (.genwait t r) → t ≤ s.nowOf i →
      (∀ p c, s.ctxPhase p ≠ .retest (.time c)) → exec (.timeTargetReached (dieOfCore (s.coreOf i))) s = .next (finishWord i true (pairSet r t) s))

/-! ## Collectives and the fabric (R404 to R420) -/

/-- R409, R410, R415 to R417: with a usable fabric, a collective is posted when its descriptors can be read and a slot is free, and sD says whether it was;
remote words send one access for each executing lane, a store none for a helper lane, and a load gives poison where the address is poisoned.
(The model's own choice where log entries 43 and 44 say so.) -/
def Obligations.FabricWords : Prop :=
  ∀ s : State, s.me.awaiting = false →
    let i := s.who.split
    let g := s.wgOf i
    let d := dieOfCore (s.coreOf i)
    (s.die d).fabEn = true → s.epsFab d ≠ noBound →
    (∀ (kind : Nat) (w : SDA) (k : Instr), (k = .collAr w ∧ kind = 0) ∨ (k = .collAg w ∧ kind = 1) ∨ (k = .collRs w ∧ kind = 2) →
      ∀ (va team n : Nat) (t u v : State) (db tb es : List Byte) (p : Coll), s.spair i w.a.toNat = some va → va % 64 = 0 → va < 2 ^ 56 →
        s.fenceWait i 2 = none →
        let c : CeCtx := { core := g.core, root := g.troot, rgen := g.trgen, prv := s.me.prv }
        ceRead c 1 va 64 s = (t, .ok db) → team = natOfBytes (db.take 8) → team % 64 = 0 → team < 2 ^ 56 → ceRead c 1 team 64 t = (u, .ok tb) →
        n = natOfBytes (tb.take 4) → 2 ≤ n → n ≤ 4096 → ceRead c 130 (team + 64) (8 * n) u = (v, .ok es) →
        collOf kind va d (v.die d).fabid (some (v.wgIdxOf i)) g.ltag (v.nowDie d) c db (tb ++ es) = some p →
        ((idxsOf (v.die d).colls Option.isNone) = [] → Holds k s true v [.sset w.d.toNat (.val 1)]) ∧
        (∀ j, (idxsOf (v.die d).colls Option.isNone).head? = some j → ∀ z c, writeStatus p 0xFFFFFFFF (v.setColl d j (some p)) = (z, .ok c) →
          Holds k s true (if z.tagCancelled d g.ltag then failColl d j 0x1C7 z else z) [.sset w.d.toNat (.val 0)])) ∧
    (∀ (store : Bool) (n : Nat) (closes : Bool) (a b : BitVec 6) (k : Instr),
      ((∃ w : VDA, k = .rldB32 w ∧ store = false ∧ n = 4 ∧ closes = w.s ∧ a = w.a ∧ b = w.d) ∨
        (∃ w : VDA, k = .rldB64 w ∧ store = false ∧ n = 8 ∧ closes = w.s ∧ a = w.a ∧ b = w.d) ∨
        (∃ w : VAB, k = .rstB32 w ∧ store = true ∧ n = 4 ∧ closes = w.s ∧ a = w.a ∧ b = w.b) ∨
        (∃ w : VAB, k = .rstB64 w ∧ store = true ∧ n = 8 ∧ closes = w.s ∧ a = w.a ∧ b = w.b)) →
      RegsReady s ((if store && s.me.lit.isSome then [] else groupRegs b.toNat (n / 4)) ++ [a.toNat, a.toNat + 1]) →
      let lanes := lanesIn (s.widthOf i) (if store then s.lanes &&& ~~~s.helpersOf i else s.lanes)
      let good := lanes.filterMap (fun l => (s.vpair i a.toNat l).map (fun v => (l, v)))
      let lost := lanes.filter (fun l => (s.vpair i a.toNat l).isNone)
      let data (l : Nat) : List Byte := if store then s.me.lit.elim (storeBytes .plain n s.me.mr (s.group i b.toNat (n / 4) l)).1 wordBytes else []
      ∀ (t : State) (rs : List Remote), (lost = [] ∨ (store = false ∧ mrPX s.me.mr = false)) → (∀ p ∈ good, p.2 % n = 0) →
        remoteLanes d data good s = (t, .ok rs) →
        let p := rs.foldl (fun (p : State × List Nat) r =>
          let q := sendRemote i n d store b.toNat r p.1
          (q.1, p.2 ++ [q.2])) (t, [])
        Holds k s closes p.1 (if store then []
          else .mark s.me.pc :: lost.flatMap (fun l => remoteResult (s.widthOf i) b.toNat n l (List.replicate (n / 4) .poison)) ++ p.2.map Held.await))

/-- R411 to R413, R404, R405, R415 to R418: a collective takes the packets of its ranks, writes DST once every rank has joined, and ends by STATUS and, once that
is covered, DONE; it fails on a disagreement, an ABORT, an endpoint without a path, or its timeout, and tells the other ranks; a target answers a remote access; ports lose lanes and train; the fabric's bound is measured.
(The model's own choice where log entries 43, 44, 62 and 66 say so.) -/
def Obligations.FabricEvents : Prop :=
  ∀ (s : State) (d : Nat), d < 8 → s.dies.length = 8 →
    (∀ (k : Nat) (c : Coll), s.coll d k = some c → s.stopped d = false →
      (c.fail = none → c.own = none → c.ranks.any (fun e => s.ownEnd d e && ((s.die e.2).lost.isSome || !s.fabPath e.2)) = false →
        exec (.collRankComplete d k) s = .next (sendSource d k c s)) ∧
      (∀ e ∈ c.ranks, c.fail = none → c.own = none → s.ownEnd d e = true → (s.die e.2).lost ≠ none ∨ s.fabPath e.2 = false →
        exec (.collRankComplete d k) s = .next (failColl d k 0x1C6 s)) ∧
      (∀ bs, c.fail = none → c.own.isSome = true → c.blocks = some bs → c.sent < (c.result bs).length →
        exec (.collRankComplete d k) s = .next (writeResult d k c (c.result bs) s)) ∧
      (∀ bs, c.fail = none → c.own.isSome = true → c.blocks = some bs → (c.result bs).length ≤ c.sent → c.latest ≤ s.nowDie d →
        exec (.collRankComplete d k) s = .next (finishColl d k c s)) ∧
      (c.fail.isSome = true → c.latest ≤ s.nowDie d → exec (.collRankComplete d k) s = .next (finishColl d k c s)) ∧
      (∀ (t u : State) (l : Leaf) (w : Nat), c.fail = none → c.said = none → ceAt c.ctx c.done 4 .store s = (t, .ok l) → writeStatus c 0 t = (u, .ok w) →
        finishColl d k c s = u.setColl d k (some { c with said := some w })) ∧
      (∀ (t : State) (l : Leaf) (w : Nat), c.said = some w → w + s.epsRelease d 2 ≤ s.nowDie d → ceAt c.ctx c.done 4 .store s = (t, .ok l) →
        ∃ r : EngReq, r.core = c.core ∧ r.root = c.root ∧ r.rgen = c.rgen ∧ r.prv = c.prv ∧
          finishColl d k c s = freeColl d k c (decrement r (l.at c.done) 1 l t).1) ∧
      (∀ code, c.fail = none → c.said = none →
        (failColl d k code s).coll d k = some { c with fail := some code } ∧
        (failColl d k code s).fabric = s.fabric ++ ((List.range c.ranks.length).filter (fun r => r != c.rank)).map (fun r =>
          FabPacket.abort d (c.ranks.getD r (0, 0)) c.team c.seq c.rank code)) ∧
      (∀ rank pkt, c.fail = none → rank ≠ c.rank → rank < c.ranks.length → c.joined.any (fun p => p.1 == rank) = false →
        s.ownEnd d (c.ranks.getD rank (0, 0)) = false →
        exec (.collPeerPacket d k rank pkt) s = .next (joinColl d k rank pkt s) ∧
        (pkt.kind = c.kind → pkt.count = c.count → pkt.type = c.type → pkt.nrank = c.ranks.length → pkt.data.length = c.block →
          joinColl d k rank pkt s = s.setColl d k (some { c with joined := c.joined ++ [(rank, pkt.data)] })) ∧
        (pkt.kind ≠ c.kind → joinColl d k rank pkt s = failColl d k 0x1C4 s)) ∧
      (∀ code, s.fabric = [] → c.ranks.all (s.ownEnd d) = false →
        exec (.collAbort d { slot := k, code := code }) s = .next (failColl d k (if code = 0x1C4 then 0x1C4 else if code = 0x1C6 then 0x1C6 else 0x1C7) s)) ∧
      (∀ code src rank n, s.fabric = [.abort src (c.ranks.getD c.rank (0, 0)) c.team c.seq rank n] →
        exec (.collAbort d { slot := k, code := code }) s = .next (failColl d k (if n = 0x1C4 then 0x1C4 else 0x1C7) { s with fabric := [] })) ∧
      (c.joined.length + 1 < c.ranks.length → c.posted + c.tmo * 16000 ≤ s.nowDie d → exec (.collTimeout d k) s = .next (failColl d k 0x1C5 s))) ∧
    (∀ (q : EngReq) (r : RemoteReply), s.engReq r.id = some q → s.fabPath q.die = true →
      (∀ n, q.op = .rld n → r.cause = 0 → r.data.length = n → exec (.remoteAccessResponse r) s = .next (answerRemote q 0 r.data r.time s)) ∧
      (∀ n, q.op = .rst n → r.cause = 0 → exec (.remoteAccessResponse r) s = .next (answerRemote q 0 r.data r.time s)) ∧
      (∀ n, q.op = .rld n → r.cause = 0x1C8 → exec (.remoteAccessResponse r) s = .next (answerRemote q 0x1C8 r.data r.time s))) ∧
    (∀ (r : RemoteAccess) (t : State) (bs : List Byte) (l : Leaf), r.die = d → (s.die d).lost = none → s.stopped d = false → (s.die d).fabEn = true →
      r.n = 4 ∨ r.n = 8 → s.engineRead d ((s.die d).cexport + 32 * (r.window % 256)) 32 .device = (t, .ok bs) →
      let e := natOfBytes bs
      bitsOf e 0 1 = 1 → r.va < 2 ^ 56 → r.va % r.n = 0 → t.walk d (bitsOf e 64 64) (bitsOf e 128 16) r.va = .leaf l → t.keyOn l.key = true →
      t.stale l (l.at r.va) = false → t.onHold (l.at r.va) = false → t.homeCause (l.at r.va) r.n = none →
      (r.store = none → l.allows .load false = true → t.homeBusy d false (l.at r.va) r.n .device = false →
        ∃ u, exec (.remoteAccessTarget r) s = .next u ∧ u.mem = t.mem ∧
          u.fabric = t.fabric ++ [.reply d r.src 0 (t.readMem l.key (l.at r.va) r.n) (t.readV (spanOf (l.at r.va) r.n))]) ∧
      (∀ v, r.store = some v → bitsOf e 1 1 = 1 → l.m = false → l.allows .store false = true → t.homeBusy d true (l.at r.va) r.n .device = false →
        ∃ u, exec (.remoteAccessTarget r) s = .next u ∧ u.mem = (t.homeStore l.key (l.at r.va) (v.take r.n)).1.mem)) ∧
    (∀ p, p < 4 →
      let x := (s.die d).ports.getD p {}
      (x.up = true → 4 < x.lanes → exec (.fabricLaneLoss d p) s = .next (s.modPort d p (fun y => { y with lanes := y.lanes - 1 }))) ∧
      (x.up = true → x.lanes ≤ 4 → exec (.fabricLaneLoss d p) s = .next (portDown d p s)) ∧
      (x.up = true → 16 ≤ x.resends → exec (.fabricPortDown d p) s = .next (portDown d p s)) ∧
      (∀ link, x.up = false → x.dead = false → (s.die d).lost = none →
        exec (.fabricPortTrained d p link) s = .next (s.modPort d p (fun y => { y with up := true, lanes := 8, link := link.toNat })))) ∧
    ((s.die d).fabEn = true → s.stopped d = false → (s.die d).lost = none → (s.die d).fabSync + 160000 ≤ (s.die d).now →
      ∃ t, exec (.fabricSyncSend d) s = .next t ∧ (t.die d).fabSync = (s.die d).now ∧
        t.fabric = s.fabric ++ (s.validPeers d).map (fun p => FabPacket.sync d p.2 (s.die d).now)) ∧
    (∀ (peer : Nat) (e : Nat × Nat) (off : Int) (rtt bound : Nat), s.fabric = [.sync d e (s.die d).fabSync] → (peer, e) ∈ s.validPeers d →
      ∃ t, exec (.fabricSyncReceive d peer off rtt bound) s = .next t ∧
        (t.die d).peers.head? = some { peer := peer, off := off.natAbs, rtt := rtt, bound := bound, time := (s.die d).now })

/-! ## Security, start and power (R421 to R437) -/

/-- R421 to R427: key slots are loaded over a secure link, and disabled once no access holds them; the device answers its SPDM requests while it runs; keys
of the link are programmed in a session; a failure of its integrity takes the link down.
(The model's own choice where log entries 8 and 45 say so.) -/
def Obligations.SecurityEvents : Prop :=
  ∀ s : State,
    (s.bar0On = true →
      exec .keyLoad s = .next (loadKey s) ∧
      (s.dev.keysel ≠ 0 → s.keyOn s.dev.keysel = false → s.dev.ideOk = true → s.dev.closing = none →
        (loadKey s).keyOn s.dev.keysel = true ∧ (loadKey s).dev.keydata = List.replicate 16 0) ∧
      exec .keyDisable s = .next (disableKey s) ∧
      (s.dev.keysel ≠ 0 → s.dev.closing = none → (disableKey s).dev.closing = some s.dev.keysel)) ∧
    (∀ k, k ≠ 0 → s.dev.closing = some k → s.keyInUse k = false →
      ∃ t, exec .keyDisableComplete s = .next t ∧ t.keyOn k = false ∧ t.dev.closing = none) ∧
    (s.hdown = false → s.dev.ps ≠ 2 → s.dev.st = 1 →
      let replies (k : Instr) (a : DoeReply) : Prop := exec k s = .next (s.modDev (fun x => { x with doe := a }))
      replies .spdmVersion (.version 1 2) ∧
      replies .spdmCapabilities (.capabilities [.version, .capabilities, .algorithms, .digests, .certificate, .challengeAuth, .measurements, .keyExchange]) ∧
      replies .spdmAlgorithms (.algorithms .vendorExtended .secp384r1 .aes256Gcm) ∧
      (s.dev.identity = true →
        let chain := Config.certificates s.dev.positions
        let signs (k : Instr) (text : List Byte) (reply : List Byte → DoeReply) : Prop := s.dev.signed < 32768 →
          ∃ t, exec k s = .next t ∧ t.dev.doe = reply (Config.sign s.dev.positions s.dev.signed text) ∧ t.dev.signed = s.dev.signed + 1
        replies .spdmDigests (.digests (Config.sha256 chain)) ∧
        (∀ o n, replies (.spdmCertificate o n) (.certificate ((chain.drop o).take n))) ∧
        (∀ nonce, signs (.spdmChallengeAuth nonce) (nonce ++ Config.sha256 chain) (.challengeAuth (nonce ++ Config.sha256 chain))) ∧
        (∀ k nonce, 1 ≤ k → k ≤ 4 → replies (.spdmMeasurements k false nonce) (.measurements (s.measurement k) none) ∧
          signs (.spdmMeasurements k true nonce) (nonce ++ s.measurement k) (fun g => .measurements (nonce ++ s.measurement k) (some g))) ∧
        (∀ x, signs (.spdmKeyExchange x) (x ++ Config.exchange s.free x) (.keyExchange (Config.exchange s.free x)))) ∧
      (s.dev.session = false → ∀ m, replies (.ideKm m) .failed) ∧
      (s.dev.session = true → replies (.ideKm .query) (.ide s.dev.ideOk s.dev.ideKeyed) ∧
        (s.dev.ideKeyed = true → exec (.ideKm .goSecure) s = .next (s.modDev (fun x => { x with ideOk := true, doe := .ide true true }))))) ∧
    (s.hdown = false → s.dev.ideOk = true → exec .ideIntegrityFailure s = .next (linkDead 0x1E3 s)) ∧
    (s.dev.down = false → s.dev.ps ≠ 2 → exec .cxlLinkDown s = .next ((linkDead 0x1E5 s).modDev (fun x => { x with down := true })) ∧
      (linkDead 0x1E5 s).hdown = true ∧ (linkDead 0x1E5 s).dev.ideOk = false ∧
      (linkDead 0x1E5 s).dev.sf.cause = (if s.dev.sf.valid then s.dev.sf.cause else 0x1E5) ∧
      (s.dev.sf.valid = true → (linkDead 0x1E5 s).dev.sf.ovf = true)) ∧
    (s.hdown = false → s.dev.st ≠ 0 → s.dev.ps ≠ 2 →
      (∀ off, ∃ v, exec (.configurationRequest (.read off)) s = .next { s with free := s.free + 1, dev := { s.dev with cfg := .value v } }) ∧
      (∀ off v, exec (.configurationRequest (.write off v)) s = .next (s.modDev (fun x => { x with cfg := .done })))) ∧
    (s.hdown = false → s.dev.st = 0 → s.dev.ps ≠ 2 → ∀ r, exec (.configurationRequest r) s = .next (s.modDev (fun x => { x with cfg := .retry })))

/-- R424, R428 to R436, R213: starts, power states and operating points. A start runs its steps and completes once its time has come; firmware that the boot ROM does
not accept, by its signature, its key or its version, leads to the safe state with 0x1E2 recorded, and a verified image may raise FWSVN and never lowers it; PS1 and PS2 are entered under their conditions; a host transaction wakes a device from PS2;
a hot die throttles and stops, but in PS2 no temperature is watched; an uncorrectable error marks its granule.
(The model's own choice where log entries 8, 46, 47 and 50 say so.) -/
def Obligations.PowerEvents : Prop :=
  ∀ s : State,
    (∀ o,
      (s.dev.start = some .cold → exec (.coldStart o) s = .next (runStart o s)) ∧
      (s.dev.start = some .warm ∨ s.dev.start = some .fromSafe → exec (.warmStart o) s = .next (runStart o s)) ∧
      (s.dev.st ≠ 0 → s.dev.ps ≠ 2 → exec (.cxlHotReset o) s = .next (runStart o (triggerWarm s))) ∧
      (s.dev.st ≠ 0 → s.dev.ps = 2 → exec (.cxlHotReset o) s = .next (runStart o (beginStart .wake s))) ∧
      (s.dev.ps = 2 → exec (.ps2Wake o) s = .next (runStart o (beginStart .wake s))) ∧
      (s.dev.ps ≠ 2 → s.dev.start = some .wake → exec (.ps2Wake o) s = .next (runStart o s)) ∧
      (∀ kind, s.dev.start = some kind → s.dev.ready = none → 4 ∉ o.step2 → 4 ∉ o.step4 → 4 ∉ o.step5 →
        let d := (runStart o s).dev
        (s.dev.accepts o.firmware = false → d.st = 2 ∧ d.step = 7 ∧ d.sf.valid = true ∧ d.fw = s.dev.fw ∧ d.fwsvn = s.dev.fwsvn ∧
          d.sf.cause = if s.dev.sf.valid then s.dev.sf.cause else 0x1E2) ∧
        (s.dev.accepts o.firmware = true → d.step = 9 ∧ d.ready.isSome = true ∧ d.fw = some (o.firmware.header ++ o.firmware.body, o.firmware.version) ∧
          d.sf = s.dev.sf ∧ s.dev.fwsvn.toNat ≤ d.fwsvn.toNat ∧ (∀ v, o.svn = some v → s.dev.fwsvn.toNat < v.toNat → d.fwsvn = v) ∧
          (kind = .cold → ∀ c ∈ (runStart o s).mem, isHost c.1 = true)))) ∧
    (∀ f : Firmware, s.dev.accepts f = true ↔ Config.lmsVerify f.key f.signature (Config.sha256 (f.header ++ f.body)) = true ∧
      Config.sha256 f.key = Config.fusedKeyHash ∧ s.dev.fwsvn.toNat ≤ f.version.toNat) ∧
    (∀ t, s.dev.ready = some t → t ≤ s.nowDie 0 → ∃ u, exec .startComplete s = .next u ∧ u.dev.st = 1 ∧ u.dev.step = 10 ∧ u.mem = s.mem ∧
      u.dev.sf.valid = false ∧ ∀ x ∈ u.dies, x.hf.valid = false ∧ x.xf.valid = false) ∧
    (s.dev.st = 1 → s.dev.ps = 0 → 20 ≤ s.dev.lattol.toNat → s.queuesIdle = true → s.since s.dev.idleAt 1600000 = true → s.mayPs2 = false →
      exec .ps1Entry s = .next (s.modDev (fun x => { x with ps := 1 })).settlePoints ∧
      ∀ x ∈ (s.modDev (fun x => { x with ps := 1 })).settlePoints.dies, x.hung = false → x.point = 4) ∧
    (s.dev.ps ≠ 2 → s.mayPs2 = true → exec .ps2Entry s = .next ((landAll s).modDev (fun x => { x with ps := 2 }))) ∧
    (s.dev.ps = 2 → s.hdown = false →
      (∀ pa n, exec (.hostMemRead pa n) s = .next (beginStart .wake s)) ∧ (∀ pa bs, exec (.hostMemWrite pa bs) s = .next (beginStart .wake s)) ∧
      (∀ off v, exec (.registerWrite (.bar0 off v)) s = .next (beginStart .wake s)) ∧ (∀ q v, exec (.qdbWrite q v) s = .next (beginStart .wake s)) ∧
      (∀ r, exec (.configurationRequest r) s = .next ((beginStart .wake s).modDev (fun x => { x with cfg := .retry })))) ∧
    (∃ t, exec .powerLoss s = .next t ∧ (∀ c ∈ t.mem, isHost c.1 = true) ∧ t.spare = s.spare ∧ t.dev.positions = s.dev.positions ∧ t.wgs = [] ∧
      t.dies = State.reset.dies) ∧
    (s.dev.ps ≠ 2 → ∀ (d : Nat) (powers temps : List Nat) (temp point : Nat), d < 8 → (s.die d).hung = false → temp < 120 → point ≤ 4 →
      let draws := powers.zip temps
      let fits (k : Nat) : Prop := 8 * (draws.getD k (0, temp)).1 ≤ min s.dev.pwrcap 4400 ∧ (draws.getD k (0, temp)).2 < 100
      (if s.dev.ps = 1 ∨ 110 ≤ temp then point = 4 else (fits point ∨ point = 4) ∧ ∀ k, k < point → ¬fits k) →
      exec (.opChange d powers temps temp) s = .next (s.modDie d (fun x => { x with draws := draws, temp := temp, point := point }))) ∧
    (s.dev.ps = 2 → ∀ d temp, exec (.thermalThrottle d temp) s = .next s ∧ exec (.thermalStop d temp) s = .next s) ∧
    (s.dev.ps ≠ 2 → ∀ d temp, d < 8 → (s.die d).hung = false →
      (110 ≤ temp → exec (.thermalThrottle d temp) s = .next (s.modDie d (fun x => { x with point := 4, temp := temp }))) ∧
      (120 ≤ temp → d ≠ 0 → exec (.thermalStop d temp) s = .next (s.modDie d (fun x => { x with hung := true, temp := temp }))) ∧
      (120 ≤ temp → d = 0 → ∃ t, exec (.thermalStop d temp) s = .next t ∧ t.dev.st = 2)) ∧
    (∀ pa, isDram pa = true → s.ecc.contains (pa / 32) = false → exec (.eccGranuleError pa true) s = .next { s with ecc := pa / 32 :: s.ecc } ∧
      exec (.eccGranuleError pa false) s = .next s)

/-! ## Encodings, the step, and the machine as a whole -/

/-- R7, R26, R34, R42, R45 to R47, R122: decode and encode agree. The bytes that encode a well-formed instruction, of two to twelve bytes, decode in one of
the three streams to that instruction with every operand as it was, and leave the bytes after it; and what a decoder accepts of a warp or matrix word is
encoded by that word.
(The model's own choice where log entry 6 says so.) -/
def Obligations.EncodingRoundTrip : Prop :=
  (∀ (i : Instr) (tail : List Byte), i.wf = true → i.isReserved = false → encode i ≠ [] → ∃ st, decode st true (encode i ++ tail) = .ok (i, tail)) ∧
  (∀ (lit : Bool) (w x y : Word), decodeWarp lit w x y = .reservedEncoding w ∨
    (encodeWord (decodeWarp lit w x y) = some w ∧ (decodeWarp lit w x y).wf = true)) ∧
  (∀ w x : Word, decodeMatrix w x = .matrixReservedEncoding w ∨
    (encodeWord (decodeMatrix w x) = some w ∧ (decodeMatrix w x).wf = true))

/-- R24, R25, R39, R47, R252: words written out from the encodings of the spec decode to the instructions they stand for.
(The model's own choice where log entry 6 says so.) -/
def Obligations.WordsDecode : Prop :=
  decodeWarp false 0x98182100#32 0 0 = .add { s := true, d := 3, a := 1, b := 2, x := false, y := false } ∧
  decodeWarp false 0x056FFFFF#32 0 0 = .bra { s := false, p := 5, n := true, u := false, o := -1 } ∧
  decodeWarp false 0x40205F68#32 0 0 = .ld { s := false, d := 4, a := 2, b := 31, w := 3, p := 1 } ∧
  decodeWarp false 0x32084180#32 0 0 = .sadd { s := false, d := 1, a := 2, b := 3 } ∧
  decodeWarp false 0x15280060#32 0 0 = .srd { s := false, d := 5, n := 0x60 } ∧
  decodeWarp false 0x7E000000#32 0x12345678#32 0 = .limm 0x12345678#32 ∧
  decodeWarp false 0xFFFFFFFF#32 0 0 = .reservedEncoding 0xFFFFFFFF#32 ∧
  decodeMatrix 0x06246000#32 0 = .madd { s := false, d := 1, a := 2, b := 3 } ∧
  decodeSpoke 0xFFF00093#32 = .spokeOtherInstruction false (.imm .addi 1 0 0xFFF)

/-- R14 to R17, R25, R249, R302: a step lets time pass, and then runs what its turn names: an engine's or an outside event as it stands; for an issue slot, the
instruction that the fetched bytes of the party it picks decode to, where the port has not had its turn in the cycle. A word is fetched as the bytes at its address where a translation of it is at hand.
(The model's own choice where log entries 5 and 70 say so.) -/
def Obligations.StepRunsDecoded : Prop :=
  ∀ s : State,
    let p : State := { s.tick with agenda := s.agenda.drop 1 }
    (∀ k, s.nextTurn = some (.event k) → step s = exec k p) ∧
    (∀ (core part i : Nat), s.nextTurn = some (.issue core part) → p.portOpen core part = true → p.pick core part = some i →
      let q := (usePort core part p).modCore core (fun c => { c with rr := c.rr.set part ((p.warpOf i).id % 128) })
      let t := (wake i (countIssue i q)).modSplit i (fun x => { x with boosted := false })
      let lit := (t.split i).lit.isSome
      let pc := if lit then (t.split i).pc + 8 else (t.split i).pc
      ∀ (u v : State) (bs all rest : List Byte) (k : Instr) (va vb : Nat),
        (match (t.split i).cons with
          | some w => if lit then (t, Got.ok (wordBytes w), pc) else fetchWords (t.wgIdxOf i) (t.split i).prv 0 1 pc t
          | none => fetchWords (t.wgIdxOf i) (t.split i).prv 0 1 pc t) = (u, .ok bs, va) → decode .warp lit (bs ++ List.replicate 8 0) = .ok (k, rest) →
        (k.size = 4 → step s = exec k { u with who := { u.who with split := i } }) ∧
        (∀ k2 rest2, k.size ≠ 4 → fetchWords (t.wgIdxOf i) (t.split i).prv 0 (k.size / 4) pc u = (v, .ok all, vb) →
          decode .warp lit (all ++ List.replicate 8 0) = .ok (k2, rest2) → step s = exec k2 { v with who := { v.who with split := i } })) ∧
    (∀ (core g : Nat), s.nextTurn = some (.issueSeq core) → p.portOpen core 4 = true → p.pickCtx core .seq (p.core core).rrSeq = some g →
      let q := (usePort core 4 p).modCore core (fun c => { c with rrSeq := (p.wg g).slot.getD 0 })
      let t := q.modSeq g (fun x => { x with phase := .ready })
      let lit := (t.seq g).lit.isSome
      let pc := if lit then (t.seq g).pc + 8 else (t.seq g).pc
      ((t.wg g).preq = none ∨ (t.seq g).n ≠ 0 ∨ lit = true) → ∀ (u v : State) (bs all rest : List Byte) (k : Instr) (va vb : Nat),
        (match (t.seq g).cons with
          | some w => if lit then (t, Got.ok (wordBytes w), pc) else fetchWords g (t.wg g).prv 7 1 pc t
          | none => fetchWords g (t.wg g).prv 7 1 pc t) = (u, .ok bs, va) → decode .matrix lit (bs ++ List.replicate 8 0) = .ok (k, rest) →
        (k.size = 4 → step s = exec k { u with who := { u.who with wg := g } }) ∧
        (∀ k2 rest2, k.size ≠ 4 → fetchWords g (t.wg g).prv 7 (k.size / 4) pc u = (v, .ok all, vb) →
          decode .matrix lit (all ++ List.replicate 8 0) = .ok (k2, rest2) → step s = exec k2 { v with who := { v.who with wg := g } })) ∧
    (∀ (core g : Nat) (st : Bool) (rest : List Byte) (k : Instr), s.nextTurn = some (.issueSpoke core st) →
      p.portOpen core (if st then 6 else 5) = true → p.pickCtx core (fun g => .spoke g st) (if st then (p.core core).rrStore else (p.core core).rrLoad) = some g →
      let q := (usePort core (if st then 6 else 5) p).modCore core (fun c => if st then { c with rrStore := (p.wg g).slot.getD 0 } else { c with rrLoad := (p.wg g).slot.getD 0 })
      let t := q.setCtxPhase (.spoke g st) .ready
      let u : State := { t with who := { t.who with wg := g, store := st } }
      (t.wg g).preq = none →
      ((t.spoke g st).badFetch = true → step s = exec (.spokeIllegalInstruction 0) u) ∧
      ((t.spoke g st).badFetch = false → decode .spoke false (t.spoke g st).fetch = .ok (k, rest) → step s = exec k u)) ∧
    (∀ (g va : Nat) (prv : Bool) (cls : Nat) (l : Leaf), va < 2 ^ 56 →
      s.cached (s.wg g).core (s.wg g).troot (s.wg g).trgen va = some l → l.allows .fetch prv = true → s.keyOn l.key = true →
      s.stale l (l.at va) = false → s.onHold (l.at va) = false → s.homeBusy (dieOfCore (s.wg g).core) false (l.at va) 4 .device = false → s.homeCause (l.at va) 4 = none →
      s.fetchWord g va prv cls = (s, .ok (BitVec.ofNat 32 (s.readNat l.key (l.at va) 4))))

/-- R7, R429: every step keeps the memory of the device and the scratchpad of every workgroup in canonical form, so that equal contents are equal data.
(The model's own choice where log entry 1 says so.) -/
def Obligations.MemoryStaysCanonical : Prop :=
  ∀ s t : State, MemoryCanonical s → step s = .next t → MemoryCanonical t

/-- R382, R423, R429, R430: the machine as the rails become valid. Nothing is resident; eight dies, 128 cores, 256 disabled queues and 32 clusters of bound registers,
each at all ones, are there; no key slot but slot 0 is enabled, no queue runs, no translation is cached, a cold start is to run; memory lists nothing
and is canonical.
(The model's own choice where log entries 1, 7, 8 and 9 say so.) -/
def Obligations.ResetState : Prop :=
  let s := State.reset
  MemoryCanonical s ∧ s.mem = [] ∧ s.wgs = [] ∧ s.warps = [] ∧ s.splits = [] ∧ s.launches = [] ∧ s.reqs = [] ∧ s.leases = [] ∧ s.owners = [] ∧
  s.dies.length = 8 ∧ s.cores.length = 128 ∧ s.queues.length = 256 ∧ s.bounds = List.replicate 32 (List.replicate 8 0xFFFFFFFFFFFFFFFF) ∧
  (∀ q ∈ s.queues, q.en = false ∧ q.state = .disabled ∧ q.qdb = q.qrd) ∧ (∀ c ∈ s.cores, c.xlat = [] ∧ c.l1 = []) ∧ s.keyOn 0 = true ∧
  (∀ k, k ≠ 0 → s.keyOn k = false) ∧ s.dev.start = some .cold ∧ s.dev.st = 0 ∧
  (∀ x ∈ s.dies, x.hf.valid = false ∧ x.xf.valid = false ∧ x.tf.valid = false ∧ x.lf.valid = false ∧ x.mg.valid = false ∧ x.tk.valid = false ∧
    x.ce.valid = false) ∧ s.dev.sf.valid = false ∧ ∀ x ∈ s.dies, x.lost = none ∧ x.quiesced = false ∧ x.unsync = true

/-- R28, R29, R32 to R34, R137, R145, R159, R176, R180: what words leave unchanged. A per-lane word that opens a group leaves every vector register but its
destination and its last uses, every predicate, scalar, byte of memory and of scratchpad, and every fault record, of the dies, of the device and of
halted contexts; a scalar word every vector register, every predicate,
every scalar but its destination, and the rest as well, SADDI among them; a store that its home applies changes no byte of a granule that none of its lanes' bytes lies in, and under
its own key slot no byte but those. -/
def Obligations.Frames : Prop :=
  ∀ s t : State,
    let i := s.who.split
    let alone : Prop := i < s.splits.length ∧ s.me.held = [] ∧ s.me.pend = none ∧ (s.wg s.mine).preq = none ∧ (s.wg s.mine).creq = none
    let still : Prop := t.mem = s.mem ∧ (∀ k a, t.byteAt k a = s.byteAt k a) ∧ (∀ g, (t.wg g).scratch = (s.wg g).scratch) ∧
      t.dies = s.dies ∧ t.dev = s.dev ∧
      (∀ g, (t.wg g).seq.mf = (s.wg g).seq.mf ∧ (t.wg g).lspoke.mf = (s.wg g).lspoke.mf ∧ (t.wg g).sspoke.mf = (s.wg g).sspoke.mf ∧
        (t.wg g).entries = (s.wg g).entries ∧ (t.wg g).tvec = (s.wg g).tvec ∧ (t.wg g).troot = (s.wg g).troot ∧ (t.wg g).save = (s.wg g).save)
    (∀ (k : Instr) (o : LaneWord), laneWord k = some o → alone → exec k s = .next t →
      still ∧ (∀ j, (t.split j).s = (s.split j).s ∧ (t.split j).sp = (s.split j).sp) ∧ (∀ w, (t.warp w).p = (s.warp w).p) ∧
      ∀ w q, ¬(w = s.me.warp ∧ (q = o.d ∨ ∃ u ∈ o.kills, u.1 = true ∧ u.2.toNat = q)) → (t.warp w).reg q = (s.warp w).reg q) ∧
    (∀ (k : Instr) (w : Sc3) (f : Word → Word → Word), scalarWord k = some (w, f) → alone → exec k s = .next t →
      still ∧ (∀ u, (t.warp u).p = (s.warp u).p ∧ (t.warp u).v = (s.warp u).v) ∧
      ∀ j r, ¬(j = i ∧ r = w.d.toNat) → (t.split j).sreg r = (s.split j).sreg r) ∧
    (∀ w : SaddiF, alone → exec (.saddi w) s = .next t →
      still ∧ (∀ u, (t.warp u).p = (s.warp u).p ∧ (t.warp u).v = (s.warp u).v) ∧
      ∀ j r, ¬(j = i ∧ r = w.d.toNat) → (t.split j).sreg r = (s.split j).sreg r) ∧
    (∀ (id n : Nat) (r : MemReq), s.memReq id = some r → r.op = .store n → s.blockedBy r = false → r.fail = none → s.wholeCause r.pa = none →
      s.homeBusy (dieOfCore r.core) true r.pa (4 * r.span.count) r.party = false → Memory.wf s.mem = true →
      exec (.homeWrite id) s = .next t →
      (∀ k a, (∀ l ∈ r.lanes, a / 32 ∉ granulesOf l.pa n) → t.byteAt k a = s.byteAt k a) ∧
      (∀ a, (∀ l ∈ r.lanes, a < l.pa ∨ l.pa + n ≤ a) → t.byteAt r.leaf.key a = s.byteAt r.leaf.key a))
end

