-- ==== Sys2Proof/Laws/State.lean ====
section
/-! SUPPORT. What each update of the state leaves and gives: every field but the one it changes, the entity it changes, and the others. -/

namespace Sys2Proof.Machine

/-- `modDie` leaves the parties and what they run. -/
@[simp] theorem State.modDie_parties (s : State) (d : Nat) (f : Die → Die) :
    (s.modDie d f).cores = s.cores ∧ (s.modDie d f).wgs = s.wgs ∧ (s.modDie d f).warps = s.warps ∧
      (s.modDie d f).splits = s.splits ∧ (s.modDie d f).launches = s.launches ∧ (s.modDie d f).queues = s.queues := by
  simp only [State.modDie, and_self]

/-- `modDie` leaves memory, its homes and its keys. -/
@[simp] theorem State.modDie_memory (s : State) (d : Nat) (f : Die → Die) :
    (s.modDie d f).mem = s.mem ∧ (s.modDie d f).leases = s.leases ∧ (s.modDie d f).owners = s.owners ∧
      (s.modDie d f).pgen = s.pgen ∧ (s.modDie d f).tags = s.tags ∧ (s.modDie d f).keys = s.keys ∧
      (s.modDie d f).ecc = s.ecc := by
  simp only [State.modDie, and_self]

/-- `modDie` leaves the host side and the device as a whole. -/
@[simp] theorem State.modDie_host (s : State) (d : Nat) (f : Die → Die) :
    (s.modDie d f).hlines = s.hlines ∧ (s.modDie d f).hreqs = s.hreqs ∧ (s.modDie d f).hheld = s.hheld ∧
      (s.modDie d f).hbinv = s.hbinv ∧ (s.modDie d f).hwrites = s.hwrites ∧ (s.modDie d f).hout = s.hout ∧
      (s.modDie d f).hdown = s.hdown ∧ (s.modDie d f).hfail = s.hfail ∧ (s.modDie d f).ptm = s.ptm ∧
      (s.modDie d f).dev = s.dev ∧ (s.modDie d f).msix = s.msix ∧ (s.modDie d f).spare = s.spare := by
  simp only [State.modDie, and_self]

/-- `modDie` leaves the engines of the dies. -/
@[simp] theorem State.modDie_engines (s : State) (d : Nat) (f : Die → Die) :
    (s.modDie d f).copies = s.copies ∧ (s.modDie d f).trees = s.trees ∧ (s.modDie d f).pool = s.pool ∧
      (s.modDie d f).cancels = s.cancels ∧ (s.modDie d f).autos = s.autos ∧ (s.modDie d f).gives = s.gives ∧
      (s.modDie d f).bounds = s.bounds ∧ (s.modDie d f).fabric = s.fabric ∧ (s.modDie d f).reqs = s.reqs ∧
      (s.modDie d f).away = s.away ∧ (s.modDie d f).nextId = s.nextId := by
  simp only [State.modDie, and_self]

/-- `modDie` leaves what the model keeps of a run. -/
@[simp] theorem State.modDie_run (s : State) (d : Nat) (f : Die → Die) :
    (s.modDie d f).who = s.who ∧ (s.modDie d f).stall = s.stall ∧ (s.modDie d f).free = s.free ∧
      (s.modDie d f).agenda = s.agenda ∧ (s.modDie d f).pace = s.pace ∧ (s.modDie d f).steps = s.steps := by
  simp only [State.modDie, and_self]

/-- `modCore` leaves the parties and what they run. -/
@[simp] theorem State.modCore_parties (s : State) (c : Nat) (f : Core → Core) :
    (s.modCore c f).dies = s.dies ∧ (s.modCore c f).wgs = s.wgs ∧ (s.modCore c f).warps = s.warps ∧
      (s.modCore c f).splits = s.splits ∧ (s.modCore c f).launches = s.launches ∧ (s.modCore c f).queues = s.queues := by
  simp only [State.modCore, and_self]

/-- `modCore` leaves memory, its homes and its keys. -/
@[simp] theorem State.modCore_memory (s : State) (c : Nat) (f : Core → Core) :
    (s.modCore c f).mem = s.mem ∧ (s.modCore c f).leases = s.leases ∧ (s.modCore c f).owners = s.owners ∧
      (s.modCore c f).pgen = s.pgen ∧ (s.modCore c f).tags = s.tags ∧ (s.modCore c f).keys = s.keys ∧
      (s.modCore c f).ecc = s.ecc := by
  simp only [State.modCore, and_self]

/-- `modCore` leaves the host side and the device as a whole. -/
@[simp] theorem State.modCore_host (s : State) (c : Nat) (f : Core → Core) :
    (s.modCore c f).hlines = s.hlines ∧ (s.modCore c f).hreqs = s.hreqs ∧ (s.modCore c f).hheld = s.hheld ∧
      (s.modCore c f).hbinv = s.hbinv ∧ (s.modCore c f).hwrites = s.hwrites ∧ (s.modCore c f).hout = s.hout ∧
      (s.modCore c f).hdown = s.hdown ∧ (s.modCore c f).hfail = s.hfail ∧ (s.modCore c f).ptm = s.ptm ∧
      (s.modCore c f).dev = s.dev ∧ (s.modCore c f).msix = s.msix ∧ (s.modCore c f).spare = s.spare := by
  simp only [State.modCore, and_self]

/-- `modCore` leaves the engines of the dies. -/
@[simp] theorem State.modCore_engines (s : State) (c : Nat) (f : Core → Core) :
    (s.modCore c f).copies = s.copies ∧ (s.modCore c f).trees = s.trees ∧ (s.modCore c f).pool = s.pool ∧
      (s.modCore c f).cancels = s.cancels ∧ (s.modCore c f).autos = s.autos ∧ (s.modCore c f).gives = s.gives ∧
      (s.modCore c f).bounds = s.bounds ∧ (s.modCore c f).fabric = s.fabric ∧ (s.modCore c f).reqs = s.reqs ∧
      (s.modCore c f).away = s.away ∧ (s.modCore c f).nextId = s.nextId := by
  simp only [State.modCore, and_self]

/-- `modCore` leaves what the model keeps of a run. -/
@[simp] theorem State.modCore_run (s : State) (c : Nat) (f : Core → Core) :
    (s.modCore c f).who = s.who ∧ (s.modCore c f).stall = s.stall ∧ (s.modCore c f).free = s.free ∧
      (s.modCore c f).agenda = s.agenda ∧ (s.modCore c f).pace = s.pace ∧ (s.modCore c f).steps = s.steps := by
  simp only [State.modCore, and_self]

/-- `modWg` leaves the parties and what they run. -/
@[simp] theorem State.modWg_parties (s : State) (g : Nat) (f : Wg → Wg) :
    (s.modWg g f).dies = s.dies ∧ (s.modWg g f).cores = s.cores ∧ (s.modWg g f).warps = s.warps ∧
      (s.modWg g f).splits = s.splits ∧ (s.modWg g f).launches = s.launches ∧ (s.modWg g f).queues = s.queues := by
  simp only [State.modWg, and_self]

/-- `modWg` leaves memory, its homes and its keys. -/
@[simp] theorem State.modWg_memory (s : State) (g : Nat) (f : Wg → Wg) :
    (s.modWg g f).mem = s.mem ∧ (s.modWg g f).leases = s.leases ∧ (s.modWg g f).owners = s.owners ∧
      (s.modWg g f).pgen = s.pgen ∧ (s.modWg g f).tags = s.tags ∧ (s.modWg g f).keys = s.keys ∧
      (s.modWg g f).ecc = s.ecc := by
  simp only [State.modWg, and_self]

/-- `modWg` leaves the host side and the device as a whole. -/
@[simp] theorem State.modWg_host (s : State) (g : Nat) (f : Wg → Wg) :
    (s.modWg g f).hlines = s.hlines ∧ (s.modWg g f).hreqs = s.hreqs ∧ (s.modWg g f).hheld = s.hheld ∧
      (s.modWg g f).hbinv = s.hbinv ∧ (s.modWg g f).hwrites = s.hwrites ∧ (s.modWg g f).hout = s.hout ∧
      (s.modWg g f).hdown = s.hdown ∧ (s.modWg g f).hfail = s.hfail ∧ (s.modWg g f).ptm = s.ptm ∧
      (s.modWg g f).dev = s.dev ∧ (s.modWg g f).msix = s.msix ∧ (s.modWg g f).spare = s.spare := by
  simp only [State.modWg, and_self]

/-- `modWg` leaves the engines of the dies. -/
@[simp] theorem State.modWg_engines (s : State) (g : Nat) (f : Wg → Wg) :
    (s.modWg g f).copies = s.copies ∧ (s.modWg g f).trees = s.trees ∧ (s.modWg g f).pool = s.pool ∧
      (s.modWg g f).cancels = s.cancels ∧ (s.modWg g f).autos = s.autos ∧ (s.modWg g f).gives = s.gives ∧
      (s.modWg g f).bounds = s.bounds ∧ (s.modWg g f).fabric = s.fabric ∧ (s.modWg g f).reqs = s.reqs ∧
      (s.modWg g f).away = s.away ∧ (s.modWg g f).nextId = s.nextId := by
  simp only [State.modWg, and_self]

/-- `modWg` leaves what the model keeps of a run. -/
@[simp] theorem State.modWg_run (s : State) (g : Nat) (f : Wg → Wg) :
    (s.modWg g f).who = s.who ∧ (s.modWg g f).stall = s.stall ∧ (s.modWg g f).free = s.free ∧
      (s.modWg g f).agenda = s.agenda ∧ (s.modWg g f).pace = s.pace ∧ (s.modWg g f).steps = s.steps := by
  simp only [State.modWg, and_self]

/-- `modWarp` leaves the parties and what they run. -/
@[simp] theorem State.modWarp_parties (s : State) (w : Nat) (f : Warp → Warp) :
    (s.modWarp w f).dies = s.dies ∧ (s.modWarp w f).cores = s.cores ∧ (s.modWarp w f).wgs = s.wgs ∧
      (s.modWarp w f).splits = s.splits ∧ (s.modWarp w f).launches = s.launches ∧ (s.modWarp w f).queues = s.queues := by
  simp only [State.modWarp, and_self]

/-- `modWarp` leaves memory, its homes and its keys. -/
@[simp] theorem State.modWarp_memory (s : State) (w : Nat) (f : Warp → Warp) :
    (s.modWarp w f).mem = s.mem ∧ (s.modWarp w f).leases = s.leases ∧ (s.modWarp w f).owners = s.owners ∧
      (s.modWarp w f).pgen = s.pgen ∧ (s.modWarp w f).tags = s.tags ∧ (s.modWarp w f).keys = s.keys ∧
      (s.modWarp w f).ecc = s.ecc := by
  simp only [State.modWarp, and_self]

/-- `modWarp` leaves the host side and the device as a whole. -/
@[simp] theorem State.modWarp_host (s : State) (w : Nat) (f : Warp → Warp) :
    (s.modWarp w f).hlines = s.hlines ∧ (s.modWarp w f).hreqs = s.hreqs ∧ (s.modWarp w f).hheld = s.hheld ∧
      (s.modWarp w f).hbinv = s.hbinv ∧ (s.modWarp w f).hwrites = s.hwrites ∧ (s.modWarp w f).hout = s.hout ∧
      (s.modWarp w f).hdown = s.hdown ∧ (s.modWarp w f).hfail = s.hfail ∧ (s.modWarp w f).ptm = s.ptm ∧
      (s.modWarp w f).dev = s.dev ∧ (s.modWarp w f).msix = s.msix ∧ (s.modWarp w f).spare = s.spare := by
  simp only [State.modWarp, and_self]

/-- `modWarp` leaves the engines of the dies. -/
@[simp] theorem State.modWarp_engines (s : State) (w : Nat) (f : Warp → Warp) :
    (s.modWarp w f).copies = s.copies ∧ (s.modWarp w f).trees = s.trees ∧ (s.modWarp w f).pool = s.pool ∧
      (s.modWarp w f).cancels = s.cancels ∧ (s.modWarp w f).autos = s.autos ∧ (s.modWarp w f).gives = s.gives ∧
      (s.modWarp w f).bounds = s.bounds ∧ (s.modWarp w f).fabric = s.fabric ∧ (s.modWarp w f).reqs = s.reqs ∧
      (s.modWarp w f).away = s.away ∧ (s.modWarp w f).nextId = s.nextId := by
  simp only [State.modWarp, and_self]

/-- `modWarp` leaves what the model keeps of a run. -/
@[simp] theorem State.modWarp_run (s : State) (w : Nat) (f : Warp → Warp) :
    (s.modWarp w f).who = s.who ∧ (s.modWarp w f).stall = s.stall ∧ (s.modWarp w f).free = s.free ∧
      (s.modWarp w f).agenda = s.agenda ∧ (s.modWarp w f).pace = s.pace ∧ (s.modWarp w f).steps = s.steps := by
  simp only [State.modWarp, and_self]

/-- `modSplit` leaves the parties and what they run. -/
@[simp] theorem State.modSplit_parties (s : State) (i : Nat) (f : Split → Split) :
    (s.modSplit i f).dies = s.dies ∧ (s.modSplit i f).cores = s.cores ∧ (s.modSplit i f).wgs = s.wgs ∧
      (s.modSplit i f).warps = s.warps ∧ (s.modSplit i f).launches = s.launches ∧ (s.modSplit i f).queues = s.queues := by
  simp only [State.modSplit, and_self]

/-- `modSplit` leaves memory, its homes and its keys. -/
@[simp] theorem State.modSplit_memory (s : State) (i : Nat) (f : Split → Split) :
    (s.modSplit i f).mem = s.mem ∧ (s.modSplit i f).leases = s.leases ∧ (s.modSplit i f).owners = s.owners ∧
      (s.modSplit i f).pgen = s.pgen ∧ (s.modSplit i f).tags = s.tags ∧ (s.modSplit i f).keys = s.keys ∧
      (s.modSplit i f).ecc = s.ecc := by
  simp only [State.modSplit, and_self]

/-- `modSplit` leaves the host side and the device as a whole. -/
@[simp] theorem State.modSplit_host (s : State) (i : Nat) (f : Split → Split) :
    (s.modSplit i f).hlines = s.hlines ∧ (s.modSplit i f).hreqs = s.hreqs ∧ (s.modSplit i f).hheld = s.hheld ∧
      (s.modSplit i f).hbinv = s.hbinv ∧ (s.modSplit i f).hwrites = s.hwrites ∧ (s.modSplit i f).hout = s.hout ∧
      (s.modSplit i f).hdown = s.hdown ∧ (s.modSplit i f).hfail = s.hfail ∧ (s.modSplit i f).ptm = s.ptm ∧
      (s.modSplit i f).dev = s.dev ∧ (s.modSplit i f).msix = s.msix ∧ (s.modSplit i f).spare = s.spare := by
  simp only [State.modSplit, and_self]

/-- `modSplit` leaves the engines of the dies. -/
@[simp] theorem State.modSplit_engines (s : State) (i : Nat) (f : Split → Split) :
    (s.modSplit i f).copies = s.copies ∧ (s.modSplit i f).trees = s.trees ∧ (s.modSplit i f).pool = s.pool ∧
      (s.modSplit i f).cancels = s.cancels ∧ (s.modSplit i f).autos = s.autos ∧ (s.modSplit i f).gives = s.gives ∧
      (s.modSplit i f).bounds = s.bounds ∧ (s.modSplit i f).fabric = s.fabric ∧ (s.modSplit i f).reqs = s.reqs ∧
      (s.modSplit i f).away = s.away ∧ (s.modSplit i f).nextId = s.nextId := by
  simp only [State.modSplit, and_self]

/-- `modSplit` leaves what the model keeps of a run. -/
@[simp] theorem State.modSplit_run (s : State) (i : Nat) (f : Split → Split) :
    (s.modSplit i f).who = s.who ∧ (s.modSplit i f).stall = s.stall ∧ (s.modSplit i f).free = s.free ∧
      (s.modSplit i f).agenda = s.agenda ∧ (s.modSplit i f).pace = s.pace ∧ (s.modSplit i f).steps = s.steps := by
  simp only [State.modSplit, and_self]

/-- `modLaunch` leaves the parties and what they run. -/
@[simp] theorem State.modLaunch_parties (s : State) (l : Nat) (f : Launch → Launch) :
    (s.modLaunch l f).dies = s.dies ∧ (s.modLaunch l f).cores = s.cores ∧ (s.modLaunch l f).wgs = s.wgs ∧
      (s.modLaunch l f).warps = s.warps ∧ (s.modLaunch l f).splits = s.splits ∧ (s.modLaunch l f).queues = s.queues := by
  simp only [State.modLaunch, and_self]

/-- `modLaunch` leaves memory, its homes and its keys. -/
@[simp] theorem State.modLaunch_memory (s : State) (l : Nat) (f : Launch → Launch) :
    (s.modLaunch l f).mem = s.mem ∧ (s.modLaunch l f).leases = s.leases ∧ (s.modLaunch l f).owners = s.owners ∧
      (s.modLaunch l f).pgen = s.pgen ∧ (s.modLaunch l f).tags = s.tags ∧ (s.modLaunch l f).keys = s.keys ∧
      (s.modLaunch l f).ecc = s.ecc := by
  simp only [State.modLaunch, and_self]

/-- `modLaunch` leaves the host side and the device as a whole. -/
@[simp] theorem State.modLaunch_host (s : State) (l : Nat) (f : Launch → Launch) :
    (s.modLaunch l f).hlines = s.hlines ∧ (s.modLaunch l f).hreqs = s.hreqs ∧ (s.modLaunch l f).hheld = s.hheld ∧
      (s.modLaunch l f).hbinv = s.hbinv ∧ (s.modLaunch l f).hwrites = s.hwrites ∧ (s.modLaunch l f).hout = s.hout ∧
      (s.modLaunch l f).hdown = s.hdown ∧ (s.modLaunch l f).hfail = s.hfail ∧ (s.modLaunch l f).ptm = s.ptm ∧
      (s.modLaunch l f).dev = s.dev ∧ (s.modLaunch l f).msix = s.msix ∧ (s.modLaunch l f).spare = s.spare := by
  simp only [State.modLaunch, and_self]

/-- `modLaunch` leaves the engines of the dies. -/
@[simp] theorem State.modLaunch_engines (s : State) (l : Nat) (f : Launch → Launch) :
    (s.modLaunch l f).copies = s.copies ∧ (s.modLaunch l f).trees = s.trees ∧ (s.modLaunch l f).pool = s.pool ∧
      (s.modLaunch l f).cancels = s.cancels ∧ (s.modLaunch l f).autos = s.autos ∧ (s.modLaunch l f).gives = s.gives ∧
      (s.modLaunch l f).bounds = s.bounds ∧ (s.modLaunch l f).fabric = s.fabric ∧ (s.modLaunch l f).reqs = s.reqs ∧
      (s.modLaunch l f).away = s.away ∧ (s.modLaunch l f).nextId = s.nextId := by
  simp only [State.modLaunch, and_self]

/-- `modLaunch` leaves what the model keeps of a run. -/
@[simp] theorem State.modLaunch_run (s : State) (l : Nat) (f : Launch → Launch) :
    (s.modLaunch l f).who = s.who ∧ (s.modLaunch l f).stall = s.stall ∧ (s.modLaunch l f).free = s.free ∧
      (s.modLaunch l f).agenda = s.agenda ∧ (s.modLaunch l f).pace = s.pace ∧ (s.modLaunch l f).steps = s.steps := by
  simp only [State.modLaunch, and_self]

/-- `modQueue` leaves the parties and what they run. -/
@[simp] theorem State.modQueue_parties (s : State) (q : Nat) (f : Queue → Queue) :
    (s.modQueue q f).dies = s.dies ∧ (s.modQueue q f).cores = s.cores ∧ (s.modQueue q f).wgs = s.wgs ∧
      (s.modQueue q f).warps = s.warps ∧ (s.modQueue q f).splits = s.splits ∧ (s.modQueue q f).launches = s.launches := by
  simp only [State.modQueue, and_self]

/-- `modQueue` leaves memory, its homes and its keys. -/
@[simp] theorem State.modQueue_memory (s : State) (q : Nat) (f : Queue → Queue) :
    (s.modQueue q f).mem = s.mem ∧ (s.modQueue q f).leases = s.leases ∧ (s.modQueue q f).owners = s.owners ∧
      (s.modQueue q f).pgen = s.pgen ∧ (s.modQueue q f).tags = s.tags ∧ (s.modQueue q f).keys = s.keys ∧
      (s.modQueue q f).ecc = s.ecc := by
  simp only [State.modQueue, and_self]

/-- `modQueue` leaves the host side and the device as a whole. -/
@[simp] theorem State.modQueue_host (s : State) (q : Nat) (f : Queue → Queue) :
    (s.modQueue q f).hlines = s.hlines ∧ (s.modQueue q f).hreqs = s.hreqs ∧ (s.modQueue q f).hheld = s.hheld ∧
      (s.modQueue q f).hbinv = s.hbinv ∧ (s.modQueue q f).hwrites = s.hwrites ∧ (s.modQueue q f).hout = s.hout ∧
      (s.modQueue q f).hdown = s.hdown ∧ (s.modQueue q f).hfail = s.hfail ∧ (s.modQueue q f).ptm = s.ptm ∧
      (s.modQueue q f).dev = s.dev ∧ (s.modQueue q f).msix = s.msix ∧ (s.modQueue q f).spare = s.spare := by
  simp only [State.modQueue, and_self]

/-- `modQueue` leaves the engines of the dies. -/
@[simp] theorem State.modQueue_engines (s : State) (q : Nat) (f : Queue → Queue) :
    (s.modQueue q f).copies = s.copies ∧ (s.modQueue q f).trees = s.trees ∧ (s.modQueue q f).pool = s.pool ∧
      (s.modQueue q f).cancels = s.cancels ∧ (s.modQueue q f).autos = s.autos ∧ (s.modQueue q f).gives = s.gives ∧
      (s.modQueue q f).bounds = s.bounds ∧ (s.modQueue q f).fabric = s.fabric ∧ (s.modQueue q f).reqs = s.reqs ∧
      (s.modQueue q f).away = s.away ∧ (s.modQueue q f).nextId = s.nextId := by
  simp only [State.modQueue, and_self]

/-- `modQueue` leaves what the model keeps of a run. -/
@[simp] theorem State.modQueue_run (s : State) (q : Nat) (f : Queue → Queue) :
    (s.modQueue q f).who = s.who ∧ (s.modQueue q f).stall = s.stall ∧ (s.modQueue q f).free = s.free ∧
      (s.modQueue q f).agenda = s.agenda ∧ (s.modQueue q f).pace = s.pace ∧ (s.modQueue q f).steps = s.steps := by
  simp only [State.modQueue, and_self]

/-- `modDev` leaves the parties and what they run. -/
@[simp] theorem State.modDev_parties (s : State) (f : Dev → Dev) :
    (s.modDev f).dies = s.dies ∧ (s.modDev f).cores = s.cores ∧ (s.modDev f).wgs = s.wgs ∧
      (s.modDev f).warps = s.warps ∧ (s.modDev f).splits = s.splits ∧ (s.modDev f).launches = s.launches ∧
      (s.modDev f).queues = s.queues := by
  simp only [State.modDev, and_self]

/-- `modDev` leaves memory, its homes and its keys. -/
@[simp] theorem State.modDev_memory (s : State) (f : Dev → Dev) :
    (s.modDev f).mem = s.mem ∧ (s.modDev f).leases = s.leases ∧ (s.modDev f).owners = s.owners ∧
      (s.modDev f).pgen = s.pgen ∧ (s.modDev f).tags = s.tags ∧ (s.modDev f).keys = s.keys ∧
      (s.modDev f).ecc = s.ecc := by
  simp only [State.modDev, and_self]

/-- `modDev` leaves the host side and the device as a whole. -/
@[simp] theorem State.modDev_host (s : State) (f : Dev → Dev) :
    (s.modDev f).hlines = s.hlines ∧ (s.modDev f).hreqs = s.hreqs ∧ (s.modDev f).hheld = s.hheld ∧
      (s.modDev f).hbinv = s.hbinv ∧ (s.modDev f).hwrites = s.hwrites ∧ (s.modDev f).hout = s.hout ∧
      (s.modDev f).hdown = s.hdown ∧ (s.modDev f).hfail = s.hfail ∧ (s.modDev f).ptm = s.ptm ∧
      (s.modDev f).msix = s.msix ∧ (s.modDev f).spare = s.spare := by
  simp only [State.modDev, and_self]

/-- `modDev` leaves the engines of the dies. -/
@[simp] theorem State.modDev_engines (s : State) (f : Dev → Dev) :
    (s.modDev f).copies = s.copies ∧ (s.modDev f).trees = s.trees ∧ (s.modDev f).pool = s.pool ∧
      (s.modDev f).cancels = s.cancels ∧ (s.modDev f).autos = s.autos ∧ (s.modDev f).gives = s.gives ∧
      (s.modDev f).bounds = s.bounds ∧ (s.modDev f).fabric = s.fabric ∧ (s.modDev f).reqs = s.reqs ∧
      (s.modDev f).away = s.away ∧ (s.modDev f).nextId = s.nextId := by
  simp only [State.modDev, and_self]

/-- `modDev` leaves what the model keeps of a run. -/
@[simp] theorem State.modDev_run (s : State) (f : Dev → Dev) :
    (s.modDev f).who = s.who ∧ (s.modDev f).stall = s.stall ∧ (s.modDev f).free = s.free ∧
      (s.modDev f).agenda = s.agenda ∧ (s.modDev f).pace = s.pace ∧ (s.modDev f).steps = s.steps := by
  simp only [State.modDev, and_self]

/-- `dropReq` leaves the parties and what they run. -/
@[simp] theorem State.dropReq_parties (s : State) (id : Nat) :
    (s.dropReq id).dies = s.dies ∧ (s.dropReq id).cores = s.cores ∧ (s.dropReq id).wgs = s.wgs ∧
      (s.dropReq id).warps = s.warps ∧ (s.dropReq id).splits = s.splits ∧ (s.dropReq id).launches = s.launches ∧
      (s.dropReq id).queues = s.queues := by
  simp only [State.dropReq, and_self]

/-- `dropReq` leaves memory, its homes and its keys. -/
@[simp] theorem State.dropReq_memory (s : State) (id : Nat) :
    (s.dropReq id).mem = s.mem ∧ (s.dropReq id).leases = s.leases ∧ (s.dropReq id).owners = s.owners ∧
      (s.dropReq id).pgen = s.pgen ∧ (s.dropReq id).tags = s.tags ∧ (s.dropReq id).keys = s.keys ∧
      (s.dropReq id).ecc = s.ecc := by
  simp only [State.dropReq, and_self]

/-- `dropReq` leaves the host side and the device as a whole. -/
@[simp] theorem State.dropReq_host (s : State) (id : Nat) :
    (s.dropReq id).hlines = s.hlines ∧ (s.dropReq id).hreqs = s.hreqs ∧ (s.dropReq id).hheld = s.hheld ∧
      (s.dropReq id).hbinv = s.hbinv ∧ (s.dropReq id).hwrites = s.hwrites ∧ (s.dropReq id).hout = s.hout ∧
      (s.dropReq id).hdown = s.hdown ∧ (s.dropReq id).hfail = s.hfail ∧ (s.dropReq id).ptm = s.ptm ∧
      (s.dropReq id).dev = s.dev ∧ (s.dropReq id).msix = s.msix ∧ (s.dropReq id).spare = s.spare := by
  simp only [State.dropReq, and_self]

/-- `dropReq` leaves the engines of the dies. -/
@[simp] theorem State.dropReq_engines (s : State) (id : Nat) :
    (s.dropReq id).copies = s.copies ∧ (s.dropReq id).trees = s.trees ∧ (s.dropReq id).pool = s.pool ∧
      (s.dropReq id).cancels = s.cancels ∧ (s.dropReq id).autos = s.autos ∧ (s.dropReq id).gives = s.gives ∧
      (s.dropReq id).bounds = s.bounds ∧ (s.dropReq id).fabric = s.fabric ∧ (s.dropReq id).away = s.away ∧
      (s.dropReq id).nextId = s.nextId := by
  simp only [State.dropReq, and_self]

/-- `dropReq` leaves what the model keeps of a run. -/
@[simp] theorem State.dropReq_run (s : State) (id : Nat) :
    (s.dropReq id).who = s.who ∧ (s.dropReq id).stall = s.stall ∧ (s.dropReq id).free = s.free ∧
      (s.dropReq id).agenda = s.agenda ∧ (s.dropReq id).pace = s.pace ∧ (s.dropReq id).steps = s.steps := by
  simp only [State.dropReq, and_self]

/-- `post` leaves the parties and what they run. -/
@[simp] theorem State.post_parties (s : State) (r : Req) :
    (s.post r).dies = s.dies ∧ (s.post r).cores = s.cores ∧ (s.post r).wgs = s.wgs ∧
      (s.post r).warps = s.warps ∧ (s.post r).splits = s.splits ∧ (s.post r).launches = s.launches ∧
      (s.post r).queues = s.queues := by
  simp only [State.post, and_self]

/-- `post` leaves memory, its homes and its keys. -/
@[simp] theorem State.post_memory (s : State) (r : Req) :
    (s.post r).mem = s.mem ∧ (s.post r).leases = s.leases ∧ (s.post r).owners = s.owners ∧
      (s.post r).pgen = s.pgen ∧ (s.post r).tags = s.tags ∧ (s.post r).keys = s.keys ∧
      (s.post r).ecc = s.ecc := by
  simp only [State.post, and_self]

/-- `post` leaves the host side and the device as a whole. -/
@[simp] theorem State.post_host (s : State) (r : Req) :
    (s.post r).hlines = s.hlines ∧ (s.post r).hreqs = s.hreqs ∧ (s.post r).hheld = s.hheld ∧
      (s.post r).hbinv = s.hbinv ∧ (s.post r).hwrites = s.hwrites ∧ (s.post r).hout = s.hout ∧
      (s.post r).hdown = s.hdown ∧ (s.post r).hfail = s.hfail ∧ (s.post r).ptm = s.ptm ∧
      (s.post r).dev = s.dev ∧ (s.post r).msix = s.msix ∧ (s.post r).spare = s.spare := by
  simp only [State.post, and_self]

/-- `post` leaves the engines of the dies. -/
@[simp] theorem State.post_engines (s : State) (r : Req) :
    (s.post r).copies = s.copies ∧ (s.post r).trees = s.trees ∧ (s.post r).pool = s.pool ∧
      (s.post r).cancels = s.cancels ∧ (s.post r).autos = s.autos ∧ (s.post r).gives = s.gives ∧
      (s.post r).bounds = s.bounds ∧ (s.post r).fabric = s.fabric ∧ (s.post r).away = s.away ∧
      (s.post r).nextId = s.nextId := by
  simp only [State.post, and_self]

/-- `post` leaves what the model keeps of a run. -/
@[simp] theorem State.post_run (s : State) (r : Req) :
    (s.post r).who = s.who ∧ (s.post r).stall = s.stall ∧ (s.post r).free = s.free ∧
      (s.post r).agenda = s.agenda ∧ (s.post r).pace = s.pace ∧ (s.post r).steps = s.steps := by
  simp only [State.post, and_self]

@[simp] theorem State.dropReq_reqs (s : State) (id : Nat) : (s.dropReq id).reqs = s.reqs.filter (fun r => r.id != id) := rfl

@[simp] theorem State.post_reqs (s : State) (r : Req) : (s.post r).reqs = s.reqs ++ [r] := rfl

@[simp] theorem State.modDev_dev (s : State) (f : Dev → Dev) : (s.modDev f).dev = f s.dev := rfl

/-- An element of a list that has been changed at one place. -/
theorem getD_modify {α : Type} (l : List α) (i j : Nat) (f : α → α) (d : α) :
    (l.modify i f).getD j d = if i = j ∧ j < l.length then f (l.getD j d) else l.getD j d := by
  simp only [List.getD_eq_getElem?_getD, List.getElem?_modify]
  by_cases h : i = j
  · subst h
    by_cases k : i < l.length
    · simp [k]
    · simp [k]
  · simp [h]

theorem State.die_modDie (s : State) (d j : Nat) (f : Die → Die) :
    (s.modDie d f).die j = if d = j ∧ j < s.dies.length then f (s.die j) else s.die j := getD_modify _ _ _ _ _

/-- The die that `modDie` changes. -/
@[simp] theorem State.die_modDie_self (s : State) (d : Nat) (f : Die → Die) (h : d < s.dies.length) :
    (s.modDie d f).die d = f (s.die d) := by rw [State.die_modDie, if_pos ⟨rfl, h⟩]

/-- A die that it does not change. -/
theorem State.die_modDie_ne (s : State) (d j : Nat) (f : Die → Die) (h : d ≠ j) : (s.modDie d f).die j = s.die j := by
  rw [State.die_modDie, if_neg (fun k => h k.1)]

@[simp] theorem State.modDie_dies_length (s : State) (d : Nat) (f : Die → Die) : (s.modDie d f).dies.length = s.dies.length := by
  simp [State.modDie]

theorem State.core_modCore (s : State) (c j : Nat) (f : Core → Core) :
    (s.modCore c f).core j = if c = j ∧ j < s.cores.length then f (s.core j) else s.core j := getD_modify _ _ _ _ _

/-- The core that `modCore` changes. -/
@[simp] theorem State.core_modCore_self (s : State) (c : Nat) (f : Core → Core) (h : c < s.cores.length) :
    (s.modCore c f).core c = f (s.core c) := by rw [State.core_modCore, if_pos ⟨rfl, h⟩]

/-- A core that it does not change. -/
theorem State.core_modCore_ne (s : State) (c j : Nat) (f : Core → Core) (h : c ≠ j) : (s.modCore c f).core j = s.core j := by
  rw [State.core_modCore, if_neg (fun k => h k.1)]

@[simp] theorem State.modCore_cores_length (s : State) (c : Nat) (f : Core → Core) : (s.modCore c f).cores.length = s.cores.length := by
  simp [State.modCore]

theorem State.wg_modWg (s : State) (g j : Nat) (f : Wg → Wg) :
    (s.modWg g f).wg j = if g = j ∧ j < s.wgs.length then f (s.wg j) else s.wg j := getD_modify _ _ _ _ _

/-- The wg that `modWg` changes. -/
@[simp] theorem State.wg_modWg_self (s : State) (g : Nat) (f : Wg → Wg) (h : g < s.wgs.length) :
    (s.modWg g f).wg g = f (s.wg g) := by rw [State.wg_modWg, if_pos ⟨rfl, h⟩]

/-- A wg that it does not change. -/
theorem State.wg_modWg_ne (s : State) (g j : Nat) (f : Wg → Wg) (h : g ≠ j) : (s.modWg g f).wg j = s.wg j := by
  rw [State.wg_modWg, if_neg (fun k => h k.1)]

@[simp] theorem State.modWg_wgs_length (s : State) (g : Nat) (f : Wg → Wg) : (s.modWg g f).wgs.length = s.wgs.length := by
  simp [State.modWg]

theorem State.warp_modWarp (s : State) (w j : Nat) (f : Warp → Warp) :
    (s.modWarp w f).warp j = if w = j ∧ j < s.warps.length then f (s.warp j) else s.warp j := getD_modify _ _ _ _ _

/-- The warp that `modWarp` changes. -/
@[simp] theorem State.warp_modWarp_self (s : State) (w : Nat) (f : Warp → Warp) (h : w < s.warps.length) :
    (s.modWarp w f).warp w = f (s.warp w) := by rw [State.warp_modWarp, if_pos ⟨rfl, h⟩]

/-- A warp that it does not change. -/
theorem State.warp_modWarp_ne (s : State) (w j : Nat) (f : Warp → Warp) (h : w ≠ j) : (s.modWarp w f).warp j = s.warp j := by
  rw [State.warp_modWarp, if_neg (fun k => h k.1)]

@[simp] theorem State.modWarp_warps_length (s : State) (w : Nat) (f : Warp → Warp) : (s.modWarp w f).warps.length = s.warps.length := by
  simp [State.modWarp]

theorem State.split_modSplit (s : State) (i j : Nat) (f : Split → Split) :
    (s.modSplit i f).split j = if i = j ∧ j < s.splits.length then f (s.split j) else s.split j := getD_modify _ _ _ _ _

/-- The split that `modSplit` changes. -/
@[simp] theorem State.split_modSplit_self (s : State) (i : Nat) (f : Split → Split) (h : i < s.splits.length) :
    (s.modSplit i f).split i = f (s.split i) := by rw [State.split_modSplit, if_pos ⟨rfl, h⟩]

/-- A split that it does not change. -/
theorem State.split_modSplit_ne (s : State) (i j : Nat) (f : Split → Split) (h : i ≠ j) : (s.modSplit i f).split j = s.split j := by
  rw [State.split_modSplit, if_neg (fun k => h k.1)]

@[simp] theorem State.modSplit_splits_length (s : State) (i : Nat) (f : Split → Split) : (s.modSplit i f).splits.length = s.splits.length := by
  simp [State.modSplit]

theorem State.launch_modLaunch (s : State) (l j : Nat) (f : Launch → Launch) :
    (s.modLaunch l f).launch j = if l = j ∧ j < s.launches.length then f (s.launch j) else s.launch j := getD_modify _ _ _ _ _

/-- The launch that `modLaunch` changes. -/
@[simp] theorem State.launch_modLaunch_self (s : State) (l : Nat) (f : Launch → Launch) (h : l < s.launches.length) :
    (s.modLaunch l f).launch l = f (s.launch l) := by rw [State.launch_modLaunch, if_pos ⟨rfl, h⟩]

/-- A launch that it does not change. -/
theorem State.launch_modLaunch_ne (s : State) (l j : Nat) (f : Launch → Launch) (h : l ≠ j) : (s.modLaunch l f).launch j = s.launch j := by
  rw [State.launch_modLaunch, if_neg (fun k => h k.1)]

@[simp] theorem State.modLaunch_launches_length (s : State) (l : Nat) (f : Launch → Launch) : (s.modLaunch l f).launches.length = s.launches.length := by
  simp [State.modLaunch]

theorem State.queue_modQueue (s : State) (q j : Nat) (f : Queue → Queue) :
    (s.modQueue q f).queue j = if q = j ∧ j < s.queues.length then f (s.queue j) else s.queue j := getD_modify _ _ _ _ _

/-- The queue that `modQueue` changes. -/
@[simp] theorem State.queue_modQueue_self (s : State) (q : Nat) (f : Queue → Queue) (h : q < s.queues.length) :
    (s.modQueue q f).queue q = f (s.queue q) := by rw [State.queue_modQueue, if_pos ⟨rfl, h⟩]

/-- A queue that it does not change. -/
theorem State.queue_modQueue_ne (s : State) (q j : Nat) (f : Queue → Queue) (h : q ≠ j) : (s.modQueue q f).queue j = s.queue j := by
  rw [State.queue_modQueue, if_neg (fun k => h k.1)]

@[simp] theorem State.modQueue_queues_length (s : State) (q : Nat) (f : Queue → Queue) : (s.modQueue q f).queues.length = s.queues.length := by
  simp [State.modQueue]

/-- The entities that `modDie` does not touch. -/
@[simp] theorem State.modDie_entities (s : State) (d : Nat) (f : Die → Die) :
    (∀ j, (s.modDie d f).core j = s.core j) ∧
      (∀ j, (s.modDie d f).wg j = s.wg j) ∧
      (∀ j, (s.modDie d f).warp j = s.warp j) ∧
      (∀ j, (s.modDie d f).split j = s.split j) ∧
      (∀ j, (s.modDie d f).launch j = s.launch j) ∧
      (∀ j, (s.modDie d f).queue j = s.queue j) := by
  simp only [State.modDie, State.core, State.wg, State.warp, State.split, State.launch, State.queue, implies_true, and_self]

/-- The entities that `modCore` does not touch. -/
@[simp] theorem State.modCore_entities (s : State) (c : Nat) (f : Core → Core) :
    (∀ j, (s.modCore c f).die j = s.die j) ∧
      (∀ j, (s.modCore c f).wg j = s.wg j) ∧
      (∀ j, (s.modCore c f).warp j = s.warp j) ∧
      (∀ j, (s.modCore c f).split j = s.split j) ∧
      (∀ j, (s.modCore c f).launch j = s.launch j) ∧
      (∀ j, (s.modCore c f).queue j = s.queue j) := by
  simp only [State.modCore, State.die, State.wg, State.warp, State.split, State.launch, State.queue, implies_true, and_self]

/-- The entities that `modWg` does not touch. -/
@[simp] theorem State.modWg_entities (s : State) (g : Nat) (f : Wg → Wg) :
    (∀ j, (s.modWg g f).die j = s.die j) ∧
      (∀ j, (s.modWg g f).core j = s.core j) ∧
      (∀ j, (s.modWg g f).warp j = s.warp j) ∧
      (∀ j, (s.modWg g f).split j = s.split j) ∧
      (∀ j, (s.modWg g f).launch j = s.launch j) ∧
      (∀ j, (s.modWg g f).queue j = s.queue j) := by
  simp only [State.modWg, State.die, State.core, State.warp, State.split, State.launch, State.queue, implies_true, and_self]

/-- The entities that `modWarp` does not touch. -/
@[simp] theorem State.modWarp_entities (s : State) (w : Nat) (f : Warp → Warp) :
    (∀ j, (s.modWarp w f).die j = s.die j) ∧
      (∀ j, (s.modWarp w f).core j = s.core j) ∧
      (∀ j, (s.modWarp w f).wg j = s.wg j) ∧
      (∀ j, (s.modWarp w f).split j = s.split j) ∧
      (∀ j, (s.modWarp w f).launch j = s.launch j) ∧
      (∀ j, (s.modWarp w f).queue j = s.queue j) := by
  simp only [State.modWarp, State.die, State.core, State.wg, State.split, State.launch, State.queue, implies_true, and_self]

/-- The entities that `modSplit` does not touch. -/
@[simp] theorem State.modSplit_entities (s : State) (i : Nat) (f : Split → Split) :
    (∀ j, (s.modSplit i f).die j = s.die j) ∧
      (∀ j, (s.modSplit i f).core j = s.core j) ∧
      (∀ j, (s.modSplit i f).wg j = s.wg j) ∧
      (∀ j, (s.modSplit i f).warp j = s.warp j) ∧
      (∀ j, (s.modSplit i f).launch j = s.launch j) ∧
      (∀ j, (s.modSplit i f).queue j = s.queue j) := by
  simp only [State.modSplit, State.die, State.core, State.wg, State.warp, State.launch, State.queue, implies_true, and_self]

/-- The entities that `modLaunch` does not touch. -/
@[simp] theorem State.modLaunch_entities (s : State) (l : Nat) (f : Launch → Launch) :
    (∀ j, (s.modLaunch l f).die j = s.die j) ∧
      (∀ j, (s.modLaunch l f).core j = s.core j) ∧
      (∀ j, (s.modLaunch l f).wg j = s.wg j) ∧
      (∀ j, (s.modLaunch l f).warp j = s.warp j) ∧
      (∀ j, (s.modLaunch l f).split j = s.split j) ∧
      (∀ j, (s.modLaunch l f).queue j = s.queue j) := by
  simp only [State.modLaunch, State.die, State.core, State.wg, State.warp, State.split, State.queue, implies_true, and_self]

/-- The entities that `modQueue` does not touch. -/
@[simp] theorem State.modQueue_entities (s : State) (q : Nat) (f : Queue → Queue) :
    (∀ j, (s.modQueue q f).die j = s.die j) ∧
      (∀ j, (s.modQueue q f).core j = s.core j) ∧
      (∀ j, (s.modQueue q f).wg j = s.wg j) ∧
      (∀ j, (s.modQueue q f).warp j = s.warp j) ∧
      (∀ j, (s.modQueue q f).split j = s.split j) ∧
      (∀ j, (s.modQueue q f).launch j = s.launch j) := by
  simp only [State.modQueue, State.die, State.core, State.wg, State.warp, State.split, State.launch, implies_true, and_self]

/-- The entities that `modDev` does not touch. -/
@[simp] theorem State.modDev_entities (s : State) (f : Dev → Dev) :
    (∀ j, (s.modDev f).die j = s.die j) ∧
      (∀ j, (s.modDev f).core j = s.core j) ∧
      (∀ j, (s.modDev f).wg j = s.wg j) ∧
      (∀ j, (s.modDev f).warp j = s.warp j) ∧
      (∀ j, (s.modDev f).split j = s.split j) ∧
      (∀ j, (s.modDev f).launch j = s.launch j) ∧
      (∀ j, (s.modDev f).queue j = s.queue j) := by
  simp only [State.modDev, State.die, State.core, State.wg, State.warp, State.split, State.launch, State.queue, implies_true, and_self]

/-- The entities that `dropReq` does not touch. -/
@[simp] theorem State.dropReq_entities (s : State) (id : Nat) :
    (∀ j, (s.dropReq id).die j = s.die j) ∧
      (∀ j, (s.dropReq id).core j = s.core j) ∧
      (∀ j, (s.dropReq id).wg j = s.wg j) ∧
      (∀ j, (s.dropReq id).warp j = s.warp j) ∧
      (∀ j, (s.dropReq id).split j = s.split j) ∧
      (∀ j, (s.dropReq id).launch j = s.launch j) ∧
      (∀ j, (s.dropReq id).queue j = s.queue j) := by
  simp only [State.dropReq, State.die, State.core, State.wg, State.warp, State.split, State.launch, State.queue, implies_true, and_self]

/-- The entities that `post` does not touch. -/
@[simp] theorem State.post_entities (s : State) (r : Req) :
    (∀ j, (s.post r).die j = s.die j) ∧
      (∀ j, (s.post r).core j = s.core j) ∧
      (∀ j, (s.post r).wg j = s.wg j) ∧
      (∀ j, (s.post r).warp j = s.warp j) ∧
      (∀ j, (s.post r).split j = s.split j) ∧
      (∀ j, (s.post r).launch j = s.launch j) ∧
      (∀ j, (s.post r).queue j = s.queue j) := by
  simp only [State.post, State.die, State.core, State.wg, State.warp, State.split, State.launch, State.queue, implies_true, and_self]

/-- `setAct` of a split leaves everything but its scalars. -/
@[simp] theorem Split.setAct_keeps (x : Split) (n : Nat) (m : Mask) :
    (x.setAct n m).live = x.live ∧ (x.setAct n m).warp = x.warp ∧ (x.setAct n m).primary = x.primary ∧ (x.setAct n m).tix = x.tix ∧
      (x.setAct n m).quads = x.quads ∧ (x.setAct n m).pc = x.pc ∧ (x.setAct n m).mr = x.mr ∧ (x.setAct n m).ctl = x.ctl ∧
      (x.setAct n m).ctg = x.ctg ∧ (x.setAct n m).n = x.n ∧ (x.setAct n m).held = x.held ∧ (x.setAct n m).lit = x.lit ∧
      (x.setAct n m).cons = x.cons ∧ (x.setAct n m).phase = x.phase ∧ (x.setAct n m).woken = x.woken ∧ (x.setAct n m).gang = x.gang ∧
      (x.setAct n m).div = x.div ∧ (x.setAct n m).spill = x.spill ∧ (x.setAct n m).timedOut = x.timedOut ∧ (x.setAct n m).prv = x.prv ∧
      (x.setAct n m).inTrap = x.inTrap ∧ (x.setAct n m).pprv = x.pprv ∧ (x.setAct n m).tcause = x.tcause ∧ (x.setAct n m).tval = x.tval ∧
      (x.setAct n m).tpc = x.tpc ∧ (x.setAct n m).tmr = x.tmr ∧ (x.setAct n m).pend = x.pend ∧ (x.setAct n m).since = x.since ∧
      (x.setAct n m).boosted = x.boosted := by
  simp only [Split.setAct, and_self]

/-- `setS` of a split leaves everything but its scalars. -/
@[simp] theorem Split.setS_keeps (x : Split) (n k : Nat) (w : PWord) :
    (x.setS n k w).live = x.live ∧ (x.setS n k w).warp = x.warp ∧ (x.setS n k w).primary = x.primary ∧ (x.setS n k w).tix = x.tix ∧
      (x.setS n k w).quads = x.quads ∧ (x.setS n k w).pc = x.pc ∧ (x.setS n k w).mr = x.mr ∧ (x.setS n k w).ctl = x.ctl ∧
      (x.setS n k w).ctg = x.ctg ∧ (x.setS n k w).n = x.n ∧ (x.setS n k w).held = x.held ∧ (x.setS n k w).lit = x.lit ∧
      (x.setS n k w).cons = x.cons ∧ (x.setS n k w).phase = x.phase ∧ (x.setS n k w).woken = x.woken ∧ (x.setS n k w).gang = x.gang ∧
      (x.setS n k w).div = x.div ∧ (x.setS n k w).spill = x.spill ∧ (x.setS n k w).timedOut = x.timedOut ∧ (x.setS n k w).prv = x.prv ∧
      (x.setS n k w).inTrap = x.inTrap ∧ (x.setS n k w).pprv = x.pprv ∧ (x.setS n k w).tcause = x.tcause ∧ (x.setS n k w).tval = x.tval ∧
      (x.setS n k w).tpc = x.tpc ∧ (x.setS n k w).tmr = x.tmr ∧ (x.setS n k w).pend = x.pend ∧ (x.setS n k w).since = x.since ∧
      (x.setS n k w).boosted = x.boosted := by
  unfold Split.setS; split <;> (try split) <;> simp only [and_self]

/-- `linkTo` of a split leaves everything but its scalars. -/
@[simp] theorem Split.linkTo_keeps (x : Split) (n pc : Nat) :
    (x.linkTo n pc).live = x.live ∧ (x.linkTo n pc).warp = x.warp ∧ (x.linkTo n pc).primary = x.primary ∧ (x.linkTo n pc).tix = x.tix ∧
      (x.linkTo n pc).quads = x.quads ∧ (x.linkTo n pc).pc = x.pc ∧ (x.linkTo n pc).mr = x.mr ∧ (x.linkTo n pc).ctl = x.ctl ∧
      (x.linkTo n pc).ctg = x.ctg ∧ (x.linkTo n pc).n = x.n ∧ (x.linkTo n pc).held = x.held ∧ (x.linkTo n pc).lit = x.lit ∧
      (x.linkTo n pc).cons = x.cons ∧ (x.linkTo n pc).phase = x.phase ∧ (x.linkTo n pc).woken = x.woken ∧ (x.linkTo n pc).gang = x.gang ∧
      (x.linkTo n pc).div = x.div ∧ (x.linkTo n pc).spill = x.spill ∧ (x.linkTo n pc).timedOut = x.timedOut ∧ (x.linkTo n pc).prv = x.prv ∧
      (x.linkTo n pc).inTrap = x.inTrap ∧ (x.linkTo n pc).pprv = x.pprv ∧ (x.linkTo n pc).tcause = x.tcause ∧ (x.linkTo n pc).tval = x.tval ∧
      (x.linkTo n pc).tpc = x.tpc ∧ (x.linkTo n pc).tmr = x.tmr ∧ (x.linkTo n pc).pend = x.pend ∧ (x.linkTo n pc).since = x.since ∧
      (x.linkTo n pc).boosted = x.boosted := by
  simp only [Split.linkTo, Split.setS_keeps, and_self]

end Sys2Proof.Machine
end

