-- ==== Sys2Proof/Laws/Memory.lean ====
section
/-! SUPPORT. Memory cells: every write keeps the canonical form (R7), a read after a write gives what was written, and equal contents are equal
data. -/

namespace Sys2Proof.Machine

/-- A list that is canonical above a bound lists nothing up to it. -/
theorem cellGet_below {l : List Host.Cell} {p a : Nat} (h : cellsWfFrom (some p) l = true) (ha : a ≤ p) : cellGet l a = cellDefault := by
  cases l with
  | nil => rfl
  | cons c rest =>
    obtain ⟨k, b⟩ := c
    simp only [cellsWfFrom, Bool.and_eq_true, Nat.blt_eq] at h
    simp only [cellGet, beq_iff_eq, Nat.blt_eq]
    rw [if_neg (by omega), if_pos (by omega)]

theorem cellsWfFrom_weaken {l : List Host.Cell} {p q : Nat} (h : cellsWfFrom (some p) l = true) (hq : q ≤ p) : cellsWfFrom (some q) l = true := by
  cases l with
  | nil => rfl
  | cons c rest =>
    simp only [cellsWfFrom, Bool.and_eq_true, Nat.blt_eq] at h ⊢
    exact ⟨⟨by omega, h.1.2⟩, h.2⟩

theorem cellsWfFrom_none {l : List Host.Cell} {p : Nat} (h : cellsWfFrom (some p) l = true) : cellsWfFrom none l = true := by
  cases l with
  | nil => rfl
  | cons c rest =>
    simp only [cellsWfFrom, Bool.and_eq_true] at h ⊢
    exact ⟨⟨trivial, h.1.2⟩, h.2⟩

/-- A write above a bound keeps the canonical form above it. -/
theorem cellSet_wfFrom (b : Byte) (a : Nat) : ∀ (l : List Host.Cell) (p : Nat), cellsWfFrom (some p) l = true → p < a →
    cellsWfFrom (some p) (cellSet l a b) = true := by
  intro l
  induction l with
  | nil =>
    intro p _ ha
    by_cases hb : b = cellDefault <;> simp [cellSet, cellsWfFrom, hb, Nat.blt_eq, ha]
  | cons c rest ih =>
    intro p h ha
    obtain ⟨k, d⟩ := c
    have h' := h
    simp only [cellsWfFrom, Bool.and_eq_true, Nat.blt_eq, bne_iff_ne] at h
    obtain ⟨⟨h1, h2⟩, h3⟩ := h
    simp only [cellSet, beq_iff_eq, Nat.blt_eq]
    split
    · split
      · exact cellsWfFrom_weaken h3 (by omega)
      · simp_all [cellsWfFrom, Nat.blt_eq]
    · split
      · split
        · exact h'
        · simp_all [cellsWfFrom, Nat.blt_eq]
      · simp only [cellsWfFrom, Bool.and_eq_true, Nat.blt_eq, bne_iff_ne]
        exact ⟨⟨h1, h2⟩, ih k h3 (by omega)⟩

/-- A write keeps the canonical form. -/
theorem cellSet_wf {l : List Host.Cell} (h : Memory.wf l = true) (a : Nat) (b : Byte) : Memory.wf (cellSet l a b) = true := by
  cases l with
  | nil => by_cases hb : b = cellDefault <;> simp [cellSet, Memory.wf, cellsWfFrom, hb]
  | cons c rest =>
    obtain ⟨k, d⟩ := c
    have h' := h
    simp only [Memory.wf, cellsWfFrom, Bool.and_eq_true, bne_iff_ne] at h
    obtain ⟨⟨-, h2⟩, h3⟩ := h
    simp only [cellSet, beq_iff_eq, Nat.blt_eq]
    split
    · split
      · exact cellsWfFrom_none h3
      · simp_all [Memory.wf, cellsWfFrom]
    · split
      · split
        · exact h'
        · simp_all [Memory.wf, cellsWfFrom, Nat.blt_eq]
      · simp only [Memory.wf, cellsWfFrom, Bool.and_eq_true, bne_iff_ne]
        exact ⟨⟨trivial, h2⟩, cellSet_wfFrom b a rest k h3 (by omega)⟩

/-- A read after a write of one byte, in a list that is canonical above some bound. -/
theorem cellGet_cellSet_from (b : Byte) (a c : Nat) : ∀ (l : List Host.Cell) (lo : Option Nat), cellsWfFrom lo l = true →
    cellGet (cellSet l a b) c = if c = a then b else cellGet l c := by
  intro l
  induction l with
  | nil =>
    intro lo _
    by_cases hb : b = cellDefault
    · by_cases hc : c = a <;> simp [cellSet, cellGet, hb, hc]
    · simp only [cellSet, cellGet, hb, beq_iff_eq]
      by_cases hc : c = a
      · simp [hc, cellGet]
      · simp [hc, cellGet, Ne.symm hc]
  | cons x rest ih =>
    intro lo h
    obtain ⟨k, d⟩ := x
    simp only [cellsWfFrom, Bool.and_eq_true, bne_iff_ne] at h
    obtain ⟨-, h3⟩ := h
    simp only [cellSet, beq_iff_eq, Nat.blt_eq]
    by_cases e1 : k = a
    · subst e1
      by_cases hb : b = cellDefault
      · simp only [if_pos hb, if_true, cellGet, beq_iff_eq, Nat.blt_eq]
        by_cases hc : c = k
        · rw [if_pos hc, hb]; exact cellGet_below h3 (by omega)
        · rw [if_neg hc, if_neg (Ne.symm hc)]
          split
          · exact cellGet_below h3 (by omega)
          · rfl
      · simp only [if_neg hb, if_true, cellGet, beq_iff_eq, Nat.blt_eq]
        by_cases hc : c = k
        · simp [hc]
        · rw [if_neg (Ne.symm hc), if_neg hc, if_neg (Ne.symm hc)]
    · by_cases e2 : a < k
      · rw [if_neg e1, if_pos e2]
        by_cases hb : b = cellDefault
        · rw [if_pos hb]
          by_cases hc : c = a
          · rw [if_pos hc]; subst hc; simp [cellGet, hb, Nat.blt_eq, e1, e2]
          · rw [if_neg hc]
        · rw [if_neg hb]
          by_cases hc : c = a
          · simp [hc, cellGet]
          · rw [if_neg hc]
            simp only [cellGet, beq_iff_eq, Nat.blt_eq]
            rw [if_neg (Ne.symm hc)]
            by_cases hlt : c < a
            · rw [if_pos hlt, if_neg (by omega), if_pos (by omega)]
            · rw [if_neg hlt]
      · rw [if_neg e1, if_neg e2]
        simp only [cellGet, beq_iff_eq, Nat.blt_eq]
        by_cases hk : k = c
        · rw [if_pos hk, if_neg (by omega), if_pos hk]
        · rw [if_neg hk]
          by_cases hlt : c < k
          · rw [if_pos hlt, if_neg (by omega), if_neg hk, if_pos hlt]
          · rw [if_neg hlt, ih _ h3, if_neg hk, if_neg hlt]

/-- A read after a write of one byte. -/
theorem cellGet_cellSet {l : List Host.Cell} (h : Memory.wf l = true) (a c : Nat) (b : Byte) :
    cellGet (cellSet l a b) c = if c = a then b else cellGet l c := cellGet_cellSet_from b a c l none h

/-- A write of bytes keeps the canonical form. -/
theorem cellsWrite_wf {l : List Host.Cell} (h : Memory.wf l = true) (a : Nat) (bs : List Byte) : Memory.wf (cellsWrite l a bs) = true := by
  induction bs generalizing l a with
  | nil => exact h
  | cons b bs ih => exact ih (cellSet_wf h a b) (a + 1)

/-- A read after a write of bytes: the bytes written where they were written, and what was there elsewhere. -/
theorem cellGet_cellsWrite {l : List Host.Cell} (h : Memory.wf l = true) (a : Nat) (bs : List Byte) (c : Nat) :
    cellGet (cellsWrite l a bs) c = if a ≤ c ∧ c < a + bs.length then bs.getD (c - a) 0 else cellGet l c := by
  induction bs generalizing l a with
  | nil => rw [cellsWrite, if_neg (by simp only [List.length_nil]; omega)]
  | cons b bs ih =>
    rw [cellsWrite, ih (cellSet_wf h a b) (a + 1), cellGet_cellSet h]
    simp only [List.length_cons]
    by_cases h1 : c = a
    · subst h1
      rw [if_neg (by omega), if_pos rfl, if_pos (by omega)]
      simp
    · by_cases h2 : a + 1 ≤ c ∧ c < a + 1 + bs.length
      · rw [if_pos h2, if_pos (by omega)]
        obtain ⟨j, hj⟩ : ∃ j, c - a = j + 1 := ⟨c - a - 1, by omega⟩
        have : c - (a + 1) = j := by omega
        simp [hj, this]
      · rw [if_neg h2, if_neg h1, if_neg (by omega)]

@[simp] theorem cellsRead_length (l : List Host.Cell) (a n : Nat) : (cellsRead l a n).length = n := by
  induction n generalizing a with
  | zero => rfl
  | succ n ih => simp [cellsRead, ih]

theorem cellsRead_getD (l : List Host.Cell) (a n i : Nat) (d : Byte) (h : i < n) : (cellsRead l a n).getD i d = cellGet l (a + i) := by
  induction n generalizing a i with
  | zero => omega
  | succ n ih =>
    cases i with
    | zero => simp [cellsRead]
    | succ i => simp only [cellsRead, List.getD_cons_succ]; rw [ih (a + 1) i (by omega)]; congr 1; omega

/-- Bytes that have been written read back. -/
theorem cellsRead_cellsWrite {l : List Host.Cell} (h : Memory.wf l = true) (a : Nat) (bs : List Byte) :
    cellsRead (cellsWrite l a bs) a bs.length = bs := by
  apply List.ext_getElem (by simp)
  intro i h1 h2
  have e := cellsRead_getD (cellsWrite l a bs) a bs.length i 0 h2
  rw [cellGet_cellsWrite h, if_pos ⟨by omega, by omega⟩] at e
  simp only [Nat.add_sub_cancel_left] at e
  simpa [List.getD_eq_getElem?_getD, h2, List.getElem?_eq_getElem h1] using e

/-- Some of the entries of a canonical list are a canonical list. -/
theorem filter_wf (p : Host.Cell → Bool) {l : List Host.Cell} (h : Memory.wf l = true) : Memory.wf (l.filter p) = true := by
  have key : ∀ (l : List Host.Cell) (lo : Option Nat), cellsWfFrom lo l = true → cellsWfFrom lo (l.filter p) = true := by
    intro l
    induction l with
    | nil => intro lo _; rfl
    | cons c rest ih =>
      intro lo h
      obtain ⟨k, d⟩ := c
      have h' := h
      simp only [cellsWfFrom, Bool.and_eq_true] at h
      rw [List.filter_cons]
      split
      · simp only [cellsWfFrom, Bool.and_eq_true]
        exact ⟨h.1, ih _ h.2⟩
      · refine ih lo ?_
        cases lo with
        | none => exact cellsWfFrom_none h.2
        | some q =>
          have : q < k := by simpa [Nat.blt_eq] using h.1.1
          exact cellsWfFrom_weaken h.2 (by omega)
  exact key l none h

/-! ## Device memory -/

@[simp] theorem bytes32_length (bs : List Byte) : (bytes32 bs).length = 32 := by simp [bytes32]

@[simp] theorem State.granule_length (s : State) (key g : Nat) : (s.granule key g).length = 32 := by
  simp only [State.granule]
  split
  · simp
  · split
    · split <;> simp
    · simp

/-- Refilling a granule keeps the canonical form. -/
theorem State.rekey_wf {s : State} (h : Memory.wf s.mem = true) (key g : Nat) : Memory.wf (s.rekey key g).mem = true := by
  simp only [State.rekey]
  split
  · exact h
  · exact cellsWrite_wf h _ _

/-- A fold of steps that each keep a property keeps it. -/
theorem foldState_keeps {α : Type} (P : State → Prop) (f : α → State → State) (hf : ∀ a s, P s → P (f a s)) (l : List α) (s : State) (h : P s) :
    P (foldState l f s) := by
  induction l generalizing s with
  | nil => exact h
  | cons a l ih => exact ih (f a s) (hf a s h)

@[simp] theorem State.breakResv_mem (s : State) (x : Option Nat) (a n : Nat) : (s.breakResv x a n).mem = s.mem := by
  simp only [State.breakResv]
  split <;> rfl

/-- A write of device memory keeps the canonical form. -/
theorem State.writeMem_wf {s : State} (h : Memory.wf s.mem = true) (key pa : Nat) (bs : List Byte) : Memory.wf (s.writeMem key pa bs).mem = true := by
  simp only [State.writeMem]
  apply cellsWrite_wf
  rw [State.breakResv_mem]
  exact foldState_keeps (fun t => Memory.wf t.mem = true) _ (fun g t ht => State.rekey_wf ht key g) _ _ h

/-- A home's write keeps the canonical form. -/
theorem State.homeStore_wf {s : State} (h : Memory.wf s.mem = true) (key pa : Nat) (bs : List Byte) :
    Memory.wf (s.homeStore key pa bs).1.mem = true := by
  have : (s.homeStore key pa bs).1.mem = (s.writeMem key pa bs).mem := by
    simp only [State.homeStore]
    split <;> rfl
  rw [this]
  exact State.writeMem_wf h key pa bs

/-- A reservation that ends changes no scratchpad. -/
theorem State.breakResv_scratch (s : State) (x : Option Nat) (a n g : Nat) : ((s.breakResv x a n).wg g).scratch = (s.wg g).scratch := by
  simp only [State.breakResv]
  split
  · simp only [State.wg, List.getD_eq_getElem?_getD, List.getElem?_mapIdx]
    cases s.wgs[g]? <;> rfl
  · rfl

/-- A scratchpad write gives what was written, leaves every other byte and every other workgroup's, and keeps the canonical form. -/
theorem State.scratchWrite_scratch (s : State) (g off : Nat) (bs : List Byte) (h : Nat) :
    ((s.scratchWrite g off bs).wg h).scratch = if g = h ∧ h < s.wgs.length then cellsWrite (s.wg h).scratch off bs else (s.wg h).scratch := by
  rw [State.scratchWrite, State.breakResv_scratch, State.wg_modWg]
  split <;> rfl

@[simp] theorem State.scratchWrite_mem (s : State) (g off : Nat) (bs : List Byte) : (s.scratchWrite g off bs).mem = s.mem := by
  simp [State.scratchWrite]

end Sys2Proof.Machine
end

