-- ==== Sys2Proof/Laws/Words.lean ====
section
/-! SUPPORT. What the frames of the words come to: one lemma for each way that a body ends, so that no proof unfolds a frame (R28, R40, R27, R29). -/

namespace Sys2Proof.Machine

theorem issueWord_done {closes : Bool} {body : Nat → State → State × Out} {s t : State} {held : List Held}
    (h : body s.who.split s = (t, .done held)) :
    issueWord closes body s = .next (stopSweep (s.wgIdxOf s.who.split) (finishWord s.who.split closes held t)) := by
  simp [issueWord, h]

theorem issueWord_trap {closes : Bool} {body : Nat → State → State × Out} {s t : State} {c v : Nat}
    (h : body s.who.split s = (t, .trap c v)) : issueWord closes body s = .next (raiseHere s.who.split c v t) := by
  simp [issueWord, h]

theorem issueWord_wait {closes : Bool} {body : Nat → State → State × Out} {s t : State} {c : Cond}
    (h : body s.who.split s = (t, .wait c)) :
    issueWord closes body s = .next (stopSweep (s.wgIdxOf s.who.split) (parkRetest s.who.split c t)) := by
  simp [issueWord, h]

/-- A word always goes on. -/
theorem issueWord_proceeds (closes : Bool) (body : Nat → State → State × Out) (s : State) : Proceeds (issueWord closes body s) := by
  unfold issueWord
  dsimp only
  split <;> exact ⟨_, rfl⟩

theorem privileged_yes {body : Nat → State → State × Out} {i : Nat} {s : State} (h : (s.split i).prv = true) :
    privileged body i s = body i s := by
  simp [privileged, h]

theorem privileged_no {body : Nat → State → State × Out} {i : Nat} {s : State} (h : (s.split i).prv = false) :
    privileged body i s = (s, .trap 0x003 0) := by
  simp [privileged, h]

theorem withRegs_ready {rs : List Nat} {body : Nat → State → State × Out} {i : Nat} {s : State}
    (h : ∀ r ∈ rs, r < (s.wgOf i).alloc ∧ (s.warpOf i).absent.getLsbD (r / 8) = false) : withRegs rs body i s = body i s := by
  unfold withRegs
  have h1 : rs.any (fun r => Nat.ble (s.wgOf i).alloc r) = false := by
    rw [List.any_eq_false]
    intro r hr
    have := (h r hr).1
    simp only [Nat.ble_eq]
    simpa using this
  have h2 : rs.find? (fun r => (s.warpOf i).absent.getLsbD (r / 8)) = none := by
    rw [List.find?_eq_none]
    intro r hr
    simp [(h r hr).2]
  simp [h1, h2]

theorem regsReady {s : State} {rs : List Nat} (h : RegsReady s rs) {body : Nat → State → State × Out} :
    withRegs rs body s.who.split s = body s.who.split s := withRegs_ready h

/-- A group that awaits nothing can bring no cause any more. -/
theorem unsettled_of_awaiting {i : Nat} {s : State} (h : (s.split i).awaiting = false) : s.unsettled i = false := by
  rw [State.unsettled, List.any_eq_false]
  rw [Split.awaiting, List.any_eq_false] at h
  intro x hx
  have := h x hx
  cases x <;> simp_all [Held.isAwait]

theorem afterLoads_done {body : Nat → State → State × Out} {i : Nat} {s : State} (h : (s.split i).awaiting = false) :
    afterLoads body i s = body i s := by
  simp [afterLoads, unsettled_of_awaiting h]

theorem closingWord_done {check : Nat → State → State × Out} {act : Nat → State → State → Ctl} {s t u : State} {held : List Held}
    (ha : (s.split s.who.split).awaiting = false) (h : check s.who.split s = (t, .done held))
    (hu : act s.who.split t (finishWord s.who.split true held t) = .ok u) :
    closingWord check act s = .next (stopSweep (s.wgIdxOf s.who.split) u) := by
  simp [closingWord, ha, h, hu]

theorem closingWord_trap {check : Nat → State → State × Out} {act : Nat → State → State → Ctl} {s t : State} {c v : Nat}
    (ha : (s.split s.who.split).awaiting = false) (h : check s.who.split s = (t, .trap c v)) :
    closingWord check act s = .next (raiseHere s.who.split c v t) := by
  simp [closingWord, ha, h]

theorem closingWord_wait {check : Nat → State → State × Out} {act : Nat → State → State → Ctl} {s t : State} {c : Cond}
    (ha : (s.split s.who.split).awaiting = false) (h : check s.who.split s = (t, .wait c)) :
    closingWord check act s = .next (stopSweep (s.wgIdxOf s.who.split) (parkRetest s.who.split c t)) := by
  simp [closingWord, ha, h]

/-- Nothing stops in a workgroup that no request has reached. -/
theorem stopSweep_quiet {g : Nat} {s : State} (hp : (s.wg g).preq = none) (hc : (s.wg g).creq = none) : stopSweep g s = s := by
  simp [stopSweep, hp, hc]

end Sys2Proof.Machine
end

