-- ==== Sys2Proof/Laws/Frames.lean ====
section
/-! SUPPORT. What the frames of the matrix stream, the spokes, the engines and the command core come to, one lemma for each way they end; and what the
end of a word leaves of memory (R28, R249, R301, R329, R386). -/

namespace Sys2Proof.Machine

/-! ## The matrix stream (R249, R251) -/

/-- Nothing asks the workgroup of the context to stop: `stop` of a frame does nothing. -/
theorem seqWord_done {closes : Bool} {body : Nat → State → State × SOut} {act : Nat → State → State} {s t : State} {ws : List (Nat × DWord)}
    (h : body s.who.wg s = (t, .done ws))
    (hp : ((act s.who.wg (t.modSeq s.who.wg (fun q => q.finish closes ws))).wg s.who.wg).preq = none) :
    seqWord closes body act s = .next (act s.who.wg (t.modSeq s.who.wg (fun q => q.finish closes ws))) := by
  simp [seqWord, h, hp]

theorem seqWord_trap {closes : Bool} {body : Nat → State → State × SOut} {act : Nat → State → State} {s t : State} {c v : Nat}
    (h : body s.who.wg s = (t, .trap c v)) : seqWord closes body act s = .next (seqTrap s.who.wg c v t) := by
  simp [seqWord, h]

theorem seqWord_wait {closes : Bool} {body : Nat → State → State × SOut} {act : Nat → State → State} {s t : State} {c : Cond}
    (h : body s.who.wg s = (t, .wait c)) (hp : ((t.modSeq s.who.wg (fun q => { q with phase := .retest c })).wg s.who.wg).preq = none) :
    seqWord closes body act s = .next (t.modSeq s.who.wg (fun q => { q with phase := .retest c })) := by
  simp [seqWord, h, hp]

/-- A change of a sequencer context leaves what asks its workgroup to stop. -/
@[simp] theorem State.modSeq_preq (s : State) (g h : Nat) (f : Seq → Seq) : ((s.modSeq g f).wg h).preq = (s.wg h).preq := by
  rw [State.modSeq, State.wg_modWg]
  split <;> rfl

@[simp] theorem State.modSeq_mem (s : State) (g : Nat) (f : Seq → Seq) : (s.modSeq g f).mem = s.mem := rfl

/-- The context that `modSeq` changes. -/
theorem State.seq_modSeq_self (s : State) (g : Nat) (f : Seq → Seq) (h : g < s.wgs.length) : (s.modSeq g f).seq g = f (s.seq g) := by
  rw [State.seq, State.modSeq, State.wg_modWg_self _ _ _ h]
  rfl

/-! ## The spokes (R301) -/

theorem spokeWord_trap {n : Nat} {body : Nat → Bool → State → XRes} {act : Nat → Bool → State → State} {s t : State} {c v : Nat}
    (h : body s.who.wg s.who.store s.begun = .trap c v t) :
    spokeWord n body act s = .next (haltCtx (.spoke s.who.wg s.who.store) c s.ctx.pc v t) := by
  simp only [State.begun] at h
  simp only [spokeWord, h, State.ctx]

theorem spokeWord_sent {n : Nat} {body : Nat → Bool → State → XRes} {act : Nat → Bool → State → State} {s t : State} {id : Nat}
    (h : body s.who.wg s.who.store s.begun = .sent t id) :
    spokeWord n body act s = .next (t.modSpoke s.who.wg s.who.store (fun c =>
      { c with pc := (s.ctx.pc + n) % 2 ^ 64, phase := .retest (.answered id) })) := by
  simp only [State.begun] at h
  simp only [spokeWord, h, State.ctx]

@[simp] theorem State.modSpoke_preq (s : State) (g h : Nat) (st : Bool) (f : Spoke → Spoke) : ((s.modSpoke g st f).wg h).preq = (s.wg h).preq := by
  rw [State.modSpoke, State.wg_modWg]
  split
  · cases st <;> rfl
  · rfl

@[simp] theorem State.modSpoke_mem (s : State) (g : Nat) (st : Bool) (f : Spoke → Spoke) : (s.modSpoke g st f).mem = s.mem := rfl

/-! ## Engines (R329, R366) -/

theorem State.serves_eq {s : State} {d : Nat} (h : s.serves d) : ((s.die d).quiesced && (s.die d).lost.isNone) = false := by
  rcases h with h | h
  · simp [h]
  · cases e : (s.die d).lost with
    | none => exact absurd e h
    | some _ => simp

/-- An engine answers a request once its home's time allows it. -/
theorem serveEng_answer {id : Nat} {mine : EngOp → Bool} {perform : EngReq → State → State × Option EngReply} {s t : State} {r : EngReq}
    {p : EngReply} (hr : s.engReq id = some r) (hn : r.reply = none) (hm : mine r.op = true) (hp : perform r s = (t, some p))
    (hd : p.ready ≤ t.nowDie r.die) (hq : s.serves r.die) : serveEng id mine perform s = .next (answerEng r p t) := by
  have h : Nat.ble p.ready (t.nowDie r.die) = true := Nat.ble_eq ▸ hd
  simp [serveEng, hr, hn, hm, hp, h, State.serves_eq hq]

/-- A request that cannot be performed yet stays. -/
theorem serveEng_later {id : Nat} {mine : EngOp → Bool} {perform : EngReq → State → State × Option EngReply} {s t : State} {r : EngReq}
    (hr : s.engReq id = some r) (hn : r.reply = none) (hm : mine r.op = true) (hp : perform r s = (t, none)) (hq : s.serves r.die) :
    serveEng id mine perform s = .next t := by
  simp [serveEng, hr, hn, hm, hp, State.serves_eq hq]

/-- A request that no party holds changes nothing. -/
theorem serveEng_none {id : Nat} {mine : EngOp → Bool} {perform : EngReq → State → State × Option EngReply} {s : State}
    (hr : s.engReq id = none) : serveEng id mine perform s = .next s := by
  simp [serveEng, hr]

@[simp] theorem State.sendEng_mem (s : State) (r : EngReq) : (s.sendEng r).1.mem = s.mem := rfl

@[simp] theorem State.sendEng_reqs (s : State) (r : EngReq) : (s.sendEng r).1.reqs = s.reqs ++ [.eng { r with id := s.nextId }] := rfl

@[simp] theorem State.sendEng_id (s : State) (r : EngReq) : (s.sendEng r).2 = s.nextId := rfl

/-! ## The command core (R386) -/

/-- A lane takes its head packet. -/
theorem takePacket_act {q : Nat} {want : Nat → Bool} {act : List Byte → State → State} {s t : State} {p : List Byte}
    (ho : s.laneOpen q = true) (hp : s.headPacket q = (t, .ok p)) (hw : want (fieldOf p 0 1) = true) (hb : t.barred q p = false)
    (hl : t.laneBehind q (packetRank (fieldOf p 0 1)) = false) :
    takePacket q want act s = .next (endTurn q t (act p t)) := by
  simp [takePacket, ho, hp, hw, hb, hl]

/-- A lane that is not open takes nothing. -/
theorem takePacket_closed {q : Nat} {want : Nat → Bool} {act : List Byte → State → State} {s : State} (ho : s.laneOpen q = false) :
    takePacket q want act s = .next s := by
  simp [takePacket, ho]

/-! ## What the end of a word leaves (R28) -/

@[simp] theorem writeRoot_mem (g n : Nat) (v : Word) (s : State) : (writeRoot g n v s).mem = s.mem := rfl

@[simp] theorem applyHeld_mem (i : Nat) (h : Held) (s : State) : (applyHeld i h s).mem = s.mem := by cases h <;> rfl

@[simp] theorem applyHeld_reqs (i : Nat) (h : Held) (s : State) : (applyHeld i h s).reqs = s.reqs := by cases h <;> rfl

@[simp] theorem applyHeld_dies (i : Nat) (h : Held) (s : State) : (applyHeld i h s).dies = s.dies := by cases h <;> rfl

/-- The end of a group leaves memory, the requests in flight and the dies. -/
theorem commitGroup_keeps (i : Nat) (s : State) :
    (commitGroup i s).mem = s.mem ∧ (commitGroup i s).reqs = s.reqs ∧ (commitGroup i s).dies = s.dies := by
  have h : ∀ (l : List Held) (t : State), (foldState l (fun h u => applyHeld i h u) t).mem = t.mem ∧
      (foldState l (fun h u => applyHeld i h u) t).reqs = t.reqs ∧ (foldState l (fun h u => applyHeld i h u) t).dies = t.dies := by
    intro l t
    exact foldState_keeps (fun u => u.mem = t.mem ∧ u.reqs = t.reqs ∧ u.dies = t.dies) _
      (fun a u hu => by simpa using hu) l t ⟨rfl, rfl, rfl⟩
  simpa [commitGroup] using h (writeOrder (s.split i).held) s

@[simp] theorem commitGroup_mem (i : Nat) (s : State) : (commitGroup i s).mem = s.mem := (commitGroup_keeps i s).1

@[simp] theorem commitGroup_reqs (i : Nat) (s : State) : (commitGroup i s).reqs = s.reqs := (commitGroup_keeps i s).2.1

@[simp] theorem closeGroup_mem (i : Nat) (s : State) : (closeGroup i s).mem = s.mem := by
  simp only [closeGroup]
  split <;> simp

/-- A word that has executed leaves memory. -/
@[simp] theorem finishWord_mem (i : Nat) (closes : Bool) (held : List Held) (s : State) : (finishWord i closes held s).mem = s.mem := by
  simp only [finishWord]
  split <;> simp

@[simp] theorem parkRetest_mem (i : Nat) (c : Cond) (s : State) : (parkRetest i c s).mem = s.mem := rfl

@[simp] theorem State.joinG_mem (s : State) (p : Party) (t : Nat) : (s.joinG p t).mem = s.mem := by
  cases p with
  | spoke g st => cases st <;> rfl
  | _ => rfl

@[simp] theorem State.joinL_mem (s : State) (p : Party) (t : Nat) : (s.joinL p t).mem = s.mem := by
  cases p with
  | spoke g st => cases st <;> rfl
  | _ => rfl

@[simp] theorem dropOwners_mem (p : Owner → Bool) (s : State) : (dropOwners p s).mem = s.mem :=
  foldState_keeps (fun u => u.mem = s.mem) _ (fun o u hu => by simpa [State.stampWL] using hu) _ _ rfl

@[simp] theorem freeWg_mem (g : Nat) (s : State) : (freeWg g s).mem = s.mem := by simp only [freeWg, dropOwners_mem]

@[simp] theorem discardWg_mem (g : Nat) (s : State) : (discardWg g s).mem = s.mem := by simp [discardWg]

@[simp] theorem discardSplit_mem (i : Nat) (s : State) : (discardSplit i s).mem = s.mem := by
  simp only [discardSplit]
  split <;> simp

/-- The end of a launch leaves memory. -/
@[simp] theorem endLaunch_mem (l cause : Nat) (s : State) : (endLaunch l cause s).mem = s.mem := by
  simp only [endLaunch]
  split
  · rfl
  · simp

/-- Taking a cause leaves memory. -/
@[simp] theorem enterTrap_mem (i : Nat) (t : Trap) (s : State) : (enterTrap i t s).mem = s.mem := by
  simp only [enterTrap, escalate]
  split <;> simp

@[simp] theorem raiseHere_mem (i cause val : Nat) (s : State) : (raiseHere i cause val s).mem = s.mem := by
  simp only [raiseHere, raiseAt]
  split <;> simp

/-- A split that stops leaves memory. -/
@[simp] theorem stopParked_mem (i : Nat) (s : State) : (stopParked i s).mem = s.mem := by
  have hw : ∀ r live, (stopAtWord i r live s).mem = s.mem := by
    intro r live
    simp only [stopAtWord]
    split <;> simp
  simp only [stopParked]
  split
  · split <;> simp
  · split
    iterate 2 · split <;> simp
    · rfl
    · split <;> simp [hw]
    all_goals rfl

/-- What may stop of a workgroup stops, and memory stays. -/
@[simp] theorem stopSweep_mem (g : Nat) (s : State) : (stopSweep g s).mem = s.mem := by
  simp only [stopSweep]
  split
  · have h : (foldState (s.wgSplits g) stopParked s).mem = s.mem :=
      foldState_keeps (fun u => u.mem = s.mem) stopParked (fun i u hu => by simpa using hu) _ _ rfl
    simp only [finishCancelled]
    split <;> simp [h]
  · rfl

/-- A word of the warp stream changes memory only where its body does. -/
theorem issueWord_mem {closes : Bool} {body : Nat → State → State × Out} {s t : State} (h : issueWord closes body s = .next t) :
    t.mem = (body s.who.split s).1.mem := by
  unfold issueWord at h
  dsimp only at h
  split at h <;> rename_i e <;> cases h <;> simp [e]

/-! ## Bound registers (R378) -/

/-- Sending a new value of a bound register writes the register. -/
@[simp] theorem sendBound_bounds (c k v : Nat) (s : State) : (sendBound c k v s).bounds = s.bounds.modify c (fun l => l.set k v) := rfl

/-- It changes no core's copy. -/
@[simp] theorem sendBound_bnd (c k v : Nat) (s : State) (j : Nat) : ((sendBound c k v s).core j).bnd = (s.core j).bnd := by
  have h (t : State) (m : Nat) (w : BndSent) : ((t.modCore m (fun x => { x with bndWay := x.bndWay ++ [w] })).core j).bnd = (t.core j).bnd := by
    rw [State.core_modCore]; split <;> rfl
  simp [sendBound, eachCore, foldState, List.range, List.range.loop, h]; rfl

/-- What a core's copy holds once the oldest value on its way has arrived. -/
theorem copyBound_core {core k : Nat} {w : BndSent} {s : State} (hr : s.reqs = []) (h : (s.core core).bndWay.find? (fun x => x.k == k) = some w) :
    (copyBound core k s).core core = { s.core core with bnd := (s.core core).bnd.set k w.val, bndWay := (s.core core).bndWay.erase w } := by
  have hc : core < s.cores.length := by
    refine Nat.lt_of_not_le fun hn => ?_
    simp [State.core, List.getD_eq_getElem?_getD, List.getElem?_eq_none hn] at h
  simp [copyBound, h, hr, foldState, hc]

end Sys2Proof.Machine
end

