-- ==== Sys2Proof/Laws/Lanes.lean ====
section
/-! SUPPORT. What the shared operations on lanes come to: masks, the rows of a per-lane word, their traps and the register they make
(R33, R38, R142, R143, R145). -/

namespace Sys2Proof.Machine

/-! ## Masks and lists of lanes -/

theorem onesMask_lane (n l : Nat) : (onesMask n).getLsbD l = (decide (l < n) && decide (l < 128)) := by
  unfold onesMask
  rw [BitVec.getLsbD_ofNat, Nat.testBit_two_pow_sub_one, Bool.and_comm]

theorem fullMask_lane {n l : Nat} {m : Mask} (h : fullMask n m = true) (hl : l < n) (h128 : l < 128) : m.getLsbD l = true := by
  have h' : m &&& onesMask n = onesMask n := by simpa [fullMask] using h
  have := congrArg (fun x => x.getLsbD l) h'
  simpa [BitVec.getLsbD_and, onesMask_lane, hl, h128] using this

theorem mem_lanesIn {n l : Nat} {m : Mask} : l ∈ lanesIn n m ↔ l < n ∧ m.getLsbD l = true := by
  simp [lanesIn, List.mem_filter, List.mem_range]

/-- The lanes that execute are lanes of the warp (R38). -/
theorem execMask_lt {s : State} {i l : Nat} (h : (s.execMask i).getLsbD l = true) : l < s.widthOf i ∧ l < 128 := by
  simp only [State.execMask, State.actMask, Split.act, BitVec.getLsbD_and, Bool.and_eq_true, onesMask_lane, decide_eq_true_eq] at h
  exact h.1.2

theorem pairwise_lanesIn (n : Nat) (m : Mask) : (lanesIn n m).Pairwise (· < ·) :=
  (List.pairwise_lt_range).filter _

/-! ## A list of lanes from rows -/

/-- The lanes that `spread` gives: the row of a lane where there is one. -/
theorem spread_lane (f : Nat → PWord × Flags) : ∀ (n b : Nat) (ls : List Nat), ls.Pairwise (· < ·) → (∀ l ∈ ls, b ≤ l ∧ l < b + n) →
    ∀ k, k < n → (spread n b (ls.map (fun l => (l, f l)))).getD k .poison = if b + k ∈ ls then (f (b + k)).1 else .poison
  | 0, _, _, _, _, k, hk => absurd hk (Nat.not_lt_zero k)
  | n + 1, b, [], _, _, k, hk => by
    cases k with
    | zero => simp [spread]
    | succ k =>
      have := spread_lane f n (b + 1) [] List.Pairwise.nil (by simp) k (by omega)
      simpa [spread] using this
  | n + 1, b, l :: ls, hp, hb, k, hk => by
    have hl := hb l (by simp)
    have htail : ∀ x ∈ ls, l < x ∧ x < b + (n + 1) := fun x hx => ⟨(List.pairwise_cons.1 hp).1 x hx, (hb x (by simp [hx])).2⟩
    by_cases hbl : l = b
    · subst hbl
      cases k with
      | zero => simp [spread]
      | succ k =>
        have := spread_lane f n (l + 1) ls (List.pairwise_cons.1 hp).2 (fun x hx => by have := htail x hx; omega) k (by omega)
        have e : l + 1 + k = l + (k + 1) := by omega
        rw [e] at this
        simp only [List.getD_eq_getElem?_getD] at this
        simp [spread, this]
    · have hne : (l == b) = false := by simpa using hbl
      cases k with
      | zero =>
        have h1 : b ∉ l :: ls := by
          intro h
          rcases List.mem_cons.1 h with h | h
          · exact hbl h.symm
          · have := htail b h; omega
        simp [spread, hne, h1]
      | succ k =>
        have := spread_lane f n (b + 1) (l :: ls) hp
          (fun x hx => by
            rcases List.mem_cons.1 hx with h | h
            · omega
            · have := htail x h; omega) k (by omega)
        have e : b + 1 + k = b + (k + 1) := by omega
        rw [e] at this
        simpa [spread, hne] using this

/-! ## Rows -/

theorem laneRow_lane (ops : List VReg) (f : List Word → Word × Flags) (l : Nat) :
    laneRow ops f l = (l, (laneRow ops f l).2) := by
  unfold laneRow; dsimp only; split <;> rfl

/-- What a row gives its lane. -/
theorem laneRow_value (ops : List VReg) (f : List Word → Word × Flags) (l : Nat) :
    (laneRow ops f l).2.1 =
      if ops.any (fun r => (r.lane l).isPoison) then .poison else .val (f (ops.map (fun r => (r.lane l).bits))).1 := by
  unfold laneRow
  dsimp only
  have h : (ops.map (fun r => r.lane l)).any PWord.isPoison = ops.any (fun r => (r.lane l).isPoison) := by
    simp [List.any_map, Function.comp_def]
  rw [h]
  split <;> simp [List.map_map, Function.comp_def]

/-- Uniform operands give every lane the same row, but for its number. -/
theorem laneRow_uniform {ops : List VReg} (h : ops.all VReg.isUniform = true) (f : List Word → Word × Flags) (l k : Nat) :
    (laneRow ops f l).2 = (laneRow ops f k).2 := by
  have e : ops.map (fun r => r.lane l) = ops.map (fun r => r.lane k) := by
    apply List.map_congr_left
    intro r hr
    have := List.all_eq_true.1 h r hr
    cases r <;> simp_all [VReg.isUniform, VReg.lane]
  unfold laneRow
  simp only [e]
  split <;> rfl

/-- No trap where no row is poison under MR.PX and none raises an enabled exception (R145). -/
theorem trapOf_none {mr : Word} {rows : Rows} (hp : mrPX mr = true → ∀ r ∈ rows, r.2.1.isPoison = false)
    (he : ∀ r ∈ rows, enabledOf mr r.2.2 = 0) : trapOf mr rows = none := by
  have h1 : (if mrPX mr then rows.find? (fun r => r.2.1.isPoison) else none) = none := by
    split
    · rw [List.find?_eq_none]; intro r hr; simp [hp ‹_› r hr]
    · rfl
  have h2 : rows.find? (fun r => enabledOf mr r.2.2 != 0) = none := by
    rw [List.find?_eq_none]; intro r hr; simp [he r hr]
  simp [trapOf, h1, h2]

/-- A lane executes where a row is there for all. -/
theorem rowsOf_some {s : State} {i : Nat} {ops : List VReg} {f : List Word → Word × Flags} {r : Nat × PWord × Flags}
    (hr : r ∈ s.rowsOf i ops f) : ∃ l, (s.execMask i).getLsbD l = true ∧ r.2 = (laneRow ops f l).2 := by
  unfold State.rowsOf at hr
  dsimp only at hr
  split at hr
  · rename_i h
    simp only [Bool.and_eq_true, Nat.blt_eq] at h
    refine ⟨0, fullMask_lane h.1.2 h.1.1 (by omega), ?_⟩
    simpa using congrArg Prod.snd (List.mem_singleton.1 hr)
  · obtain ⟨l, hl, rfl⟩ := List.mem_map.1 hr
    exact ⟨l, (mem_lanesIn.1 hl).2, rfl⟩

/-- What the executing lanes of the result of a per-lane word hold: their rows; the affine shape, where the word has one, must agree. -/
theorem shapeOf_lane {s : State} {i : Nat} {ops : List VReg} {f : List Word → Word × Flags} {aff : Option VReg}
    (haff : ∀ a, aff = some a → ∀ l, (s.execMask i).getLsbD l = true → a.lane l = (laneRow ops f l).2.1) {l : Nat}
    (hl : (s.execMask i).getLsbD l = true) :
    (s.shapeOf i ops aff (s.rowsOf i ops f)).lane l = (laneRow ops f l).2.1 := by
  have hw := execMask_lt hl
  have hspread : ∀ h : ¬ (Nat.blt 0 (s.widthOf i) && fullMask (s.widthOf i) (s.execMask i) && ops.all VReg.isUniform) = true,
      (VReg.general (spread (s.widthOf i) 0 (s.rowsOf i ops f))).lane l = (laneRow ops f l).2.1 := by
    intro h
    have hr : s.rowsOf i ops f = (lanesIn (s.widthOf i) (s.execMask i)).map (fun l => (l, (laneRow ops f l).2)) := by
      unfold State.rowsOf
      dsimp only
      rw [if_neg h]
      exact List.map_congr_left (fun l _ => laneRow_lane ops f l)
    rw [hr]
    have := spread_lane (fun l => (laneRow ops f l).2) (s.widthOf i) 0 (lanesIn (s.widthOf i) (s.execMask i)) (pairwise_lanesIn _ _)
      (fun x hx => ⟨Nat.zero_le _, by have := (mem_lanesIn.1 hx).1; omega⟩) l hw.1
    simpa [VReg.lane, mem_lanesIn.2 ⟨hw.1, hl⟩] using this
  unfold State.shapeOf
  dsimp only
  split
  · rename_i hfull
    cases haffv : aff with
    | some a => exact haff a haffv l hl
    | none =>
      dsimp only
      split
      · rename_i hu
        have : s.rowsOf i ops f = [laneRow ops f 0] := by
          unfold State.rowsOf
          dsimp only
          rw [if_pos]
          simp only [Bool.and_eq_true, Nat.blt_eq]
          exact ⟨⟨by omega, hfull⟩, hu⟩
        rw [this]
        simp only [VReg.lane]
        rw [laneRow_uniform hu f 0 l]
      · rename_i hu
        exact hspread (by simp [hu])
  · rename_i hfull
    exact hspread (by simp [hfull])

/-- A per-lane word completes where its lanes meet no enabled exception and, under MR.PX, no poison (R145). -/
theorem perLane_done {s : State} {i d : Nat} {kills : List (Bool × BitVec 6)} {ops : List VReg} {aff : Option VReg}
    {f : List Word → Word × Flags}
    (h : ∀ l, (s.execMask i).getLsbD l = true →
      (mrPX (s.split i).mr = true → ∀ r ∈ ops, (r.lane l).isPoison = false) ∧ enabledOf (s.split i).mr (laneRow ops f l).2.2 = 0) :
    s.perLane i d kills ops aff f =
      (s, .done (lastUses (s.execMask i) kills ++ [.vset d (s.execMask i) (s.shapeOf i ops aff (s.rowsOf i ops f))])) := by
  have ht : trapOf (s.split i).mr (s.rowsOf i ops f) = none := by
    apply trapOf_none
    · intro hpx r hr
      obtain ⟨l, hl, e⟩ := rowsOf_some hr
      rw [e, laneRow_value]
      have : ops.any (fun r => (r.lane l).isPoison) = false := by
        rw [List.any_eq_false]; intro x hx; simp [(h l hl).1 hpx x hx]
      rw [if_neg (by simp [this])]
      rfl
    · intro r hr
      obtain ⟨l, hl, e⟩ := rowsOf_some hr
      rw [e]; exact (h l hl).2
  simp [State.perLane, ht]

/-! ## The redundancy check (R134) -/

/-- Without a lane fault to come the check finds nothing. -/
theorem laneCheck_none {d i : Nat} {body : Nat → State → State × Out} {s : State} (h : (s.core (s.coreOf i)).upset = []) :
    laneCheck d body i s = body i s := by
  unfold laneCheck
  split <;> simp_all

/-- With MR.LR clear nothing is checked. -/
theorem laneCheck_off {d i : Nat} {body : Nat → State → State × Out} {s : State} (h : mrLR (s.split i).mr = false) :
    laneCheck d body i s = body i s := by
  unfold laneCheck
  split
  · split <;> simp_all
  · rfl

/-- Where no lane has a partner, as in full quads, nothing is checked. -/
theorem laneCheck_full {d i : Nat} {body : Nat → State → State × Out} {s : State}
    (h : idleLanes (s.widthOf i) (s.execMask i) = []) : laneCheck d body i s = body i s := by
  unfold laneCheck
  split
  · split <;> simp_all
  · rfl

end Sys2Proof.Machine
end

