-- ==== Sys2Proof/Laws/PerInstr.lean ====
section
/-! SUPPORT. Families of statements about every instruction as syntax, one lemma a constructor. -/

namespace Sys2Proof.Laws.Length

/-- An instruction that some bytes encode is encoded by as many bytes as its stream reads of it (R24, R34, R47). -/
def Statement (i : Instr) : Prop := i.isReserved = false → encode i ≠ [] → (encode i).length = i.size

theorem nop : ∀ x0, Statement (.nop x0) := fun _ _ _ => rfl
theorem hint : ∀ x0, Statement (.hint x0) := fun _ _ _ => rfl
theorem mode : ∀ x0, Statement (.mode x0) := fun _ _ _ => rfl
theorem limm : ∀ x0, Statement (.limm x0) := fun _ _ _ => rfl
theorem bra : ∀ x0, Statement (.bra x0) := fun _ _ _ => rfl
theorem call : ∀ x0, Statement (.call x0) := fun _ _ _ => rfl
theorem jmp : ∀ x0, Statement (.jmp x0) := fun _ _ _ => rfl
theorem callr : ∀ x0, Statement (.callr x0) := fun _ _ _ => rfl
theorem ret : ∀ x0, Statement (.ret x0) := fun _ _ _ => rfl
theorem exit : ∀ x0, Statement (.exit x0) := fun _ _ _ => rfl
theorem regang : ∀ x0, Statement (.regang x0) := fun _ _ _ => rfl
theorem regangTimeout : ∀ x0, Statement (.regangTimeout x0) := fun _ _ h => absurd rfl h
theorem split : ∀ x0, Statement (.split x0) := fun _ _ _ => rfl
theorem fuse : ∀ x0, Statement (.fuse x0) := fun _ _ _ => rfl
theorem fuseTimeout : ∀ x0, Statement (.fuseTimeout x0) := fun _ _ h => absurd rfl h
theorem widthq : ∀ x0, Statement (.widthq x0) := fun _ _ _ => rfl
theorem warpq : ∀ x0, Statement (.warpq x0) := fun _ _ _ => rfl
theorem splitq : ∀ x0, Statement (.splitq x0) := fun _ _ _ => rfl
theorem laneq : ∀ x0, Statement (.laneq x0) := fun _ _ _ => rfl
theorem pand : ∀ x0, Statement (.pand x0) := fun _ _ _ => rfl
theorem por : ∀ x0, Statement (.por x0) := fun _ _ _ => rfl
theorem pxor : ∀ x0, Statement (.pxor x0) := fun _ _ _ => rfl
theorem deact : ∀ x0, Statement (.deact x0) := fun _ _ _ => rfl
theorem splitBoost : ∀ x0, Statement (.splitBoost x0) := fun _ _ h => absurd rfl h
theorem barSync : ∀ x0, Statement (.barSync x0) := fun _ _ _ => rfl
theorem barArv : ∀ x0, Statement (.barArv x0) := fun _ _ _ => rfl
theorem barWait : ∀ x0, Statement (.barWait x0) := fun _ _ _ => rfl
theorem barCnt : ∀ x0, Statement (.barCnt x0) := fun _ _ _ => rfl
theorem barPhq : ∀ x0, Statement (.barPhq x0) := fun _ _ _ => rfl
theorem barFold : ∀ x0, Statement (.barFold x0) := fun _ _ _ => rfl
theorem safe : ∀ x0 x1 x2, Statement (.safe x0 x1 x2) := fun _ _ _ _ _ => rfl
theorem srd : ∀ x0, Statement (.srd x0) := fun _ _ _ => rfl
theorem swr : ∀ x0, Statement (.swr x0) := fun _ _ _ => rfl
theorem sxch : ∀ x0, Statement (.sxch x0) := fun _ _ _ => rfl
theorem trap : ∀ x0, Statement (.trap x0) := fun _ _ _ => rfl
theorem tret : ∀ x0, Statement (.tret x0) := fun _ _ _ => rfl
theorem add : ∀ x0, Statement (.add x0) := fun _ _ _ => rfl
theorem sub : ∀ x0, Statement (.sub x0) := fun _ _ _ => rfl
theorem mul : ∀ x0, Statement (.mul x0) := fun _ _ _ => rfl
theorem mulhi : ∀ x0, Statement (.mulhi x0) := fun _ _ _ => rfl
theorem min : ∀ x0, Statement (.min x0) := fun _ _ _ => rfl
theorem max : ∀ x0, Statement (.max x0) := fun _ _ _ => rfl
theorem absdiff : ∀ x0, Statement (.absdiff x0) := fun _ _ _ => rfl
theorem mad : ∀ x0, Statement (.mad x0) := fun _ _ _ => rfl
theorem abs : ∀ x0, Statement (.abs x0) := fun _ _ _ => rfl
theorem neg : ∀ x0, Statement (.neg x0) := fun _ _ _ => rfl
theorem and : ∀ x0, Statement (.and x0) := fun _ _ _ => rfl
theorem or : ∀ x0, Statement (.or x0) := fun _ _ _ => rfl
theorem xor : ∀ x0, Statement (.xor x0) := fun _ _ _ => rfl
theorem andn : ∀ x0, Statement (.andn x0) := fun _ _ _ => rfl
theorem not : ∀ x0, Statement (.not x0) := fun _ _ _ => rfl
theorem shl : ∀ x0, Statement (.shl x0) := fun _ _ _ => rfl
theorem shr : ∀ x0, Statement (.shr x0) := fun _ _ _ => rfl
theorem popc : ∀ x0, Statement (.popc x0) := fun _ _ _ => rfl
theorem clz : ∀ x0, Statement (.clz x0) := fun _ _ _ => rfl
theorem bitrev : ∀ x0, Statement (.bitrev x0) := fun _ _ _ => rfl
theorem fext : ∀ x0, Statement (.fext x0) := fun _ _ _ => rfl
theorem fins : ∀ x0, Statement (.fins x0) := fun _ _ _ => rfl
theorem icmp : ∀ x0, Statement (.icmp x0) := fun _ _ _ => rfl
theorem fcmp : ∀ x0, Statement (.fcmp x0) := fun _ _ _ => rfl
theorem fclass : ∀ x0, Statement (.fclass x0) := fun _ _ _ => rfl
theorem fadd : ∀ x0, Statement (.fadd x0) := fun _ _ _ => rfl
theorem fsub : ∀ x0, Statement (.fsub x0) := fun _ _ _ => rfl
theorem fmul : ∀ x0, Statement (.fmul x0) := fun _ _ _ => rfl
theorem fdiv : ∀ x0, Statement (.fdiv x0) := fun _ _ _ => rfl
theorem fmin : ∀ x0, Statement (.fmin x0) := fun _ _ _ => rfl
theorem fmax : ∀ x0, Statement (.fmax x0) := fun _ _ _ => rfl
theorem fabs : ∀ x0, Statement (.fabs x0) := fun _ _ _ => rfl
theorem fneg : ∀ x0, Statement (.fneg x0) := fun _ _ _ => rfl
theorem ffma : ∀ x0, Statement (.ffma x0) := fun _ _ _ => rfl
theorem ffms : ∀ x0, Statement (.ffms x0) := fun _ _ _ => rfl
theorem ffnma : ∀ x0, Statement (.ffnma x0) := fun _ _ _ => rfl
theorem ffnms : ∀ x0, Statement (.ffnms x0) := fun _ _ _ => rfl
theorem rcp : ∀ x0, Statement (.rcp x0) := fun _ _ _ => rfl
theorem rsq : ∀ x0, Statement (.rsq x0) := fun _ _ _ => rfl
theorem sqrt : ∀ x0, Statement (.sqrt x0) := fun _ _ _ => rfl
theorem ex2 : ∀ x0, Statement (.ex2 x0) := fun _ _ _ => rfl
theorem lg2 : ∀ x0, Statement (.lg2 x0) := fun _ _ _ => rfl
theorem sin : ∀ x0, Statement (.sin x0) := fun _ _ _ => rfl
theorem cos : ∀ x0, Statement (.cos x0) := fun _ _ _ => rfl
theorem tanh : ∀ x0, Statement (.tanh x0) := fun _ _ _ => rfl
theorem cvt : ∀ x0, Statement (.cvt x0) := fun _ _ _ => rfl
theorem nenc : ∀ x0, Statement (.nenc x0) := fun _ _ _ => rfl
theorem ndec : ∀ x0, Statement (.ndec x0) := fun _ _ _ => rfl
theorem pack : ∀ x0, Statement (.pack x0) := fun _ _ _ => rfl
theorem unpack : ∀ x0, Statement (.unpack x0) := fun _ _ _ => rfl
theorem sel : ∀ x0, Statement (.sel x0) := fun _ _ _ => rfl
theorem mov : ∀ x0, Statement (.mov x0) := fun _ _ _ => rfl
theorem movs : ∀ x0, Statement (.movs x0) := fun _ _ _ => rfl
theorem rdlane : ∀ x0, Statement (.rdlane x0) := fun _ _ _ => rfl
theorem qxchX1 : ∀ x0, Statement (.qxchX1 x0) := fun _ _ _ => rfl
theorem qxchX2 : ∀ x0, Statement (.qxchX2 x0) := fun _ _ _ => rfl
theorem qxchX3 : ∀ x0, Statement (.qxchX3 x0) := fun _ _ _ => rfl
theorem qxch : ∀ x0, Statement (.qxch x0) := fun _ _ _ => rfl
theorem shflFrom : ∀ x0, Statement (.shflFrom x0) := fun _ _ _ => rfl
theorem shflBack : ∀ x0, Statement (.shflBack x0) := fun _ _ _ => rfl
theorem shflAhead : ∀ x0, Statement (.shflAhead x0) := fun _ _ _ => rfl
theorem shflFlip : ∀ x0, Statement (.shflFlip x0) := fun _ _ _ => rfl
theorem voteAnd : ∀ x0, Statement (.voteAnd x0) := fun _ _ _ => rfl
theorem voteOr : ∀ x0, Statement (.voteOr x0) := fun _ _ _ => rfl
theorem voteSame : ∀ x0, Statement (.voteSame x0) := fun _ _ _ => rfl
theorem ballot : ∀ x0, Statement (.ballot x0) := fun _ _ _ => rfl
theorem matchAny : ∀ x0, Statement (.matchAny x0) := fun _ _ _ => rfl
theorem redux : ∀ x0, Statement (.redux x0) := fun _ _ _ => rfl
theorem scan : ∀ x0, Statement (.scan x0) := fun _ _ _ => rfl
theorem sadd : ∀ x0, Statement (.sadd x0) := fun _ _ _ => rfl
theorem ssub : ∀ x0, Statement (.ssub x0) := fun _ _ _ => rfl
theorem smul : ∀ x0, Statement (.smul x0) := fun _ _ _ => rfl
theorem smulhu : ∀ x0, Statement (.smulhu x0) := fun _ _ _ => rfl
theorem smulhs : ∀ x0, Statement (.smulhs x0) := fun _ _ _ => rfl
theorem sand : ∀ x0, Statement (.sand x0) := fun _ _ _ => rfl
theorem sor : ∀ x0, Statement (.sor x0) := fun _ _ _ => rfl
theorem sxor : ∀ x0, Statement (.sxor x0) := fun _ _ _ => rfl
theorem sshl : ∀ x0, Statement (.sshl x0) := fun _ _ _ => rfl
theorem sshr : ∀ x0, Statement (.sshr x0) := fun _ _ _ => rfl
theorem ssra : ∀ x0, Statement (.ssra x0) := fun _ _ _ => rfl
theorem sminu : ∀ x0, Statement (.sminu x0) := fun _ _ _ => rfl
theorem smaxu : ∀ x0, Statement (.smaxu x0) := fun _ _ _ => rfl
theorem smins : ∀ x0, Statement (.smins x0) := fun _ _ _ => rfl
theorem smaxs : ∀ x0, Statement (.smaxs x0) := fun _ _ _ => rfl
theorem sseq : ∀ x0, Statement (.sseq x0) := fun _ _ _ => rfl
theorem ssltu : ∀ x0, Statement (.ssltu x0) := fun _ _ _ => rfl
theorem sslts : ∀ x0, Statement (.sslts x0) := fun _ _ _ => rfl
theorem addi : ∀ x0, Statement (.addi x0) := fun _ _ _ => rfl
theorem andi : ∀ x0, Statement (.andi x0) := fun _ _ _ => rfl
theorem ori : ∀ x0, Statement (.ori x0) := fun _ _ _ => rfl
theorem xori : ∀ x0, Statement (.xori x0) := fun _ _ _ => rfl
theorem movi : ∀ x0, Statement (.movi x0) := fun _ _ _ => rfl
theorem saddi : ∀ x0, Statement (.saddi x0) := fun _ _ _ => rfl
theorem ld : ∀ x0, Statement (.ld x0) := fun _ _ _ => rfl
theorem ldS : ∀ x0, Statement (.ldS x0) := fun _ _ _ => rfl
theorem ldF16 : ∀ x0, Statement (.ldF16 x0) := fun _ _ _ => rfl
theorem ldBf16 : ∀ x0, Statement (.ldBf16 x0) := fun _ _ _ => rfl
theorem ldE4m3 : ∀ x0, Statement (.ldE4m3 x0) := fun _ _ _ => rfl
theorem ldE5m2 : ∀ x0, Statement (.ldE5m2 x0) := fun _ _ _ => rfl
theorem st : ∀ x0, Statement (.st x0) := fun _ _ _ => rfl
theorem stF16 : ∀ x0, Statement (.stF16 x0) := fun _ _ _ => rfl
theorem stBf16 : ∀ x0, Statement (.stBf16 x0) := fun _ _ _ => rfl
theorem stE4m3 : ∀ x0, Statement (.stE4m3 x0) := fun _ _ _ => rfl
theorem stE5m2 : ∀ x0, Statement (.stE5m2 x0) := fun _ _ _ => rfl
theorem lds : ∀ x0, Statement (.lds x0) := fun _ _ _ => rfl
theorem ldsF16 : ∀ x0, Statement (.ldsF16 x0) := fun _ _ _ => rfl
theorem ldsBf16 : ∀ x0, Statement (.ldsBf16 x0) := fun _ _ _ => rfl
theorem sts : ∀ x0, Statement (.sts x0) := fun _ _ _ => rfl
theorem stsF16 : ∀ x0, Statement (.stsF16 x0) := fun _ _ _ => rfl
theorem stsBf16 : ∀ x0, Statement (.stsBf16 x0) := fun _ _ _ => rfl
theorem ldc : ∀ x0, Statement (.ldc x0) := fun _ _ _ => rfl
theorem atom : ∀ x0, Statement (.atom x0) := fun _ _ _ => rfl
theorem red : ∀ x0, Statement (.red x0) := fun _ _ _ => rfl
theorem atoms : ∀ x0, Statement (.atoms x0) := fun _ _ _ => rfl
theorem fenceRel : ∀ x0, Statement (.fenceRel x0) := fun _ _ _ => rfl
theorem fenceAcq : ∀ x0, Statement (.fenceAcq x0) := fun _ _ _ => rfl
theorem ldAcq : ∀ x0, Statement (.ldAcq x0) := fun _ _ _ => rfl
theorem ccWb : ∀ x0, Statement (.ccWb x0) := fun _ _ _ => rfl
theorem ccInv : ∀ x0, Statement (.ccInv x0) := fun _ _ _ => rfl
theorem ccWbinv : ∀ x0, Statement (.ccWbinv x0) := fun _ _ _ => rfl
theorem pf : ∀ x0, Statement (.pf x0) := fun _ _ _ => rfl
theorem time : ∀ x0, Statement (.time x0) := fun _ _ _ => rfl
theorem twait : ∀ x0, Statement (.twait x0) := fun _ _ _ => rfl
theorem mteps : ∀ x0, Statement (.mteps x0) := fun _ _ _ => rfl
theorem locq : ∀ x0, Statement (.locq x0) := fun _ _ _ => rfl
theorem locqSelf : ∀ x0, Statement (.locqSelf x0) := fun _ _ _ => rfl
theorem ctrdL : ∀ x0, Statement (.ctrdL x0) := fun _ _ _ => rfl
theorem ctrdG : ∀ x0, Statement (.ctrdG x0) := fun _ _ _ => rfl
theorem ctjoin : ∀ x0, Statement (.ctjoin x0) := fun _ _ _ => rfl
theorem regmode : ∀ x0, Statement (.regmode x0) := fun _ _ _ => rfl
theorem geninc : ∀ x0, Statement (.geninc x0) := fun _ _ _ => rfl
theorem genwait : ∀ x0, Statement (.genwait x0) := fun _ _ _ => rfl
theorem genrd : ∀ x0, Statement (.genrd x0) := fun _ _ _ => rfl
theorem xlat : ∀ x0, Statement (.xlat x0) := fun _ _ _ => rfl
theorem qpop : ∀ x0, Statement (.qpop x0) := fun _ _ _ => rfl
theorem mtrd : ∀ x0, Statement (.mtrd x0) := fun _ _ _ => rfl
theorem mtwr : ∀ x0, Statement (.mtwr x0) := fun _ _ _ => rfl
theorem tilestat : ∀ x0, Statement (.tilestat x0) := fun _ _ _ => rfl
theorem msig : ∀ x0, Statement (.msig x0) := fun _ _ _ => rfl
theorem mqcnt : ∀ x0, Statement (.mqcnt x0) := fun _ _ _ => rfl
theorem cpTensor : ∀ x0, Statement (.cpTensor x0) := fun _ _ _ => rfl
theorem cpTensorW : ∀ x0, Statement (.cpTensorW x0) := fun _ _ _ => rfl
theorem cpStore : ∀ x0, Statement (.cpStore x0) := fun _ _ _ => rfl
theorem cpGather : ∀ x0, Statement (.cpGather x0) := fun _ _ _ => rfl
theorem cpMcast : ∀ x0, Statement (.cpMcast x0) := fun _ _ _ => rfl
theorem hbAcq : ∀ x0, Statement (.hbAcq x0) := fun _ _ _ => rfl
theorem hbWait : ∀ x0, Statement (.hbWait x0) := fun _ _ _ => rfl
theorem hbRel : ∀ x0, Statement (.hbRel x0) := fun _ _ _ => rfl
theorem hbState : ∀ x0, Statement (.hbState x0) := fun _ _ _ => rfl
theorem rgNext : ∀ x0, Statement (.rgNext x0) := fun _ _ _ => rfl
theorem cpResume : ∀ x0, Statement (.cpResume x0) := fun _ _ _ => rfl
theorem cpAbort : ∀ x0, Statement (.cpAbort x0) := fun _ _ _ => rfl
theorem cpFrec : ∀ x0, Statement (.cpFrec x0) := fun _ _ _ => rfl
theorem treeNew : ∀ x0, Statement (.treeNew x0) := fun _ _ _ => rfl
theorem treeClone : ∀ x0, Statement (.treeClone x0) := fun _ _ _ => rfl
theorem treeRel : ∀ x0, Statement (.treeRel x0) := fun _ _ _ => rfl
theorem treeRd : ∀ x0, Statement (.treeRd x0) := fun _ _ _ => rfl
theorem nodeFork : ∀ x0, Statement (.nodeFork x0) := fun _ _ _ => rfl
theorem nodePrune : ∀ x0, Statement (.nodePrune x0) := fun _ _ _ => rfl
theorem nodeCommit : ∀ x0, Statement (.nodeCommit x0) := fun _ _ _ => rfl
theorem nodeRd : ∀ x0, Statement (.nodeRd x0) := fun _ _ _ => rfl
theorem nodePay : ∀ x0, Statement (.nodePay x0) := fun _ _ _ => rfl
theorem kvSlot : ∀ x0, Statement (.kvSlot x0) := fun _ _ _ => rfl
theorem kvAppend : ∀ x0, Statement (.kvAppend x0) := fun _ _ _ => rfl
theorem maskgen : ∀ x0, Statement (.maskgen x0) := fun _ _ _ => rfl
theorem maskgenS : ∀ x0, Statement (.maskgenS x0) := fun _ _ _ => rfl
theorem tqPush : ∀ x0, Statement (.tqPush x0) := fun _ _ _ => rfl
theorem tqPop : ∀ x0, Statement (.tqPop x0) := fun _ _ _ => rfl
theorem tqSteal : ∀ x0, Statement (.tqSteal x0) := fun _ _ _ => rfl
theorem pqIns : ∀ x0, Statement (.pqIns x0) := fun _ _ _ => rfl
theorem pqMin : ∀ x0, Statement (.pqMin x0) := fun _ _ _ => rfl
theorem depDec : ∀ x0, Statement (.depDec x0) := fun _ _ _ => rfl
theorem depWait : ∀ x0, Statement (.depWait x0) := fun _ _ _ => rfl
theorem taskEnd : ∀ x0, Statement (.taskEnd x0) := fun _ _ _ => rfl
theorem bndMin : ∀ x0, Statement (.bndMin x0) := fun _ _ _ => rfl
theorem bndRd : ∀ x0, Statement (.bndRd x0) := fun _ _ _ => rfl
theorem bndSet : ∀ x0, Statement (.bndSet x0) := fun _ _ _ => rfl
theorem collAr : ∀ x0, Statement (.collAr x0) := fun _ _ _ => rfl
theorem collAg : ∀ x0, Statement (.collAg x0) := fun _ _ _ => rfl
theorem collRs : ∀ x0, Statement (.collRs x0) := fun _ _ _ => rfl
theorem rldB32 : ∀ x0, Statement (.rldB32 x0) := fun _ _ _ => rfl
theorem rldB64 : ∀ x0, Statement (.rldB64 x0) := fun _ _ _ => rfl
theorem rstB32 : ∀ x0, Statement (.rstB32 x0) := fun _ _ _ => rfl
theorem rstB64 : ∀ x0, Statement (.rstB64 x0) := fun _ _ _ => rfl
theorem l1wbinv : ∀ x0, Statement (.l1wbinv x0) := fun _ _ _ => rfl
theorem xlflush : ∀ x0, Statement (.xlflush x0) := fun _ _ _ => rfl
theorem mnop : ∀ x0, Statement (.mnop x0) := fun _ _ _ => rfl
theorem mhint : ∀ x0, Statement (.mhint x0) := fun _ _ _ => rfl
theorem mend : ∀ x0, Statement (.mend x0) := fun _ _ _ => rfl
theorem mbr : ∀ x0, Statement (.mbr x0) := fun _ _ _ => rfl
theorem madd : ∀ x0, Statement (.madd x0) := fun _ _ _ => rfl
theorem msub : ∀ x0, Statement (.msub x0) := fun _ _ _ => rfl
theorem mmul : ∀ x0, Statement (.mmul x0) := fun _ _ _ => rfl
theorem mand : ∀ x0, Statement (.mand x0) := fun _ _ _ => rfl
theorem mor : ∀ x0, Statement (.mor x0) := fun _ _ _ => rfl
theorem mxor : ∀ x0, Statement (.mxor x0) := fun _ _ _ => rfl
theorem mshl : ∀ x0, Statement (.mshl x0) := fun _ _ _ => rfl
theorem mshr : ∀ x0, Statement (.mshr x0) := fun _ _ _ => rfl
theorem msra : ∀ x0, Statement (.msra x0) := fun _ _ _ => rfl
theorem mminu : ∀ x0, Statement (.mminu x0) := fun _ _ _ => rfl
theorem mmaxu : ∀ x0, Statement (.mmaxu x0) := fun _ _ _ => rfl
theorem mseq : ∀ x0, Statement (.mseq x0) := fun _ _ _ => rfl
theorem msltu : ∀ x0, Statement (.msltu x0) := fun _ _ _ => rfl
theorem mslts : ∀ x0, Statement (.mslts x0) := fun _ _ _ => rfl
theorem mmov : ∀ x0, Statement (.mmov x0) := fun _ _ _ => rfl
theorem maddi : ∀ x0, Statement (.maddi x0) := fun _ _ _ => rfl
theorem mldg : ∀ x0, Statement (.mldg x0) := fun _ _ _ => rfl
theorem marv : ∀ x0, Statement (.marv x0) := fun _ _ _ => rfl
theorem mwait : ∀ x0, Statement (.mwait x0) := fun _ _ _ => rfl
theorem msync : ∀ x0, Statement (.msync x0) := fun _ _ _ => rfl
theorem mhwait : ∀ x0, Statement (.mhwait x0) := fun _ _ _ => rfl
theorem mhrel : ∀ x0, Statement (.mhrel x0) := fun _ _ _ => rfl
theorem mldA : ∀ x0, Statement (.mldA x0) := fun _ _ _ => rfl
theorem mldB : ∀ x0, Statement (.mldB x0) := fun _ _ _ => rfl
theorem mma : ∀ x0, Statement (.mma x0) := fun _ _ _ => rfl
theorem mclr : ∀ x0, Statement (.mclr x0) := fun _ _ _ => rfl
theorem mclrI : ∀ x0, Statement (.mclrI x0) := fun _ _ _ => rfl
theorem mstat : ∀ x0, Statement (.mstat x0) := fun _ _ _ => rfl
theorem mpush : ∀ x0, Statement (.mpush x0) := fun _ _ _ => rfl
theorem mst : ∀ x0, Statement (.mst x0) := fun _ _ _ => rfl
theorem mspec : ∀ x0, Statement (.mspec x0) := fun _ _ _ => rfl
theorem mresolve : ∀ x0, Statement (.mresolve x0) := fun _ _ _ => rfl
theorem mresolveSig : ∀ x0, Statement (.mresolveSig x0) := fun _ _ _ => rfl
theorem mcommit : ∀ x0, Statement (.mcommit x0) := fun _ _ _ => rfl
theorem mlimm : ∀ x0, Statement (.mlimm x0) := fun _ _ _ => rfl
theorem matrixCommandPerform : ∀ x0, Statement (.matrixCommandPerform x0) := fun _ _ h => absurd rfl h
theorem tileRetire : ∀ x0 x1, Statement (.tileRetire x0 x1) := fun _ _ _ h => absurd rfl h
theorem spokeCpTensor : ∀ x0, Statement (.spokeCpTensor x0) := fun _ _ _ => rfl
theorem spokeCpTensorW : ∀ x0, Statement (.spokeCpTensorW x0) := fun _ _ _ => rfl
theorem spokeCpStore : ∀ x0, Statement (.spokeCpStore x0) := fun _ _ _ => rfl
theorem spokeCpGather : ∀ x0, Statement (.spokeCpGather x0) := fun _ _ _ => rfl
theorem spokeCpMcast : ∀ x0, Statement (.spokeCpMcast x0) := fun _ _ _ => rfl
theorem spokeHbAcq : ∀ x0, Statement (.spokeHbAcq x0) := fun _ _ _ => rfl
theorem spokeHbRel : ∀ x0, Statement (.spokeHbRel x0) := fun _ _ _ => rfl
theorem spokeHbState : ∀ x0, Statement (.spokeHbState x0) := fun _ _ _ => rfl
theorem spokeCpResume : ∀ x0, Statement (.spokeCpResume x0) := fun _ _ _ => rfl
theorem spokeCpAbort : ∀ x0, Statement (.spokeCpAbort x0) := fun _ _ _ => rfl
theorem spokeCpFrec : ∀ x0, Statement (.spokeCpFrec x0) := fun _ _ _ => rfl
theorem spokeRgNext : ∀ x0, Statement (.spokeRgNext x0) := fun _ _ _ => rfl
theorem spokeRgPeek : ∀ x0, Statement (.spokeRgPeek x0) := fun _ _ _ => rfl
theorem spokeRdmt : ∀ x0, Statement (.spokeRdmt x0) := fun _ _ _ => rfl
theorem spokeRdeps : ∀ x0, Statement (.spokeRdeps x0) := fun _ _ _ => rfl
theorem spokeRdctx : ∀ x0, Statement (.spokeRdctx x0) := fun _ _ _ => rfl
theorem spokeHbWait : ∀ x0, Statement (.spokeHbWait x0) := fun _ _ _ => rfl
theorem spokeSbarArv : ∀ x0, Statement (.spokeSbarArv x0) := fun _ _ _ => rfl
theorem spokeSbarWait : ∀ x0, Statement (.spokeSbarWait x0) := fun _ _ _ => rfl
theorem spokeSbarSync : ∀ x0, Statement (.spokeSbarSync x0) := fun _ _ _ => rfl
theorem spokeLoad : ∀ x0, Statement (.spokeLoad x0) := fun x0 _ _ => by
  cases x0 with
  | mk c =>
    cases c
    · rfl
    · simp only [encode, encodeWord, Rv.encodeC, Instr.size, if_true]
      split
      · rfl
      · rename_i h; split at h <;> cases h
theorem spokeStore : ∀ x0, Statement (.spokeStore x0) := fun x0 _ _ => by
  cases x0 with
  | mk c =>
    cases c
    · rfl
    · simp only [encode, encodeWord, Rv.encodeC, Instr.size, if_true]
      split
      · rfl
      · rename_i h; split at h <;> cases h
theorem spokeAmo : ∀ x0, Statement (.spokeAmo x0) := fun _ _ _ => rfl
theorem spokeLr : ∀ x0, Statement (.spokeLr x0) := fun _ _ _ => rfl
theorem spokeSc : ∀ x0, Statement (.spokeSc x0) := fun _ _ _ => rfl
theorem spokeFence : ∀ x0, Statement (.spokeFence x0) := fun _ _ _ => rfl
theorem spokeFenceI : Statement (.spokeFenceI) := fun _ _ => rfl
theorem spokeCsrRead : ∀ x0, Statement (.spokeCsrRead x0) := fun _ _ _ => rfl
theorem spokeWfi : Statement (.spokeWfi) := fun _ _ => rfl
theorem spokeEcall : Statement (.spokeEcall) := fun _ _ => rfl
theorem spokeEbreak : ∀ x0, Statement (.spokeEbreak x0) := fun x0 _ _ => by cases x0 <;> rfl
theorem spokeOtherInstruction : ∀ x0 x1, Statement (.spokeOtherInstruction x0 x1) := fun x0 x1 _ h => by
  cases x0
  · rfl
  · revert h
    simp only [encode, encodeWord, Rv.encodeC, Instr.size]
    cases Rv.cOp x1 <;> intro h
    · exact absurd rfl h
    · rfl
theorem resultReturn : ∀ x0, Statement (.resultReturn x0) := fun _ _ h => absurd rfl h
theorem homeRead : ∀ x0, Statement (.homeRead x0) := fun _ _ h => absurd rfl h
theorem homeWrite : ∀ x0, Statement (.homeWrite x0) := fun _ _ h => absurd rfl h
theorem homeAtomic : ∀ x0, Statement (.homeAtomic x0) := fun _ _ h => absurd rfl h
theorem ownershipRequest : ∀ x0 x1, Statement (.ownershipRequest x0 x1) := fun _ _ _ h => absurd rfl h
theorem spanRelease : ∀ x0, Statement (.spanRelease x0) := fun _ _ h => absurd rfl h
theorem recallSpan : ∀ x0, Statement (.recallSpan x0) := fun _ _ h => absurd rfl h
theorem leaseRecordFree : ∀ x0, Statement (.leaseRecordFree x0) := fun _ _ h => absurd rfl h
theorem pageWalk : ∀ x0 x1 x2, Statement (.pageWalk x0 x1 x2) := fun _ _ _ _ h => absurd rfl h
theorem translationExpiry : ∀ x0 x1, Statement (.translationExpiry x0 x1) := fun _ _ _ h => absurd rfl h
theorem hostSnoop : ∀ x0, Statement (.hostSnoop x0) := fun _ _ h => absurd rfl h
theorem hostSnoopAnswer : ∀ x0, Statement (.hostSnoopAnswer x0) := fun _ _ h => absurd rfl h
theorem cxlCacheResponse : ∀ x0 x1 x2, Statement (.cxlCacheResponse x0 x1 x2) := fun _ _ _ _ h => absurd rfl h
theorem cxlCacheTimeout : ∀ x0, Statement (.cxlCacheTimeout x0) := fun _ _ h => absurd rfl h
theorem hostMemRead : ∀ x0 x1, Statement (.hostMemRead x0 x1) := fun _ _ _ h => absurd rfl h
theorem hostMemWrite : ∀ x0 x1, Statement (.hostMemWrite x0 x1) := fun _ _ _ h => absurd rfl h
theorem hostWriteCompletion : ∀ x0, Statement (.hostWriteCompletion x0) := fun _ _ h => absurd rfl h
theorem backInvalidateResponse : ∀ x0, Statement (.backInvalidateResponse x0) := fun _ _ h => absurd rfl h
theorem linkDown : ∀ x0, Statement (.linkDown x0) := fun _ _ h => absurd rfl h
theorem heartbeatSend : ∀ x0, Statement (.heartbeatSend x0) := fun _ _ h => absurd rfl h
theorem heartbeatReceive : ∀ x0 x1, Statement (.heartbeatReceive x0 x1) := fun _ _ _ h => absurd rfl h
theorem heartbeatTimeout : ∀ x0, Statement (.heartbeatTimeout x0) := fun _ _ h => absurd rfl h
theorem syncSend : ∀ x0, Statement (.syncSend x0) := fun _ _ h => absurd rfl h
theorem syncReceive : ∀ x0 x1 x2 x3 x4, Statement (.syncReceive x0 x1 x2 x3 x4) := fun _ _ _ _ _ _ h => absurd rfl h
theorem servoHoldover : ∀ x0, Statement (.servoHoldover x0) := fun _ _ h => absurd rfl h
theorem dieUnsync : ∀ x0 x1, Statement (.dieUnsync x0 x1) := fun _ _ _ h => absurd rfl h
theorem dieResync : ∀ x0, Statement (.dieResync x0) := fun _ _ h => absurd rfl h
theorem ptmExchange : ∀ x0 x1 x2 x3, Statement (.ptmExchange x0 x1 x2 x3) := fun _ _ _ _ _ h => absurd rfl h
theorem ptmLost : Statement (.ptmLost) := fun _ h => absurd rfl h
theorem partitionDeclare : ∀ x0, Statement (.partitionDeclare x0) := fun _ _ h => absurd rfl h
theorem diePartitioned : ∀ x0, Statement (.diePartitioned x0) := fun _ _ h => absurd rfl h
theorem timeTargetReached : ∀ x0, Statement (.timeTargetReached x0) := fun _ _ h => absurd rfl h
theorem opChange : ∀ x0 x1 x2 x3, Statement (.opChange x0 x1 x2 x3) := fun _ _ _ _ _ h => absurd rfl h
theorem thermalThrottle : ∀ x0 x1, Statement (.thermalThrottle x0 x1) := fun _ _ _ h => absurd rfl h
theorem thermalStop : ∀ x0 x1, Statement (.thermalStop x0 x1) := fun _ _ _ h => absurd rfl h
theorem copyUnitRelease : ∀ x0 x1 x2, Statement (.copyUnitRelease x0 x1 x2) := fun _ _ _ _ h => absurd rfl h
theorem copyUnitFault : ∀ x0 x1, Statement (.copyUnitFault x0 x1) := fun _ _ _ h => absurd rfl h
theorem handleFull : ∀ x0 x1, Statement (.handleFull x0 x1) := fun _ _ _ h => absurd rfl h
theorem mcastDeliveryAccept : ∀ x0 x1 x2, Statement (.mcastDeliveryAccept x0 x1 x2) := fun _ _ _ _ h => absurd rfl h
theorem treeOpPerform : ∀ x0, Statement (.treeOpPerform x0) := fun _ _ h => absurd rfl h
theorem maskgenRequest : ∀ x0, Statement (.maskgenRequest x0) := fun _ _ h => absurd rfl h
theorem nodeSlotFree : ∀ x0 x1, Statement (.nodeSlotFree x0 x1) := fun _ _ _ h => absurd rfl h
theorem treeIdFree : ∀ x0, Statement (.treeIdFree x0) := fun _ _ h => absurd rfl h
theorem poolPageLapse : ∀ x0, Statement (.poolPageLapse x0) := fun _ _ h => absurd rfl h
theorem cancelArrival : ∀ x0 x1, Statement (.cancelArrival x0 x1) := fun _ _ _ h => absurd rfl h
theorem cancelKill : ∀ x0, Statement (.cancelKill x0) := fun _ _ h => absurd rfl h
theorem dequeOperation : ∀ x0, Statement (.dequeOperation x0) := fun _ _ h => absurd rfl h
theorem depDecrement : ∀ x0, Statement (.depDecrement x0) := fun _ _ h => absurd rfl h
theorem autoEnqueue : ∀ x0, Statement (.autoEnqueue x0) := fun _ _ h => absurd rfl h
theorem pqRound : ∀ x0, Statement (.pqRound x0) := fun _ _ h => absurd rfl h
theorem taskGiveBack : ∀ x0, Statement (.taskGiveBack x0) := fun _ _ h => absurd rfl h
theorem boundUpdate : ∀ x0 x1, Statement (.boundUpdate x0 x1) := fun _ _ _ h => absurd rfl h
theorem preemptRequest : ∀ x0 x1, Statement (.preemptRequest x0 x1) := fun _ _ _ h => absurd rfl h
theorem forcedStop : ∀ x0, Statement (.forcedStop x0) := fun _ _ h => absurd rfl h
theorem unitSaveDone : ∀ x0, Statement (.unitSaveDone x0) := fun _ _ h => absurd rfl h
theorem lazyFillDone : ∀ x0 x1, Statement (.lazyFillDone x0 x1) := fun _ _ _ h => absurd rfl h
theorem qdbWrite : ∀ x0 x1, Statement (.qdbWrite x0 x1) := fun _ _ _ h => absurd rfl h
theorem queueEnable : ∀ x0, Statement (.queueEnable x0) := fun _ _ h => absurd rfl h
theorem queueDisable : ∀ x0, Statement (.queueDisable x0) := fun _ _ h => absurd rfl h
theorem queuePreempt : ∀ x0, Statement (.queuePreempt x0) := fun _ _ h => absurd rfl h
theorem queueResume : ∀ x0, Statement (.queueResume x0) := fun _ _ h => absurd rfl h
theorem dispatchPacket : ∀ x0, Statement (.dispatchPacket x0) := fun _ _ h => absurd rfl h
theorem waitPacket : ∀ x0, Statement (.waitPacket x0) := fun _ _ h => absurd rfl h
theorem signalPacket : ∀ x0, Statement (.signalPacket x0) := fun _ _ h => absurd rfl h
theorem signalValueWrite : ∀ x0, Statement (.signalValueWrite x0) := fun _ _ h => absurd rfl h
theorem nopPacket : ∀ x0, Statement (.nopPacket x0) := fun _ _ h => absurd rfl h
theorem reservedPacket : ∀ x0, Statement (.reservedPacket x0) := fun _ _ h => absurd rfl h
theorem workgroupPlace : ∀ x0, Statement (.workgroupPlace x0) := fun _ _ h => absurd rfl h
theorem workgroupStart : ∀ x0, Statement (.workgroupStart x0) := fun _ _ h => absurd rfl h
theorem launchCompletionSignal : ∀ x0, Statement (.launchCompletionSignal x0) := fun _ _ h => absurd rfl h
theorem launchEndSignal : ∀ x0, Statement (.launchEndSignal x0) := fun _ _ h => absurd rfl h
theorem stealIdleRequest : ∀ x0, Statement (.stealIdleRequest x0) := fun _ _ h => absurd rfl h
theorem stealRequestReceive : ∀ x0, Statement (.stealRequestReceive x0) := fun _ _ h => absurd rfl h
theorem queueStealHandoff : ∀ x0, Statement (.queueStealHandoff x0) := fun _ _ h => absurd rfl h
theorem queueReturnHome : ∀ x0, Statement (.queueReturnHome x0) := fun _ _ h => absurd rfl h
theorem workgroupSave : ∀ x0, Statement (.workgroupSave x0) := fun _ _ h => absurd rfl h
theorem workgroupRestore : ∀ x0 x1, Statement (.workgroupRestore x0 x1) := fun _ _ _ h => absurd rfl h
theorem collPeerPacket : ∀ x0 x1 x2 x3, Statement (.collPeerPacket x0 x1 x2 x3) := fun _ _ _ _ _ h => absurd rfl h
theorem collRankComplete : ∀ x0 x1, Statement (.collRankComplete x0 x1) := fun _ _ _ h => absurd rfl h
theorem collAbort : ∀ x0 x1, Statement (.collAbort x0 x1) := fun _ _ _ h => absurd rfl h
theorem collTimeout : ∀ x0 x1, Statement (.collTimeout x0 x1) := fun _ _ _ h => absurd rfl h
theorem remoteAccessTarget : ∀ x0, Statement (.remoteAccessTarget x0) := fun _ _ h => absurd rfl h
theorem remoteAccessResponse : ∀ x0, Statement (.remoteAccessResponse x0) := fun _ _ h => absurd rfl h
theorem fabricLaneLoss : ∀ x0 x1, Statement (.fabricLaneLoss x0 x1) := fun _ _ _ h => absurd rfl h
theorem fabricPortDown : ∀ x0 x1, Statement (.fabricPortDown x0 x1) := fun _ _ _ h => absurd rfl h
theorem fabricSyncSend : ∀ x0, Statement (.fabricSyncSend x0) := fun _ _ h => absurd rfl h
theorem fabricSyncReceive : ∀ x0 x1 x2 x3 x4, Statement (.fabricSyncReceive x0 x1 x2 x3 x4) := fun _ _ _ _ _ _ h => absurd rfl h
theorem keyLoad : Statement (.keyLoad) := fun _ h => absurd rfl h
theorem keyDisable : Statement (.keyDisable) := fun _ h => absurd rfl h
theorem keyDisableComplete : Statement (.keyDisableComplete) := fun _ h => absurd rfl h
theorem lctlWrite : ∀ x0 x1, Statement (.lctlWrite x0 x1) := fun _ _ _ h => absurd rfl h
theorem pmctlWrite : ∀ x0 x1, Statement (.pmctlWrite x0 x1) := fun _ _ _ h => absurd rfl h
theorem pmcntLoRead : ∀ x0 x1, Statement (.pmcntLoRead x0 x1) := fun _ _ _ h => absurd rfl h
theorem registerWrite : ∀ x0, Statement (.registerWrite x0) := fun _ _ h => absurd rfl h
theorem spdmVersion : Statement (.spdmVersion) := fun _ h => absurd rfl h
theorem spdmCapabilities : Statement (.spdmCapabilities) := fun _ h => absurd rfl h
theorem spdmAlgorithms : Statement (.spdmAlgorithms) := fun _ h => absurd rfl h
theorem spdmDigests : Statement (.spdmDigests) := fun _ h => absurd rfl h
theorem spdmCertificate : ∀ x0 x1, Statement (.spdmCertificate x0 x1) := fun _ _ _ h => absurd rfl h
theorem spdmChallengeAuth : ∀ x0, Statement (.spdmChallengeAuth x0) := fun _ _ h => absurd rfl h
theorem spdmMeasurements : ∀ x0 x1 x2, Statement (.spdmMeasurements x0 x1 x2) := fun _ _ _ _ h => absurd rfl h
theorem spdmKeyExchange : ∀ x0, Statement (.spdmKeyExchange x0) := fun _ _ h => absurd rfl h
theorem ideKm : ∀ x0, Statement (.ideKm x0) := fun _ _ h => absurd rfl h
theorem ideIntegrityFailure : Statement (.ideIntegrityFailure) := fun _ h => absurd rfl h
theorem cxlLinkDown : Statement (.cxlLinkDown) := fun _ h => absurd rfl h
theorem coldStart : ∀ x0, Statement (.coldStart x0) := fun _ _ h => absurd rfl h
theorem warmStart : ∀ x0, Statement (.warmStart x0) := fun _ _ h => absurd rfl h
theorem cxlHotReset : ∀ x0, Statement (.cxlHotReset x0) := fun _ _ h => absurd rfl h
theorem ps1Entry : Statement (.ps1Entry) := fun _ h => absurd rfl h
theorem ps2Entry : Statement (.ps2Entry) := fun _ h => absurd rfl h
theorem ps2Wake : ∀ x0, Statement (.ps2Wake x0) := fun _ _ h => absurd rfl h
theorem reservedEncoding : ∀ x0, Statement (.reservedEncoding x0) := fun _ h => by cases h
theorem matrixReservedEncoding : ∀ x0, Statement (.matrixReservedEncoding x0) := fun _ h => by cases h
theorem spokeIllegalInstruction : ∀ x0, Statement (.spokeIllegalInstruction x0) := fun _ h => by cases h
theorem eccGranuleError : ∀ x0 x1, Statement (.eccGranuleError x0 x1) := fun _ _ _ h => absurd rfl h
theorem flitCrcFailure : ∀ x0, Statement (.flitCrcFailure x0) := fun _ _ h => absurd rfl h
theorem fabricPortTrained : ∀ x0 x1 x2, Statement (.fabricPortTrained x0 x1 x2) := fun _ _ _ _ h => absurd rfl h
theorem startComplete : Statement (.startComplete) := fun _ h => absurd rfl h
theorem powerLoss : Statement (.powerLoss) := fun _ h => absurd rfl h
theorem configurationRequest : ∀ x0, Statement (.configurationRequest x0) := fun _ _ h => absurd rfl h
theorem l1SpanDrop : ∀ x0 x1, Statement (.l1SpanDrop x0 x1) := fun _ _ _ h => absurd rfl h

end Sys2Proof.Laws.Length
end

