-- ==== Sys2Proof/Tests/Slice0.lean ====
section
/-! SUPPORT. The tests of this model: ill-formed terms that WellFormed refuses; words of the spec and one word for each row of the opcode
table, decoded; a witness for every statement that has hypotheses; single steps with values of the spec. -/

namespace Sys2Proof.Tests

open Sys2Proof Sys2Proof.Machine

set_option Elab.async false

/-! ## Ill-formed terms, which the check refuses (R26, R37, R42) -/

/-- One term for each check of WellFormed: fields out of range, odd numbers where a pair is named, an empty set, a reserved type. -/
theorem test_ill_formed :
    ([.mode { s := false, g := false, t := false, m := false, x := false, p := 0, n := false, e := 0, r := 0, a := false, f := false, l := false, c := 0 },
      .mode { s := false, g := false, t := true, m := false, x := false, p := 1, n := false, e := 0, r := 0, a := false, f := false, l := false, c := 0 },
      .mode { s := false, g := false, t := true, m := false, x := false, p := 0, n := false, e := 9, r := 0, a := false, f := false, l := false, c := 0 },
      .jmp { s := false, a := 3 }, .callr { s := false, a := 5 }, .regang { s := false, i := 0, t := false, c := 7 }, .split { s := false, w := 6 },
      .fuse { s := false, d := 28, w := 0 }, .widthq { s := false, d := 28 }, .barSync { s := false, b := 17 }, .barArv { s := false, d := 29, b := 0 },
      .srd { s := false, d := 30, n := 0 }, .icmp { s := false, d := 0, a := 0, b := 0, x := false, y := false, n := false, r := 6 },
      .sadd { s := false, d := 0, a := 0, b := 32 }, .redux { s := false, d := 0, a := 0, o := 0, x := false, m := false }] : List Instr).map Instr.wf =
      List.replicate 14 false ++ [true] := by decide +kernel

/-- The same for the memory, time and engine words, the matrix stream and the spokes. -/
theorem test_ill_formed_memory :
    ([.ld { s := false, d := 1, a := 0, b := 0, w := 3, p := 0 }, .ld { s := false, d := 2, a := 0, b := 0, w := 4, p := 0 },
      .ld { s := false, d := 0, a := 0, b := 1, w := 2, p := 0 }, .ld { s := false, d := 0, a := 1, b := 31, w := 2, p := 0 },
      .ld { s := false, d := 0, a := 0, b := 0, w := 2, p := 3 }, .ld { s := false, d := 0, a := 0, b := 0, w := 5, p := 0 },
      .st { s := false, d := 0, a := 0, b := 0, w := 2, p := 2 }, .lds { s := false, d := 0, a := 0, b := 0, w := 2, k := true },
      .atom { s := false, d := 0, a := 0, b := 0, w := 4, f := 0, o := 0 }, .red { s := false, d := 0, a := 0, b := 0, w := 6, f := 0, o := 0 },
      .red { s := false, d := 0, a := 0, b := 0, w := 2, f := 0, o := 1 }, .atoms { s := false, d := 0, a := 0, b := 0, w := 3, f := 0, n := false },
      .time { s := false, d := 1 }, .locq { s := false, d := 0, a := 1 }, .cpTensor { s := false, h := 0, c := 0, l := 1 },
      .treeRel { s := false, d := 1, a := 0 }, .mbr { s := false, n := 6, c := 0, o := 0 }, .mst { s := false, t := 0, f := 0, r := 5, x := false, a := 0, b := 0, c := false }] :
      List Instr).map Instr.wf = List.replicate 18 false := by decide +kernel

/-- A compressed load of a register that no 16-bit encoding names, a reserved CSR, a shift by 64, an odd branch. -/
theorem test_ill_formed_spoke :
    Instr.wf (.spokeLoad { c := true, rd := 5, rs1 := 8, imm := 0, w := 2, u := false }) = false ∧
    Instr.wf (.spokeLoad { c := false, rd := 5, rs1 := 8, imm := 0, w := 3, u := true }) = false ∧
    Instr.wf (.spokeStore { c := true, rs1 := 8, rs2 := 9, imm := 2, w := 2 }) = false ∧
    Instr.wf (.spokeCsrRead { clear := false, rd := 1, csr := 0xC03 }) = false ∧
    Instr.wf (.spokeCpTensor { a := 1, b := 30 }) = false ∧
    Instr.wf (.spokeOtherInstruction false (.imm .slli 1 1 64)) = false ∧
    Instr.wf (.spokeOtherInstruction false (.branch .eq 1 2 1)) = false ∧
    Instr.wf (.spokeOtherInstruction true (.auipc 1 0)) = false := by decide +kernel

/-! ## Words written out from the encodings, which decode to what they stand for -/

/-- Words of the sequencer and the vector engine that the spec prints beside their mnemonics (R97, R101, R107, R113, R135 to R139, R147 to R164 and the listing of the command core's chapter). -/
theorem test_words_printed_warp :
    ([0x8A000120, 0x8A000160, 0x8C000001, 0x8C28000C, 0x8C300010, 0x0E084186, 0x0E004010, 0x90000000,
     0x90202001, 0x10002202, 0x9030428F, 0x90002283, 0x96008000, 0x96000001, 0x95300001, 0x14048008,
     0xFC200000, 0xFC300001, 0x98080000, 0x98490482, 0x98490008, 0x1C10828A, 0xA6102100, 0xA8204182,
     0xA8288013, 0xA830A01B, 0xBE209FFF, 0x2E40E184, 0x30206007] : List Word).map (fun w => decodeWarp false w 0 0) =
    [.regang { s := true, i := 1, t := false, c := 2 },
     .regang { s := true, i := 1, t := false, c := 6 },
     .split { s := true, w := 1 },
     .fuse { s := true, d := 5, w := 4 },
     .widthq { s := true, d := 6 },
     .por { s := false, d := 1, a := 2, b := 3, x := true, y := false },
     .deact { s := false, n := false, a := 2 },
     .barSync { s := true, b := 0 },
     .barArv { s := true, d := 4, b := 1 },
     .barWait { s := false, b := 1, a := 4 },
     .barFold { s := true, d := 6, b := 2, a := 5, o := 7 },
     .barCnt { s := true, b := 1, a := 5 },
     .trap { s := true, a := 4 },
     .tret { s := true },
     .srd { s := true, d := 6, n := 1 },
     .swr { s := false, a := 4, n := 8 },
     .l1wbinv { s := true, d := 4 },
     .xlflush { s := true, d := 6 },
     .add { s := true, d := 1, a := 0, b := 0, x := false, y := false },
     .mul { s := true, d := 9, a := 8, b := 9, x := false, y := false },
     .abs { s := true, d := 9, a := 8, x := false },
     .icmp { s := false, d := 2, a := 4, b := 5, x := false, y := false, n := true, r := 2 },
     .cvt { s := true, d := 2, a := 1, c := 0, e := 2, x := false, h := false, k := false },
     .nenc { s := true, d := 4, a := 2, b := 3, x := false, y := false, t := 2 },
     .pack { s := true, d := 5, a := 4, m := false, x := false, w := 3 },
     .unpack { s := true, d := 6, a := 5, m := false, x := false, w := 3 },
     .saddi { s := true, d := 4, a := 4, i := -1 },
     .matchAny { s := false, d := 8, a := 7, e := 3, x := false, m := false },
     .redux { s := false, d := 4, a := 3, x := false, m := false, o := 7 }] := by decide +kernel

/-- Words of the load-store, home, time, translation and matrix chapters that the spec prints beside their mnemonics (R170 to R187, R207, R227, R243, R264, R269, R270). -/
theorem test_words_printed_mem :
    ([0xC040C400, 0x44C28984, 0x4C495F48, 0xC4F2BF40, 0x4AF2A640, 0xCE000000, 0xCE000010, 0xCE28E452,
     0xD2200001, 0x5200C002, 0xD2414603, 0xD0200000, 0xD0008001, 0xD0300005, 0xD040C008, 0xD420C400,
     0xD420C401, 0xD428C002, 0x5440C003, 0xD6408001, 0xD848C003, 0xDA00A001] : List Word).map (fun w => decodeWarp false w 0 0) =
    [.ld { s := true, d := 8, a := 6, b := 4, w := 0, p := 0 },
     .sts { s := false, d := 24, a := 20, b := 9, w := 4 },
     .atoms { s := false, d := 9, a := 10, b := 31, w := 2, n := true, f := 0 },
     .lds { s := true, d := 30, a := 21, b := 31, w := 2, k := false },
     .red { s := false, d := 30, a := 21, b := 6, w := 2, o := 0, f := 0 },
     .fenceRel { s := true, c := 0 },
     .fenceRel { s := true, c := 2 },
     .ldAcq { s := true, d := 5, a := 7, b := 4, w := 0, c := 2 },
     .ctrdG { s := true, d := 4 },
     .ctjoin { s := false, a := 6 },
     .regmode { s := true, d := 8, a := 10, b := 12 },
     .time { s := true, d := 4 },
     .twait { s := true, a := 4 },
     .mteps { s := true, d := 6, c := 1 },
     .locq { s := true, d := 8, a := 6 },
     .geninc { s := true, d := 4, a := 6, b := 8 },
     .genwait { s := true, d := 4, a := 6, b := 8 },
     .genrd { s := true, d := 5, a := 6 },
     .xlat { s := false, d := 8, a := 6 },
     .qpop { s := true, d := 8, e := 4, t := true },
     .mtrd { s := true, d := 9, a := 6, x := false, t := 3 },
     .msig { s := true, k := 0, a := 5 }] := by decide +kernel

/-- Words of the transfer, lineage, task and collective chapters that the spec prints beside their mnemonics (R282, R290 to R295, R331 to R341, R352, R367 to R378, R409, R415). -/
theorem test_words_printed_eng :
    ([0xDC610600, 0xDC608601, 0xDE6106F0, 0xE0412000, 0xE0010001, 0xE0010002, 0x60510003, 0x60412084,
     0xE2010000, 0xE2010001, 0xE2510102, 0xE420A000, 0xE6102180, 0xE871A800, 0xE650C382, 0xE691A103,
     0xE4608083, 0xE8B02410, 0x68602411, 0xEA210001, 0xEA214002, 0xEA988007, 0xEA310485, 0xEC020000,
     0xEC600001, 0x6C00C382, 0xEE20C000, 0xEE48C004, 0x6E00C506] : List Word).map (fun w => decodeWarp false w 0 0) =
    [.cpTensor { s := true, h := 12, c := 8, l := 6 },
     .cpStore { s := true, h := 12, c := 4, l := 6 },
     .cpMcast { s := true, h := 12, c := 8, l := 6, m := 15 },
     .hbAcq { s := true, d := 8, a := 9 },
     .hbWait { s := true, a := 8 },
     .hbRel { s := true, a := 8 },
     .hbState { s := false, d := 10, a := 8 },
     .rgNext { s := false, d := 8, a := 9, c := true },
     .cpResume { s := true, a := 8 },
     .cpAbort { s := true, a := 8 },
     .cpFrec { s := true, d := 10, a := 8, k := 2 },
     .treeNew { s := true, d := 4, a := 5 },
     .nodeFork { s := true, d := 2, a := 1, b := 3 },
     .kvSlot { s := true, d := 14, a := 13, b := 16 },
     .nodeCommit { s := true, d := 10, a := 6, b := 7 },
     .nodeRd { s := true, d := 18, a := 13, k := 2 },
     .treeRd { s := true, d := 12, a := 4, k := 1 },
     .maskgen { s := true, d := 22, a := 1, b := 8 },
     .maskgenS { s := false, d := 12, a := 1, b := 8 },
     .tqPop { s := true, d := 4, a := 8 },
     .tqSteal { s := true, d := 4, a := 10 },
     .taskEnd { s := true, d := 19, a := 4 },
     .depDec { s := true, d := 6, a := 8, b := 9 },
     .bndMin { s := true, a := 16, k := 0 },
     .bndRd { s := true, d := 12, k := 0 },
     .bndSet { s := false, a := 6, k := 7 },
     .collAr { s := true, d := 4, a := 6 },
     .rldB32 { s := true, d := 9, a := 6 },
     .rstB32 { s := false, a := 6, b := 10 }] := by decide +kernel

/-- Words of the matrix stream that the spec prints beside their mnemonics (R252, R253, R257, R268, R272). -/
theorem test_words_printed_matrix :
    ([0x84ABFFFD, 0x82000000, 0x10A8A070, 0x8C000002, 0x89120010, 0x1C800000, 0x94816420, 0x9F500001,
     0x9A19A000, 0x96000001] : List Word).map (fun w => decodeMatrix w 0) =
    [.mbr { s := true, c := 5, n := 2, o := -3 },
     .mend { s := true },
     .mldA { s := false, x := true, k := 1, a := 4, b := 5, f := 14 },
     .msync { s := true, b := 0 },
     .maddi { s := true, d := 8, a := 9, i := 16 },
     .mspec { s := false, u := 4, t := 0, z := false },
     .mma { s := true, t := 4, k := 0, b := 11, g := 4, f := 4, z := false },
     .mresolveSig { s := true, d := 10, a := 8, k := 0 },
     .mst { s := true, t := 0, a := 12, b := 13, r := 0, x := false, f := 0, c := false },
     .mclrI { s := true, t := 0 }] := by decide +kernel

/-- Words of the spokes that the spec prints in its listing beside their mnemonics (R308 to R313). -/
theorem test_words_printed_spoke :
    ([0x0000228B, 0x0006900B, 0x0146800B, 0x0006180B, 0x0546000B, 0x0008002B, 0x0206100B, 0x10500073] : List Word).map (fun w => decodeSpoke w) =
    [.spokeRgNext { c := false, a := 0, d := 5 },
     .spokeHbAcq { a := 13, d := 0 },
     .spokeCpTensor { b := 20, a := 13 },
     .spokeHbAcq { a := 12, d := 16 },
     .spokeCpStore { b := 20, a := 12 },
     .spokeHbWait { a := 16 },
     .spokeHbRel { a := 12 },
     .spokeWfi] := by decide +kernel
/-- Words from NOP to BAR_PHQ, each assembled from the fixed bits and the fields that the opcode table gives its row (R39, R46, R308). -/
theorem test_words_warp_a :
    ([0x80000000, 0x001F9FD8, 0x82E0E3AA, 0x85E0ADFC, 0x875D5EDB, 0x88020000, 0x08000001, 0x08000002,
     0x08000003, 0x0A001BE0, 0x8C000003, 0x0CA80009, 0x8C200010, 0x0C200011, 0x8C600012, 0x8C900013,
     0x8E38A380, 0x0E08A185, 0x0E28E00A, 0x8E002010, 0x10018000, 0x9061C001, 0x10020C02, 0x10018403,
     0x90308004] : List Word).map (fun w => decodeWarp false w 0 0) =
    [.nop { s := true },
     .hint { s := false, p := 64766, k := 8 },
     .mode { s := true, g := false, t := true, m := true, x := true, p := 0, n := false, e := 7, r := 0, a := true, f := true, l := true, c := 21 },
     .bra { s := true, p := 7, n := true, u := false, o := 44540 },
     .call { s := true, p := 5, n := false, u := true, o := 876251 },
     .jmp { s := true, a := 16 },
     .callr { s := false, a := 0 },
     .ret { s := false },
     .exit { s := false },
     .regang { s := false, i := 27, t := true, c := 6 },
     .split { s := true, w := 3 },
     .fuse { s := false, d := 21, w := 1 },
     .widthq { s := true, d := 4 },
     .warpq { s := false, d := 4 },
     .splitq { s := true, d := 12 },
     .laneq { s := true, d := 18 },
     .pand { s := true, d := 7, a := 5, b := 7, x := false, y := false },
     .por { s := false, d := 1, a := 5, b := 3, x := false, y := true },
     .pxor { s := false, d := 5, a := 7, b := 0, x := true, y := false },
     .deact { s := true, n := false, a := 1 },
     .barSync { s := false, b := 12 },
     .barArv { s := true, d := 12, b := 14 },
     .barWait { s := false, b := 16, a := 24 },
     .barCnt { s := false, b := 12, a := 8 },
     .barPhq { s := true, d := 6, b := 4 }] := by decide +kernel

/-- Words from BAR_FOLD to CLZ, each assembled from the fixed bits and the fields that the opcode table gives its row (R39, R46, R308). -/
theorem test_words_warp_b :
    ([0x9071000C, 0x156000F4, 0x1406E6FE, 0x956C9D88, 0x96012000, 0x16000001, 0x98BFCAA0, 0x18174C21,
     0x984CF602, 0x18D9F3C3, 0x18E92224, 0x9964BF25, 0x18EF6AA6, 0x99DE1827, 0x18C90048, 0x99750049,
     0x1B6DCEC0, 0x1AE01C81, 0x9AF31122, 0x1B92A503, 0x1A5D4044, 0x9A8ACD85, 0x1B3C3B46, 0x9A65E047,
     0x9B42E048] : List Word).map (fun w => decodeWarp false w 0 0) =
    [.barFold { s := true, d := 14, b := 8, a := 0, o := 4 },
     .srd { s := false, d := 12, n := 244 },
     .swr { s := false, a := 23, n := 1790 },
     .sxch { s := true, d := 13, a := 4, n := 7560 },
     .trap { s := true, a := 9 },
     .tret { s := false },
     .add { s := true, d := 23, a := 62, b := 21, x := false, y := true },
     .sub { s := false, d := 2, a := 58, b := 24, x := false, y := true },
     .mul { s := true, d := 9, a := 39, b := 44, x := false, y := false },
     .mulhi { s := false, d := 27, a := 15, b := 39, x := true, y := false },
     .min { s := false, d := 29, a := 9, b := 4, x := false, y := true },
     .max { s := true, d := 44, a := 37, b := 62, x := false, y := true },
     .absdiff { s := false, d := 29, a := 59, b := 21, x := false, y := true },
     .mad { s := true, d := 59, a := 48, b := 48, x := false, y := true },
     .abs { s := false, d := 25, a := 8, x := true },
     .neg { s := true, d := 46, a := 40, x := true },
     .and { s := false, d := 45, a := 46, b := 29, x := true, y := false },
     .or { s := false, d := 28, a := 0, b := 57, x := false, y := false },
     .xor { s := true, d := 30, a := 24, b := 34, x := false, y := true },
     .andn { s := false, d := 50, a := 21, b := 10, x := false, y := false },
     .not { s := false, d := 11, a := 42, x := true },
     .shl { s := true, d := 17, a := 22, b := 27, x := false, y := false },
     .shr { s := false, d := 39, a := 33, b := 54, x := true, y := false },
     .popc { s := true, d := 12, a := 47, x := true },
     .clz { s := true, d := 40, a := 23, x := true }] := by decide +kernel

/-- Words from BITREV to COS, each assembled from the fixed bits and the fields that the opcode table gives its row (R39, R46, R308). -/
theorem test_words_warp_c :
    ([0x9BFBA009, 0x1A2A620A, 0x9B2AB70B, 0x1C1BBC05, 0x9E263FC7, 0x1FC76050, 0x208A0FC0, 0xA0989461,
     0xA0CD1AC2, 0xA0C9F363, 0x20783744, 0xA1B71525, 0xA125E046, 0x20FEE007, 0x222B3B00, 0xA34CEC21,
     0x234020C2, 0xA2198663, 0xA4334040, 0xA587C041, 0xA4AC8042, 0xA4234043, 0xA5066044, 0xA4164005,
     0x246BE046] : List Word).map (fun w => decodeWarp false w 0 0) =
    [.bitrev { s := true, d := 63, a := 29, x := false },
     .fext { s := false, d := 5, a := 19, b := 4, x := false, y := false },
     .fins { s := true, d := 37, a := 21, b := 46, x := false, y := false },
     .icmp { s := false, d := 3, a := 29, b := 56, x := false, y := false, n := false, r := 5 },
     .fcmp { s := true, d := 4, a := 49, b := 63, x := true, y := false, n := false, r := 7 },
     .fclass { s := false, d := 56, a := 59, x := true },
     .fadd { s := false, d := 17, a := 16, b := 31, x := true, y := false },
     .fsub { s := true, d := 19, a := 4, b := 40, x := true, y := true },
     .fmul { s := true, d := 25, a := 40, b := 53, x := true, y := false },
     .fdiv { s := true, d := 25, a := 15, b := 38, x := true, y := true },
     .fmin { s := false, d := 15, a := 1, b := 46, x := true, y := false },
     .fmax { s := true, d := 54, a := 56, b := 42, x := false, y := true },
     .fabs { s := true, d := 36, a := 47, x := true },
     .fneg { s := false, d := 31, a := 55, x := false },
     .ffma { s := false, d := 5, a := 25, b := 54, x := false, y := false },
     .ffms { s := true, d := 41, a := 39, b := 24, x := false, y := true },
     .ffnma { s := false, d := 40, a := 1, b := 1, x := true, y := false },
     .ffnms { s := true, d := 3, a := 12, b := 12, x := true, y := true },
     .rcp { s := true, d := 6, a := 26, x := true },
     .rsq { s := true, d := 48, a := 62, x := true },
     .sqrt { s := true, d := 21, a := 36, x := true },
     .ex2 { s := true, d := 4, a := 26, x := true },
     .lg2 { s := true, d := 32, a := 51, x := true },
     .sin { s := true, d := 2, a := 50, x := false },
     .cos { s := false, d := 13, a := 31, x := true }] := by decide +kernel

/-- Words from TANH to SCAN, each assembled from the fixed bits and the fields that the opcode table gives its row (R39, R46, R308). -/
theorem test_words_warp_d :
    ([0x24F14047, 0xA7D53540, 0xA927F4C5, 0xA9A0AE48, 0xA90D2052, 0x28E32018, 0xAB03E244, 0xAA70C008,
     0x2B98C009, 0xAAC3004A, 0xAD25C040, 0x2D1D6041, 0xAD264012, 0xAD1C9AA3, 0xAD04E514, 0xAD8A2875,
     0xAC968B96, 0xACA58907, 0x2E182000, 0xAE10E001, 0xAE188002, 0xAE40C013, 0xAE8140C4, 0x317D4005,
     0x30DB205D] : List Word).map (fun w => decodeWarp false w 0 0) =
    [.tanh { s := false, d := 30, a := 10, x := true },
     .cvt { s := true, d := 58, a := 41, c := 5, e := 2, x := true, h := false, k := false },
     .nenc { s := true, d := 36, a := 63, b := 41, x := true, y := false, t := 5 },
     .ndec { s := true, d := 52, a := 5, b := 28, x := true, y := false, t := 0 },
     .pack { s := true, d := 33, a := 41, m := false, x := true, w := 2 },
     .unpack { s := false, d := 28, a := 25, m := false, x := false, w := 0 },
     .sel { s := true, d := 32, a := 31, b := 4, x := true, y := false, p := 4 },
     .mov { s := true, d := 14, a := 6, x := false },
     .movs { s := false, d := 51, a := 6 },
     .rdlane { s := true, d := 24, a := 24, x := true },
     .qxchX1 { s := true, d := 36, a := 46, x := true, m := false },
     .qxchX2 { s := false, d := 35, a := 43, x := true, m := false },
     .qxchX3 { s := true, d := 36, a := 50, x := false, m := true },
     .qxch { s := true, d := 35, a := 36, b := 53, x := false, y := true, m := false },
     .shflFrom { s := true, d := 32, a := 39, b := 10, x := false, y := false, m := true },
     .shflBack { s := true, d := 49, a := 17, b := 16, x := true, y := true, m := true },
     .shflAhead { s := true, d := 18, a := 52, b := 23, x := false, y := false, m := true },
     .shflFlip { s := true, d := 20, a := 44, b := 18, x := false, y := false, m := false },
     .voteAnd { s := false, d := 3, a := 1, m := false },
     .voteOr { s := true, d := 2, a := 7, m := false },
     .voteSame { s := true, d := 3, a := 4, m := false },
     .ballot { s := true, d := 8, a := 6, m := true },
     .matchAny { s := true, d := 16, a := 10, e := 1, x := true, m := false },
     .redux { s := false, d := 47, a := 42, x := false, m := false, o := 5 },
     .scan { s := false, d := 27, a := 25, x := true, m := true, o := 5 }] := by decide +kernel

/-- Words from SADD to LD, each assembled from the fixed bits and the fields that the opcode table gives its row (R39, R46, R308). -/
theorem test_words_warp_e :
    ([0xB2AA2200, 0xB28AE601, 0xB2DA6C02, 0x323AA403, 0x321B0004, 0xB2DAC805, 0x32CA0806, 0xB25A0187,
     0x32394F08, 0x32218609, 0xB2A0E88A, 0x327AC88B, 0x3260688C, 0x3272498D, 0x3282480E, 0xB229A10F,
     0xB2018990, 0xB2D96911, 0x3529D9B1, 0x364653B5, 0x39D84BBA, 0xBB3C53D4, 0x3DE005AE, 0xBE2BF043,
     0x40D24400] : List Word).map (fun w => decodeWarp false w 0 0) =
    [.sadd { s := true, d := 21, a := 17, b := 4 },
     .ssub { s := true, d := 17, a := 23, b := 12 },
     .smul { s := true, d := 27, a := 19, b := 24 },
     .smulhu { s := false, d := 7, a := 21, b := 8 },
     .smulhs { s := false, d := 3, a := 24, b := 0 },
     .sand { s := true, d := 27, a := 22, b := 16 },
     .sor { s := false, d := 25, a := 16, b := 16 },
     .sxor { s := true, d := 11, a := 16, b := 3 },
     .sshl { s := false, d := 7, a := 10, b := 30 },
     .sshr { s := false, d := 4, a := 12, b := 12 },
     .ssra { s := true, d := 20, a := 7, b := 17 },
     .sminu { s := false, d := 15, a := 22, b := 17 },
     .smaxu { s := false, d := 12, a := 3, b := 17 },
     .smins { s := false, d := 14, a := 18, b := 19 },
     .smaxs { s := false, d := 16, a := 18, b := 16 },
     .sseq { s := true, d := 5, a := 13, b := 2 },
     .ssltu { s := true, d := 0, a := 12, b := 19 },
     .sslts { s := true, d := 27, a := 11, b := 18 },
     .addi { s := false, d := 37, a := 14, i := 6577 },
     .andi { s := false, d := 8, a := 50, i := 5045 },
     .ori { s := false, d := 59, a := 2, i := 3002 },
     .xori { s := true, d := 39, a := 34, i := 5076 },
     .movi { s := false, d := 60, i := 1454 },
     .saddi { s := true, d := 5, a := 31, i := 4163 },
     .ld { s := false, d := 26, a := 18, b := 4, w := 0, p := 0 }] := by decide +kernel

/-- Words from LD_S to CC_INV, each assembled from the fixed bits and the fields that the opcode table gives its row (R39, R46, R308). -/
theorem test_words_warp_f :
    ([0x41CF0411, 0x40382C2A, 0xC147102B, 0x41C25A14, 0xC1C4FE0D, 0xC2049660, 0x43640421, 0xC282F622,
     0x4390820B, 0x42279004, 0xC53D0F20, 0x45695122, 0x45B34123, 0xC5A18C24, 0xC4642E25, 0x45910E26,
     0x46C58440, 0x49279444, 0xCB7A9ED2, 0x4C25C240, 0xCE000000, 0xCE000019, 0xCFE70A4A, 0xCE062403,
     0xCE03EE04] : List Word).map (fun w => decodeWarp false w 0 0) =
    [.ldS { s := false, d := 57, a := 56, b := 4, w := 0, p := 2 },
     .ldF16 { s := false, d := 7, a := 1, b := 12, p := 1 },
     .ldBf16 { s := true, d := 40, a := 56, b := 16, p := 1 },
     .ldE4m3 { s := false, d := 56, a := 18, b := 26, p := 2 },
     .ldE5m2 { s := true, d := 56, a := 39, b := 30, p := 1 },
     .st { s := true, d := 0, a := 36, b := 22, w := 3, p := 0 },
     .stF16 { s := false, d := 44, a := 32, b := 4, p := 0 },
     .stBf16 { s := true, d := 16, a := 23, b := 22, p := 0 },
     .stE4m3 { s := false, d := 50, a := 4, b := 2, p := 1 },
     .stE5m2 { s := false, d := 4, a := 60, b := 16, p := 0 },
     .lds { s := true, d := 39, a := 40, b := 15, w := 1, k := false },
     .ldsF16 { s := false, d := 45, a := 10, b := 17 },
     .ldsBf16 { s := false, d := 54, a := 26, b := 1 },
     .sts { s := true, d := 52, a := 12, b := 12, w := 1 },
     .stsF16 { s := true, d := 12, a := 33, b := 14 },
     .stsBf16 { s := false, d := 50, a := 8, b := 14 },
     .ldc { s := false, d := 24, a := 44, b := 4, w := 2, k := false },
     .atom { s := false, d := 36, a := 60, b := 20, w := 2, o := 0, f := 4 },
     .red { s := true, d := 47, a := 20, b := 30, w := 6, o := 2, f := 2 },
     .atoms { s := false, d := 4, a := 46, b := 2, w := 2, n := false, f := 0 },
     .fenceRel { s := true, c := 0 },
     .fenceAcq { s := true, c := 3 },
     .ldAcq { s := true, d := 60, a := 56, b := 10, w := 0, c := 1 },
     .ccWb { s := true, a := 49, b := 4 },
     .ccInv { s := true, a := 31, b := 14 }] := by decide +kernel

/-- Words from CC_WBINV to CP_GATHER, each assembled from the fixed bits and the fields that the opcode table gives its row (R39, R46, R308). -/
theorem test_words_warp_g :
    ([0x4E061405, 0x4E052406, 0x50200000, 0xD000C001, 0xD0600007, 0xD1890008, 0xD0300009, 0xD2500000,
     0xD2300001, 0x52018002, 0xD2530B03, 0x54428D00, 0x54200381, 0xD4310002, 0x55E00003, 0xD7080001,
     0x5806E00D, 0xD95CC05B, 0x5A59A000, 0x5A18E001, 0x5AD80002, 0xDC739A00, 0x5C6E6E08, 0xDD0F2A01,
     0xDD400C02] : List Word).map (fun w => decodeWarp false w 0 0) =
    [.ccWbinv { s := false, a := 48, b := 20 },
     .pf { s := false, a := 41, b := 4 },
     .time { s := false, d := 4 },
     .twait { s := true, a := 6 },
     .mteps { s := true, d := 12, c := 3 },
     .locq { s := true, d := 49, a := 8 },
     .locqSelf { s := true, d := 6 },
     .ctrdL { s := true, d := 10 },
     .ctrdG { s := true, d := 6 },
     .ctjoin { s := false, a := 12 },
     .regmode { s := true, d := 10, a := 24, b := 22 },
     .geninc { s := false, d := 8, a := 20, b := 26 },
     .genwait { s := false, d := 4, a := 0, b := 7 },
     .genrd { s := true, d := 6, a := 8 },
     .xlat { s := false, d := 60, a := 0 },
     .qpop { s := true, d := 33, e := 0, t := true },
     .mtrd { s := false, d := 0, a := 55, x := false, t := 13 },
     .mtwr { s := true, d := 43, a := 38, x := true, t := 11 },
     .tilestat { s := false, d := 11, t := 13 },
     .msig { s := false, k := 3, a := 7 },
     .mqcnt { s := false, d := 27 },
     .cpTensor { s := true, h := 14, c := 28, l := 26 },
     .cpTensorW { s := false, h := 13, c := 51, l := 14 },
     .cpStore { s := true, h := 33, c := 57, l := 10 },
     .cpGather { s := true, h := 40, c := 0, l := 12 }] := by decide +kernel

/-- Words from CP_MCAST to TQ_STEAL, each assembled from the fixed bits and the fields that the opcode table gives its row (R39, R46, R308). -/
theorem test_words_warp_h :
    ([0xDF2E08F0, 0xE08B6000, 0xE0024001, 0x60020002, 0x60214003, 0x60630084, 0x62014000, 0xE2030001,
     0x62A3C002, 0x642B4000, 0x640B8001, 0x6451E002, 0x6402C003, 0xE63F7200, 0xE611A001, 0x66C18202,
     0xE76FA703, 0x66006F04, 0x68F38400, 0x68886D01, 0xE9AAAB90, 0xE8168E11, 0xEA814700, 0xEA628001,
     0x6A828002] : List Word).map (fun w => decodeWarp false w 0 0) =
    [.cpMcast { s := true, h := 37, c := 48, l := 8, m := 15 },
     .hbAcq { s := true, d := 17, a := 27 },
     .hbWait { s := true, a := 18 },
     .hbRel { s := false, a := 16 },
     .hbState { s := false, d := 4, a := 10 },
     .rgNext { s := false, d := 12, a := 24, c := true },
     .cpResume { s := false, a := 10 },
     .cpAbort { s := true, a := 24 },
     .cpFrec { s := false, d := 20, a := 30, k := 0 },
     .treeNew { s := false, d := 5, a := 26 },
     .treeClone { s := false, d := 1, a := 28 },
     .treeRel { s := false, d := 10, a := 15 },
     .treeRd { s := false, d := 0, a := 22, k := 0 },
     .nodeFork { s := true, d := 7, a := 59, b := 36 },
     .nodePrune { s := true, d := 2, a := 13 },
     .nodeCommit { s := false, d := 24, a := 12, b := 4 },
     .nodeRd { s := true, d := 45, a := 61, k := 14 },
     .nodePay { s := false, a := 3, b := 30 },
     .kvSlot { s := false, d := 30, a := 28, b := 8 },
     .kvAppend { s := false, d := 17, a := 3, b := 26 },
     .maskgen { s := true, d := 53, a := 21, b := 23 },
     .maskgenS { s := true, d := 2, a := 52, b := 28 },
     .tqPush { s := true, d := 16, a := 10, b := 14 },
     .tqPop { s := true, d := 12, a := 20 },
     .tqSteal { s := false, d := 16, a := 20 }] := by decide +kernel

/-- Words from PQ_INS to XLFLUSH, each assembled from the fixed bits and the fields that the opcode table gives its row (R39, R46, R308). -/
theorem test_words_warp_i :
    ([0x6AA80E03, 0xEA000A04, 0x6A11CC85, 0x6A024006, 0xEA430007, 0x6C028280, 0x6CC00381, 0x6C038102,
     0x6E728000, 0x6E7A8001, 0xEE4B8002, 0xEF814004, 0xEFE3C005, 0x6E068806, 0x6E045707, 0x7CD00000,
     0xFCC00001] : List Word).map (fun w => decodeWarp false w 0 0) =
    [.pqIns { s := false, d := 21, a := 0, b := 28 },
     .pqMin { s := true, d := 0, b := 20 },
     .depDec { s := false, d := 2, a := 14, b := 25 },
     .depWait { s := false, a := 18 },
     .taskEnd { s := true, d := 8, a := 24 },
     .bndMin { s := false, a := 20, k := 5 },
     .bndRd { s := false, d := 24, k := 7 },
     .bndSet { s := false, a := 28, k := 2 },
     .collAr { s := false, d := 14, a := 20 },
     .collAg { s := false, d := 15, a := 20 },
     .collRs { s := true, d := 9, a := 28 },
     .rldB32 { s := true, d := 48, a := 10 },
     .rldB64 { s := true, d := 60, a := 30 },
     .rstB32 { s := false, a := 52, b := 16 },
     .rstB64 { s := false, a := 34, b := 46 },
     .l1wbinv { s := false, d := 26 },
     .xlflush { s := true, d := 24 }] := by decide +kernel

/-- Words from MNOP to MHWAIT, each assembled from the fixed bits and the fields that the opcode table gives its row (R39, R46, R308). -/
theorem test_words_matrix_a :
    ([0x80000000, 0x81C2A5FB, 0x02000000, 0x050DA304, 0x0684A000, 0x87774001, 0x0721C002, 0x861DA003,
     0x8786E004, 0x06144005, 0x87A36006, 0x87D10007, 0x06070008, 0x07966009, 0x071B800A, 0x060CA00B,
     0x0633A00C, 0x86A0200D, 0x07F6000E, 0x087116DF, 0x0AA5EEB3, 0x8C61C000, 0x8C150001, 0x0C002002,
     0x8E020000] : List Word).map (fun w => decodeMatrix w 0) =
    [.mnop { s := true },
     .mhint { s := true, p := 922927, k := 11 },
     .mend { s := false },
     .mbr { s := false, c := 8, n := 3, o := 107268 },
     .madd { s := false, d := 4, a := 2, b := 5 },
     .msub { s := true, d := 11, a := 11, b := 10 },
     .mmul { s := false, d := 9, a := 0, b := 14 },
     .mand { s := true, d := 0, a := 14, b := 13 },
     .mor { s := true, d := 12, a := 3, b := 7 },
     .mxor { s := false, d := 0, a := 10, b := 2 },
     .mshl { s := true, d := 13, a := 1, b := 11 },
     .mshr { s := true, d := 14, a := 8, b := 8 },
     .msra { s := false, d := 0, a := 3, b := 8 },
     .mminu { s := false, d := 12, a := 11, b := 3 },
     .mmaxu { s := false, d := 8, a := 13, b := 12 },
     .mseq { s := false, d := 0, a := 6, b := 5 },
     .msltu { s := false, d := 1, a := 9, b := 13 },
     .mslts { s := true, d := 5, a := 0, b := 1 },
     .mmov { s := false, d := 15, a := 11 },
     .maddi { s := false, d := 3, a := 8, i := 71391 },
     .mldg { s := false, d := 5, a := 2, i := 126643 },
     .marv { s := true, d := 3, b := 14 },
     .mwait { s := true, a := 10, b := 8 },
     .msync { s := false, b := 1 },
     .mhwait { s := true, a := 1 }] := by decide +kernel

/-- Words from MHREL to MCOMMIT, each assembled from the fixed bits and the fields that the opcode table gives its row (R39, R46, R308). -/
theorem test_words_matrix_b :
    ([0x8E180001, 0x10D74080, 0x1213A000, 0x14C4D421, 0x96800000, 0x96A00001, 0x17BA0002, 0x98C96001,
     0x9B34C488, 0x9C360000, 0x9F5EA000, 0x9F324001, 0xA1C40000] : List Word).map (fun w => decodeMatrix w 0) =
    [.mhrel { s := true, a := 12 },
     .mldA { s := false, x := true, k := 2, a := 11, b := 10, f := 16 },
     .mldB { s := false, a := 9, b := 13 },
     .mma { s := false, t := 6, k := 2, b := 6, g := 20, f := 4, z := true },
     .mclr { s := true, t := 4 },
     .mclrI { s := true, t := 5 },
     .mstat { s := false, t := 13, d := 13 },
     .mpush { s := true, t := 6, a := 4, b := 11, c := true },
     .mst { s := true, t := 9, a := 10, b := 6, r := 1, x := false, f := 17, c := false },
     .mspec { s := true, u := 1, t := 11, z := false },
     .mresolve { s := true, d := 10, a := 15, b := 5 },
     .mresolveSig { s := true, d := 9, a := 9, k := 2 },
     .mcommit { s := true, t := 14, a := 2 }] := by decide +kernel

/-- Words from SPOKE_CP_TENSOR to SPOKE_WFI, each assembled from the fixed bits and the fields that the opcode table gives its row (R39, R46, R308). -/
theorem test_words_spoke_a :
    ([0x017B800B, 0x02D1800B, 0x050B800B, 0x06E4800B, 0x08D0000B, 0x00001D8B, 0x0203100B, 0x040D170B,
     0x060D100B, 0x080F100B, 0x0BD51A0B, 0x000EAC8B, 0x0031AD0B, 0x0000378B, 0x00103B0B, 0x00203B0B,
     0x000E002B, 0x00041BAB, 0x0207102B, 0x0407902B, 0x10500073] : List Word).map (fun w => decodeSpoke w) =
    [.spokeCpTensor { b := 23, a := 23 },
     .spokeCpTensorW { b := 13, a := 3 },
     .spokeCpStore { b := 16, a := 23 },
     .spokeCpGather { b := 14, a := 9 },
     .spokeCpMcast { b := 13, a := 0 },
     .spokeHbAcq { a := 0, d := 27 },
     .spokeHbRel { a := 6 },
     .spokeHbState { a := 26, d := 14 },
     .spokeCpResume { a := 26 },
     .spokeCpAbort { a := 30 },
     .spokeCpFrec { b := 29, a := 10, d := 20 },
     .spokeRgNext { c := false, a := 29, d := 25 },
     .spokeRgPeek { c := true, a := 3, d := 26 },
     .spokeRdmt { d := 15 },
     .spokeRdeps { d := 22 },
     .spokeRdctx { d := 22 },
     .spokeHbWait { a := 28 },
     .spokeSbarArv { a := 8, d := 23 },
     .spokeSbarWait { b := 0, a := 14 },
     .spokeSbarSync { a := 15 },
     .spokeWfi] := by decide +kernel
/-- The 32-bit encodings of the RISC-V base and its extensions (R47), field by field from their formats: lw x5, 8(x2); lbu x6, -1(x7);
sd x10, -8(x2); amoadd.w.aqrl x5, x6, (x7); lr.d x5, (x7); sc.d x5, x6, (x7); fence rw, rw; fence.i; rdcycle x5; ecall; ebreak. -/
theorem test_words_riscv :
    ([0x00812283, 0xFFF3C303, 0xFEA13C23, 0x0663A2AF, 0x1003B2AF, 0x1863B2AF, 0x0330000F, 0x0000100F, 0xC00022F3, 0x00000073, 0x00100073] :
      List Word).map decodeSpoke =
    [.spokeLoad { c := false, rd := 5, rs1 := 2, imm := 8, w := 2, u := false },
     .spokeLoad { c := false, rd := 6, rs1 := 7, imm := 0xFFF, w := 0, u := true },
     .spokeStore { c := false, rs1 := 2, rs2 := 10, imm := 0xFF8, w := 3 },
     .spokeAmo { op := .add, rd := 5, rs1 := 7, rs2 := 6, aq := true, rl := true, dbl := false },
     .spokeLr { rd := 5, rs1 := 7, aq := false, rl := false, dbl := true },
     .spokeSc { rd := 5, rs1 := 7, rs2 := 6, aq := false, rl := false, dbl := true },
     .spokeFence { fm := 0, pred := 3, succ := 3, rs1 := 0, rd := 0 }, .spokeFenceI,
     .spokeCsrRead { clear := false, rd := 5, csr := 0xC00 }, .spokeEcall, .spokeEbreak false] := by decide +kernel

/-- mul x5, x6, x7; sh1add x5, x6, x7; clz x5, x6; jal x1, 2048; beq x1, x2, -4; srai x5, x6, 63; lui x5, 0xABCDE; divuw x5, x6, x7;
add.uw x5, x6, x7. -/
theorem test_words_riscv_other :
    ([0x027302B3, 0x207322B3, 0x60031293, 0x001000EF, 0xFE208EE3, 0x43F35293, 0xABCDE2B7, 0x027352BB, 0x087302BB] : List Word).map decodeSpoke =
    [.spokeOtherInstruction false (.reg .mul 5 6 7), .spokeOtherInstruction false (.reg .sh1add 5 6 7), .spokeOtherInstruction false (.un .clz 5 6),
     .spokeOtherInstruction false (.jal 1 2048), .spokeOtherInstruction false (.branch .eq 1 2 0x1FFC),
     .spokeOtherInstruction false (.imm .srai 5 6 63), .spokeOtherInstruction false (.lui 5 0xABCDE),
     .spokeOtherInstruction false (.reg .divuw 5 6 7), .spokeOtherInstruction false (.reg .addUw 5 6 7)] := by decide +kernel

/-- The 16-bit encodings: c.addi x10, -1; c.lwsp x10, 4(x2); c.sdsp x10, 8(x2); c.j -2; c.ebreak; c.mv x10, x11; c.nop. -/
theorem test_words_compressed :
    ([0x157D, 0x4512, 0xE42A, 0xBFFD, 0x9002, 0x852E, 0x0001] : List Word).map decodeSpoke =
    [.spokeOtherInstruction true (.imm .addi 10 10 0xFFF), .spokeLoad { c := true, rd := 10, rs1 := 2, imm := 4, w := 2, u := false },
     .spokeStore { c := true, rs1 := 2, rs2 := 10, imm := 8, w := 3 }, .spokeOtherInstruction true (.jal 0 0x1FFFFE), .spokeEbreak true,
     .spokeOtherInstruction true (.reg .add 10 0 11), .spokeOtherInstruction true (.imm .addi 0 0 0)] := by decide +kernel

/-- LIMM takes the word after it (R34), SAFE the two words after it (R122), MLIMM the word after it (R252). -/
theorem test_words_long :
    decodeWarp false 0x7E000000#32 0x12345678#32 0 = .limm 0x12345678#32 ∧
    decodeWarp false 0x92000000#32 0x00000007#32 0#32 = .safe true 0x00000007#32 0#32 := by decide +kernel

/-- Two bytes are no warp word; a word with a reserved major is refused by its name in each stream. -/
theorem test_words_refused :
    (decode .warp false [0, 0]).toOption = none ∧ decodeWarp false 0x70000000#32 0 0 = .reservedEncoding 0x70000000#32 ∧
    (decodeMatrix 0xFFFFFFFF#32 0).isReserved = true ∧ decodeSpoke 0 = .spokeIllegalInstruction 0 ∧
    decodeTableWord 32 0 = some (.nop { s := false }) := by decide +kernel

/-! ## A small machine -/

/-- A workgroup of one warp of 32 lanes on core 0, with every role: 64 registers, all at 5; v10 counts by 4; predicates p1, p2 and p5 (lane 0); scalars; 256 bytes of scratchpad. -/
def wg1 : Wg :=
  { phase := .running, matrix := true, load := true, store := true, tiles := 16, prv := true, slot := some 0, nbar := 16, bars := {} :: List.replicate 16 { trk := false, exp := 2 }
    scratchSize := 256, bound := true, cwin := 0x2000, cwsize := 4096, tvec := 0x4000, save := 0x8000
    entries := List.replicate 4 { size := 4096 }, rings := [{ stages := 2, first := 0 }]
    seq := { phase := .ready, pc := 0x1000 }, lspoke := { phase := .ready, pc := 0x10 }, sspoke := { phase := .ready, pc := 0x10 } }

/-- Its split: every lane active, privileged, at 0x1000. -/
def split1 : Split :=
  { live := true, quads := 0xFF, pc := 0x1000, prv := true
    s := [4, 0, 0x10000, 0, 7, 0, 0x2000, 0, 0, 0, 0x2000, 0] ++ List.replicate 16 0 ++ [0xFFFFFFFF, 0, 0, 0] }

/-- The device after its start: eight dies that know the time, 1 ms after it began; the first gigabyte of each root 0 is one page of die 0. -/
def s1 : State :=
  { State.reset with
    dies := List.replicate 8 { now := 16000000, unsync := false, hunsync := false, linkUp := 15, lEn := true, lCopy := 255, fabEn := true
                               ports := List.replicate 4 { up := true, lanes := 8 } }
    cores := { xlat := [{ root := 0, rgen := 0, va := 0, leaf := { lg := 30, u := true, x := true, w := true }, time := 16000000 }] } :: List.replicate 127 {}
    wgs := [wg1], warps := [{ live := true, v := (List.replicate 64 (.uniform (.val 4))).set 10 (.affine 0 4), p := [0, 0xF, 0xFF, 0, 0, 1] }], splits := [split1]
    launches := [{ live := true, next := 1 }], dev := { start := none, st := 1 } }

/-- Registers are ready where a scan of them says so. -/
theorem ready {s : State} {rs : List Nat} (h : rs.all (fun r => Nat.blt r (s.wgOf s.who.split).alloc &&
    !(s.warpOf s.who.split).absent.getLsbD (r / 8)) = true) : RegsReady s rs := fun r hr => by
  have := List.all_eq_true.mp h r hr
  simp only [Bool.and_eq_true, Nat.blt_eq, Bool.not_eq_true'] at this
  exact this

/-- What holds in the 128 lanes of a mask holds in every lane of it. -/
theorem lanes {m : Mask} {P : Nat → Prop} (h : ∀ l, l < 128 → m.getLsbD l = true → P l) : ∀ l, m.getLsbD l = true → P l := fun l hl => by
  rcases Nat.lt_or_ge l 128 with hb | hb
  · exact h l hb hl
  · rw [BitVec.getLsbD_of_ge m l hb] at hl; cases hl

/-- A pair whose second part is known. -/
theorem snd {α β : Type} {p : α × β} {b : β} (h : p.2 = b) : ∃ a, p = (a, b) := ⟨p.1, by rw [← h]⟩

/-- An operation on a handle that answers. -/
theorem answers {r : HRes} (h : (match r with | .ok _ _ => true | _ => false) = true) : ∃ t v, r = .ok t v := by
  cases r with
  | ok t v => exact ⟨t, v, rfl⟩
  | trap _ _ => cases h
  | wait _ => cases h

/-- What is there and has a property. -/
theorem found {α : Type} {o : Option α} {p : α → Bool} (h : o.any p = true) : ∃ c, o = some c ∧ p c = true := by
  cases o with
  | some c => exact ⟨c, rfl, h⟩
  | none => cases h

/-- What the engine does with a command: it ends it, does one row, or meets a cause. -/
def perfKind : Perf → Nat
  | .fin _ => 0
  | .row _ => 1
  | .trap _ _ _ => 2
  | .later _ => 3

theorem perfs {p : Perf} : (perfKind p = 0 → ∃ t, p = .fin t) ∧ (perfKind p = 1 → ∃ t, p = .row t) ∧ (perfKind p = 2 → ∃ k v t, p = .trap k v t) := by
  cases p <;> refine ⟨fun h => ?_, fun h => ?_, fun h => ?_⟩ <;> first | exact ⟨_, rfl⟩ | exact ⟨_, _, _, rfl⟩ | cases h

/-- An answer that may be sent. -/
theorem replied {q : State × Option EngReply} {d : Nat} (h : q.2.any (fun p => Nat.ble p.ready (q.1.nowDie d)) = true) :
    ∃ t p, q = (t, some p) ∧ p.ready ≤ t.nowDie d := by
  obtain ⟨t, o⟩ := q
  cases o with
  | some p => exact ⟨t, p, rfl, Nat.le_of_ble_eq_true h⟩
  | none => cases h

/-- A request that has been performed. -/
theorem performed {α β : Type} {q : α × Option β} (h : q.2.isSome = true) : ∃ t p, q = (t, some p) := by
  obtain ⟨t, o⟩ := q
  cases o with
  | some p => exact ⟨t, p, rfl⟩
  | none => cases h

/-- An access that is answered. -/
theorem got {α β : Type} {q : α × Got β} (h : (match q.2 with | .ok _ => true | _ => false) = true) : ∃ t v, q = (t, .ok v) := by
  obtain ⟨t, g⟩ := q
  cases g with
  | ok v => exact ⟨t, v, rfl⟩
  | bad _ => cases h
  | later => cases h


/-- An access that fails. -/
theorem refused {α β : Type} {q : α × Got β} (h : (match q.2 with | .bad _ => true | _ => false) = true) : ∃ t v, q = (t, .bad v) := by
  obtain ⟨t, g⟩ := q
  cases g with
  | bad v => exact ⟨t, v, rfl⟩
  | ok _ => cases h
  | later => cases h

/-! ## Witnesses: the hypotheses of each statement hold together -/

def addW : V3 := { s := true, d := 3, a := 1, b := 2, x := true, y := false }

/-- LaneResults: ADD of int32 with a last use, and under MR.PX with every trap enabled. -/
theorem witness_lane_results :
    (∃ o, laneWord (.add addW) = some o ∧ RegsReady s1 (o.regs s1 0) ∧ o.accepts (mrET s1.me.mr) = true ∧
      (∀ l, s1.lanes.getLsbD l = true → (mrPX s1.me.mr = true → ∀ r ∈ o.ops s1 0, (r.lane l).isPoison = false) ∧
        enabledOf s1.me.mr (laneRow (o.ops s1 0) (o.f s1.me.mr) l).2.2 = 0)) ∧
    (let s := s1.modSplit 0 (fun x => { x with mr := 0xFE007 });
      ∃ o, laneWord (.add addW) = some o ∧ mrPX s.me.mr = true ∧ s.lanes.getLsbD 31 = true ∧
        ∀ l, s.lanes.getLsbD l = true → (mrPX s.me.mr = true → ∀ r ∈ o.ops s 0, (r.lane l).isPoison = false) ∧
          enabledOf s.me.mr (laneRow (o.ops s 0) (o.f s.me.mr) l).2.2 = 0) :=
  ⟨⟨_, rfl, ready (by decide +kernel), by decide +kernel, lanes (by decide +kernel)⟩,
   ⟨_, rfl, by decide +kernel, by decide +kernel, lanes (by decide +kernel)⟩⟩

/-- LaneResults: MR.LR with lane 0 executing, whose quad is idle beside it: a lane fault of its partner lane 1, and one of a lane that recomputes
nothing; and no check asked for. -/
theorem witness_lane_checks :
    let s (bad : Mask) : State := (s1.modSplit 0 (fun x => { x with mr := 0x2005 })).modCore 0 (fun c => { c with upset := [bad] });
    LanesAgree s1 ∧ (mrLR (s 2).me.mr = true ∧ ((s 2).core ((s 2).coreOf 0)).upset = [2] ∧ (s 2).recomputes 1 0) ∧
    ((2 : Mask).getLsbD 1 = true ∧ ∀ j q, j < 1 → (s 2).recomputes j q → (2 : Mask).getLsbD j = false) ∧
    ((s 1).core ((s 1).coreOf 0)).upset = [1] ∧ (s 1).recomputes 1 0 ∧ (∀ l p, (s 1).recomputes l p → (1 : Mask).getLsbD l = false) := by
  refine ⟨.inl (by decide +kernel), ⟨by decide +kernel, by decide +kernel, by decide +kernel, by decide +kernel, by decide +kernel, .inl rfl⟩,
    ⟨by decide +kernel, fun j q hj _ => ?_⟩, by decide +kernel, ⟨by decide +kernel, by decide +kernel, by decide +kernel, .inl rfl⟩, fun l p h => ?_⟩
  · obtain rfl : j = 0 := by omega
    decide
  · have h0 : l ≠ 0 := fun e => h.2.1 (by subst e; decide +kernel)
    match l, h0 with
    | l + 1, _ => simp [BitVec.getLsbD, Nat.testBit_succ]

/-- Int32Results: MR at launch is int32 without SAT, and ABS there has a negative operand and another; one with ET 1 is uint32. -/
theorem witness_int32_results : mrSAT 7 = false ∧ mrET 7 = .int32 ∧ mrSAT 0x17 = false ∧ mrET 0x17 = .uint32 ∧
    (0xFFFFFFF7 : Word).slt 0 = true ∧ (9 : Word).slt 0 = false := by decide +kernel

/-- CompareAndSelect: an integer compare, a float compare (ET 6 is fp32), SEL, and RDLANE with and without executing lanes. -/
theorem witness_compare_and_select :
    LanesAgree s1 ∧
    (let w : CmpF := { s := false, d := 2, a := 4, b := 5, x := false, y := false, n := false, r := 2 };
      RegsReady s1 (w.a.toNat :: s1.vbreg 0 w.b) ∧ (mrET s1.me.mr).isInt = true ∧
      ∀ l, s1.lanes.getLsbD l = true → enabledOf s1.me.mr (laneRow [s1.vsrc 0 w.a, s1.vbsrc 0 w.b] (icmpFn w.r.toNat w.n s1.me.mr) l).2.2 = 0) ∧
    (let s := s1.modSplit 0 (fun x => { x with mr := 0xFE067 });
      let w : CmpF := { s := false, d := 2, a := 4, b := 5, x := false, y := false, n := false, r := 2 };
      floatET (mrET s.me.mr) = true ∧ mrPX s.me.mr = true ∧ ∀ l, s.lanes.getLsbD l = true →
        (∀ r ∈ [s.vsrc 0 w.a, s.vbsrc 0 w.b], (r.lane l).isPoison = false) ∧
        enabledOf s.me.mr (laneRow [s.vsrc 0 w.a, s.vbsrc 0 w.b] (fcmpFn w.r.toNat w.n s.me.mr) l).2.2 = 0) ∧
    (let w : SelF := { s := false, d := 2, a := 4, b := 5, x := false, y := false, p := 1 };
      RegsReady s1 (w.d.toNat :: w.a.toNat :: s1.vbreg 0 w.b) ∧ mrPX s1.me.mr = false) ∧
    (let w : RdlaneF := { s := false, d := 2, a := 4, x := false };
      RegsReady s1 [w.a.toNat] ∧ s1.lanes.getLsbD 0 = true ∧ ((s1.vsrc 0 w.a).lane 0).isPoison = false ∧
      (s1.modSplit 0 (fun x => { x with mr := 4 })).lanes = 0) :=
  ⟨.inl (by decide +kernel), ⟨ready (by decide +kernel), by decide +kernel, lanes (by decide +kernel)⟩, ⟨by decide +kernel, by decide +kernel, lanes (by decide +kernel)⟩,
   ⟨ready (by decide +kernel), by decide +kernel⟩, ⟨ready (by decide +kernel), by decide +kernel⟩⟩

/-- ScalarResults: unpoisoned operands, a poisoned one without and with MR.PX. -/
theorem witness_scalar_results :
    let p := s1.modSplit 0 (fun x => { x with sp := 8 });
    (∃ w f, scalarWord (.sadd { s := false, d := 2, a := 0, b := 4 }) = some (w, f) ∧ s1.ssrc 0 w.a = .val 4 ∧ s1.sbsrc 0 w.b = .val 7) ∧
    (p.ssrc 0 3).isPoison = true ∧ mrPX p.me.mr = false ∧
    (let q := p.modSplit 0 (fun x => { x with mr := 0x80007 });
      (q.ssrc 0 3).isPoison = true ∧ mrPX q.me.mr = true) :=
  ⟨⟨_, _, rfl, by decide +kernel⟩, by decide +kernel⟩

/-- ExchangeResults: QXCH.X1 of every lane, under MR.PX. -/
theorem witness_exchange_results :
    let s := s1.modSplit 0 (fun x => { x with mr := 0x80007 });
    ∃ o, exchangeWord (.qxchX1 { s := true, d := 3, a := 1, x := false, m := false }) = some o ∧ RegsReady s (o.regs s 0) ∧ MembersOk s o.m ∧
      mrPX s.me.mr = true ∧ ∀ l, s.lanes.getLsbD l = true →
        ∃ j, o.from_ s 0 l = some j ∧ ((s.givers o.m).getLsbD j = true → ((s.vsrc 0 o.a).lane j).isPoison = false) :=
  ⟨_, rfl, ready (by decide +kernel), by unfold MembersOk; decide +kernel, by decide +kernel, lanes (fun l hl _ => ⟨_, rfl, by revert l; decide +kernel⟩)⟩

/-- VoteResults: no member mask; a vote that holds, one that does not; MATCH with lane 0 leading. -/
theorem witness_vote_results :
    MembersOk s1 false ∧ ¬(∀ l, (s1.givers false).getLsbD l = true → (s1.predOf 0 1).getLsbD l = true) ∧
    (∀ l, (s1.givers false).getLsbD l = true → (s1.predOf 0 7).getLsbD l = true) ∧
    (27 + maskWords (s1.widthOf 0) ≤ 28) ∧ RegsReady s1 [4] ∧ (s1.givers false).getLsbD 0 = true ∧ ((s1.vsrc 0 4).lane 0).isPoison = false :=
  ⟨by unfold MembersOk; decide +kernel, fun h => absurd (h 31 (by decide +kernel)) (by decide +kernel), lanes (by decide +kernel),
   by decide +kernel, ready (by decide +kernel), by decide +kernel, by decide +kernel⟩

/-- ReductionResults: REDUX, SCAN, PACK and UNPACK over lanes without poison. -/
theorem witness_reduction_results :
    RegsReady s1 [5, 4] ∧ MembersOk s1 false ∧ (∀ l, (s1.givers false).getLsbD l = true → ((s1.vsrc 0 4).lane l).isPoison = false) ∧
    (∀ j ∈ wordsOfElem 31 (packBits 5), (s1.givers false).getLsbD j = true) :=
  ⟨ready (by decide +kernel), by unfold MembersOk; decide +kernel, lanes (by decide +kernel), by decide +kernel⟩


/-- A change of the split. -/
def on (s : State) (f : Split → Split) : State := s.modSplit 0 f

/-- GroupEnds: a first word of a group; the fifteenth word's bound; a write of the last lane, of the last scalar that is no mask, of p5. -/
theorem witness_group_ends :
    0 < s1.splits.length ∧ (s1.split 0).pend = none ∧ (s1.split 0).n + (s1.split 0).words < 16 ∧
    16 ≤ ((on s1 (fun x => { x with n := 15 })).split 0).n + ((on s1 (fun x => { x with n := 15 })).split 0).words ∧
    (s1.split 0).held.any Held.isAwait = false ∧ 63 < (s1.warp 0).v.length ∧ 31 < (s1.warp 0).width ∧ (s1.warp 0).width ≤ 128 ∧
    (s1.warp 0).p.length = 6 ∧ (s1.split 0).s.length = 32 := by decide +kernel

/-- SequencerWords: the word after a LIMM at 0x1000 is ADD with vb = 63, read through a cached translation; the registers are ready. -/
theorem witness_sequencer_words :
    let s := { s1 with mem := cellsWrite [] 0x1000 [0, 0, 0, 0x7E, 1, 0, 0, 0, 0x80, 0x3F, 0x18, 0x98] };
    (∃ t, s.fetchWord s.mine (s.me.pc + 8) s.me.prv 0 = (t, .ok 0x98183F80)) ∧ limmConsumer 0x98183F80 = true ∧ RegsReady s1 [63] :=
  ⟨snd (by decide +kernel), by decide +kernel, ready (by decide +kernel)⟩

/-- TransferWords: no lane, every lane, and an aligned target in s2 and s3; a target with bit 0 set and one of 2^56. -/
theorem witness_transfer_words :
    Open s1 ∧ 28 ≤ s1.me.s.length ∧ s1.me.awaiting = false ∧ s1.lanes = s1.actMask 0 ∧ s1.lanes ≠ 0 ∧ (on s1 (fun x => { x with mr := 4 })).lanes = 0 ∧
    (let p := s1.predOf 0 7; s1.actMask 0 &&& p = s1.actMask 0 ∧ s1.actMask 0 &&& ~~~p = 0) ∧
    (let t (x : Split) (r : Nat) := ((x.sreg r).bits).toNat + ((x.sreg (r + 1)).bits).toNat * 2 ^ 32;
      t s1.me 2 % 4 = 0 ∧ t s1.me 2 < 2 ^ 56 ∧ t s1.me 26 = 0 ∧
      t (s1.me.setS 32 2 (.val 1)) 2 % 4 ≠ 0 ∧ ¬t (s1.me.setS 32 3 (.val 0x1000000)) 2 < 2 ^ 56) := by
  unfold Open; decide +kernel

/-- BranchDiverges: a branch on a predicate p3 of every other lane, so that no whole quad can move; a branch, and a jump, that lane 0 alone takes, so that seven
quads move to entry 0 and three lanes are deferred; one that lanes 0 to 3 take, so that nothing is deferred. -/
theorem witness_branch_diverges :
    let s := s1.modWarp 0 (fun w => { w with p := w.p.set 3 0x55555555 });
    let act := s.actMask 0;
    let t := on s (fun x => { x with mr := 0x5 });
    0 < s.splits.length ∧ s.me.live = true ∧ s.me.awaiting = false ∧ s.me.pend = none ∧ s.me.held = [] ∧ s.me.s.length = 32 ∧ s.widthOf 0 ≤ 128 ∧
    (s.wg s.mine).preq = none ∧ (s.wg s.mine).creq = none ∧
    (let taken := act &&& s.predOf 0 3; taken ≠ 0 ∧ taken ≠ act ∧ newQuads s.me.quads act taken = 0 ∧ s.me.div.length ≤ 14) ∧
    (let taken := act &&& s.predOf 0 5; taken ≠ 0 ∧ taken ≠ act ∧ newQuads s.me.quads act taken = 0xFE ∧
      s.closed.freeTable (s.coreOf 0) (s.warpOf 0).part = some 0 ∧ act &&& ~~~quadLanes 0xFE &&& ~~~taken ≠ 0) ∧
    (let taken := act &&& s.predOf 0 1; taken ≠ 0 ∧ taken ≠ act ∧ newQuads s.me.quads act taken = 0xFE ∧ act &&& ~~~quadLanes 0xFE &&& ~~~taken = 0) ∧
    (t.lanes ≠ 0 ∧ t.lanes ≠ act ∧ newQuads t.me.quads act t.lanes = 0xFE) := by decide +kernel

/-- SequencerRendezvous, clause by clause: an EXIT that leaves lanes; REGANG at depth 0; a REGANG and a FUSE whose timeout has just
passed; SPLIT to the width and below it; FUSE to the width; a split that has been ready for 256 cycles. -/
theorem witness_sequencer_rendezvous :
    (let s := on s1 (fun x => { x with mr := 1 });
      let c := s.closed;
      s.me.awaiting = false ∧ s.outstanding (.split 0) = false ∧
      let t := (c.modWarp (c.split 0).warp (fun u => { u with exited := u.exited ||| s.lanes })).modSplit 0 (fun x =>
        x.setAct (c.widthOf 0) (x.act (c.widthOf 0) &&& ~~~s.lanes));
      (t.split 0).act (t.widthOf 0) = 0xFFFFFFF0) ∧
    (s1.closed.split 0).div = [] ∧ (s1.closed.split 0).spill = [] ∧ (s1.closed.split 0).gang = [] ∧
    (let s := on (s1.modDie 0 (fun d => { d with cycle := 1025 })) (fun x => { x with phase := .parked (.regang 0 false 1024), gang := [0xFF] });
      (s.split 0).live = true ∧ (s.split 0).gang.head? = some 0xFF ∧ s.regangParts (s.split 0).warp 0 0xFF = [0] ∧ (s.split 0).since + 1024 < s.cycleOf 0) ∧
    (codeWidth 3 = s1.widthOf 0 ∧ codeWidth 0 < s1.widthOf 0 ∧ (s1.splitsOf s1.me.warp).length = 1 ∧ s1.me.div = [] ∧ s1.me.spill = [] ∧
      (s1.warpOf 0).barArr = 0 ∧ s1.absentGranule 0 = none) ∧
    codeWidth 3 = (s1.closed.warpOf 0).width ∧
    (let s := on (s1.modDie 0 (fun d => { d with cycle := 65537 })) (fun x => { x with phase := .parked (.fuse 4 5) });
      s.splitsOf 0 = [0] ∧ (s.split 0).phase = .parked (.fuse 4 5) ∧ (s.split 0).since + 65536 < s.cycleOf 0 ∧
      s.atFuse (s.blockWarps (s.warp 0).wg ((s.warp 0).base / codeWidth 4 * codeWidth 4) (codeWidth 4)) = [0]) ∧
    (let s := s1.modDie 0 (fun d => { d with cycle := 256 });
      (s.split 0).live = true ∧ (s.split 0).phase = .ready ∧ (s.split 0).since + 256 ≤ s.cycleOf 0) := by decide +kernel

/-- SequencerRendezvous: EXIT of four lanes, and of every lane; a stack whose next entry is deferred, and one whose next is a rejoin told of this
REGANG; a gang below the first level; a FUSE to 256; two warps of 32 lanes that fuse to 64. -/
theorem witness_sequencer_meetings :
    (let ends (s : State) : Prop := Open s ∧ s.outstanding (.split 0) = false ∧ s.me.held = [] ∧ s.me.warp < s.warps.length;
      ends (on s1 (fun x => { x with mr := 1 })) ∧ ends s1 ∧ s1.actMask 0 &&& ~~~s1.lanes = 0 ∧ s1.me.div = [] ∧ s1.me.spill = [] ∧
      quadLanes s1.me.quads &&& onesMask 32 &&& ~~~((s1.warpOf 0).exited ||| s1.lanes) = 0) ∧
    (let e : DivEntry := { rejoin := false, mask := 3, pc := 0x2000 }; let r : DivEntry := { rejoin := true, mask := 15, idv := true, id := 9, pc := 0x3000 };
      let s (a : DivEntry) : State := on s1 (fun x => { x with div := [a, r] });
      0 < s1.splits.length ∧ (s e).me.div = [e, r] ∧ e.gdepth = (s e).me.gang.length ∧ (s r).me.div = [r, r] ∧ r.gdepth = (s r).me.gang.length) ∧
    (on s1 (fun x => { x with gang := [1] })).me.gang ≠ [] ∧ codeWidth 6 = 256 ∧
    (let s : State := { s1 with warps := s1.warps ++ [{ live := true, base := 32 }] };
      let ws := s.closed.byBase (s.closed.blockWarps (s.warpOf 0).wg ((s.warpOf 0).base / 64 * 64) 64);
      codeWidth 4 = 64 ∧ ws.length * 32 = 64 ∧ ∀ k ∈ ws, (s.closed.warp k).width = 32 ∧ (s.closed.warp k).gone = false) := by
  unfold Open; decide +kernel

/-- A mask below 2^n has no lane from n on. -/
theorem high {n : Nat} {m : Mask} (h : m.toNat < 2 ^ n) : ∀ l, n ≤ l → m.getLsbD l = false := fun l hl => by
  exact Nat.testBit_lt_two_pow (Nat.lt_of_lt_of_le h (Nat.pow_le_pow_right (by decide) hl))

/-- Predicates below 2^n have none. -/
theorem preds {n : Nat} {ps : List Mask} (h : ps.all (fun m => Nat.blt m.toNat (2 ^ n)) = true) : ∀ l, n ≤ l → ∀ p, (ps.getD p 0).getLsbD l = false := fun l hl p => by
  rcases Nat.lt_or_ge p ps.length with hp | hp
  · have := List.all_eq_true.mp h ps[p] (List.getElem_mem hp)
    rw [List.getD_eq_getElem?_getD, List.getElem?_eq_getElem hp]
    exact high (Nat.blt_eq.mp this) l hl
  · rw [List.getD_eq_getElem?_getD, List.getElem?_eq_none hp]; simp

/-- Where no register holds its lanes apart. -/
theorem noGeneral {vs : List VReg} {n : Nat} (h : vs.all (fun v => match v with | .general _ => false | _ => true) = true) :
    ∀ r ws, vs.getD r (.uniform .poison) = .general ws → ws.length = n := fun r ws e => by
  rcases Nat.lt_or_ge r vs.length with hp | hp
  · have := List.all_eq_true.mp h vs[r] (List.getElem_mem hp)
    rw [List.getD_eq_getElem?_getD, List.getElem?_eq_getElem hp] at e
    simp only [Option.getD_some] at e
    rw [e] at this; cases this
  · rw [List.getD_eq_getElem?_getD, List.getElem?_eq_none hp] at e; cases e

/-- Two splits of the warp, of lanes 0 to 15 and 16 to 31, parked at one REGANG with T; the second holds a split-table entry. -/
def parted : State :=
  let x (q : BitVec 32) (m : Word) (p : Bool) : Split := { split1 with
    quads := q, s := split1.s.set 28 m, primary := p, gang := [0xFF], phase := .parked (.regang 2 true 1024) }
  { s1 with splits := [x 0xF 0xFFFF true, x 0xF0 0xFFFF0000 false] }

/-- Two warps of 32 lanes, each with one split parked at a FUSE to 64. -/
def meeting : State :=
  let x (w : Nat) : Split := { split1 with warp := w, phase := .parked (.fuse 4 5) }
  { s1 with warps := s1.warps ++ [{ live := true, base := 32, slots := [1], v := List.replicate 64 (.uniform (.val 4)), p := List.replicate 6 0 }], splits := [x 0, x 1] }

/-- SequencerRendezvous: two splits merge, the first keeping its entry and holding the lowest lane, by a time-out that traps; a warp of 32 lanes that divides into
two of 16; two warps that fuse; the five outcomes of a FUSE that all have reached, and one that a party has left. -/
theorem witness_sequencer_leaves :
    ((parted.warp 0).width ≤ 128 ∧ (∀ j ∈ [0, 1], j < parted.splits.length) ∧ parted.keepsEntry [0, 1] 0 ∧ parted.leadsMerge 32 [0, 1] 0 ∧
      (parted.split 0).s.length = 32 ∧ (parted.split 0).phase = .parked (.regang 2 true 1024)) ∧
    (s1.me.live = true ∧ s1.me.s.length = 32 ∧ s1.me.warp < s1.warps.length ∧ (s1.warpOf 0).live = true ∧ s1.widthOf 0 ≤ 128 ∧ 16 < s1.widthOf 0 ∧
      (s1.warpOf 0).exited.getLsbD (1 * 16 + 15) = false) ∧
    meeting.fusible 64 [0, 1] [0, 1] ∧ (meeting.atFuse [0, 1] = [0, 1] ∧ (meeting.wgIdxOf 0) = 0 ∧
      meeting.byBase (meeting.blockWarps 0 0 64) = [0, 1] ∧ ∀ w ∈ [0, 1], (meeting.warp w).gone = false ∧ ∃ k ∈ meeting.atFuse [0, 1], (meeting.split k).warp = w) ∧
    (let code (f : Split → Split) : Nat := (meeting.modSplit 1 f).fuseCode 0 64 [0, 1] [0, 1];
      code (fun x => { x with pc := 0 }) = 3 ∧ code (fun x => { x with div := [{ rejoin := true, mask := 1 }] }) = 6 ∧ code (fun x => { x with mr := 6 }) = 4 ∧
      code (fun x => x.setS 32 9 (.val 1)) = 5 ∧ code id = 0 ∧ meeting.fuseCode 0 32 [0, 1] [0, 1] = 0) ∧
    (let s := meeting.modWarp 1 (fun w => { w with live := false, gone := true }); s.byBase (s.blockWarps 0 0 64) = [0, 1] ∧ (s.warp 1).gone = true) := by
  refine ⟨⟨by decide +kernel, by decide +kernel, ?_, ?_, by decide +kernel, by decide +kernel⟩, by decide +kernel, ?_, by decide +kernel, by decide +kernel, by decide +kernel⟩
  · refine ⟨by decide, fun j hj h => ?_⟩
    obtain rfl : j = 1 := by simpa [h] using hj
    decide +kernel
  · refine ⟨by decide, 0, by decide +kernel, fun j hj h m hm => ?_⟩
    obtain rfl : j = 1 := by simpa [h] using hj
    obtain rfl : m = 0 := by omega
    decide +kernel
  · refine ⟨by decide, by decide, by decide +kernel, by decide, rfl, ?_, fun w hw => ?_⟩
    · decide +kernel
    · have hw' : w = 0 ∨ w = 1 := by simpa using hw
      have at0 : meeting.splitsOf 0 = [0] := by decide +kernel
      have at1 : meeting.splitsOf 1 = [1] := by decide +kernel
      rcases hw' with rfl | rfl <;>
        refine ⟨by decide +kernel, by decide +kernel, fun l hl => ⟨high (by decide +kernel) l hl, preds (by decide +kernel) l hl⟩, noGeneral (by decide +kernel),
          fun i hi => ?_⟩
      · obtain rfl : i = 0 := by simpa [at0] using hi
        exact ⟨by decide +kernel, 4, 5, by decide, rfl⟩
      · obtain rfl : i = 1 := by simpa [at1] using hi
        exact ⟨by decide +kernel, 4, 5, by decide, rfl⟩

/-- BarrierWords: barrier 16, the last, exists and its release has passed; a token of the other parity; a count of 1024 before any arrival. -/
theorem witness_barrier_words :
    s1.me.awaiting = false ∧ 16 < (s1.wgOf 0).bars.length ∧ s1.fenceWait 0 0 = none ∧ s1.payloadClash 0 16 0 = false ∧
    ((s1.closed.wgOf 0).bar 16).par ≠ (s1.ssrc 0 9).bits.getLsbD 0 ∨ ((s1.closed.wgOf 0).bar 16).par = (s1.ssrc 0 9).bits.getLsbD 0 := by decide +kernel

/-- BarrierWords: the two tokens of BAR.WAIT, and the largest count. -/
theorem witness_barrier_tokens :
    ((s1.closed.wgOf 0).bar 16).par = (s1.ssrc 0 0).bits.getLsbD 0 ∧ ((s1.closed.wgOf 0).bar 16).par ≠ (s1.ssrc 0 4).bits.getLsbD 0 ∧
    ((on s1 (fun x => x.setS 32 0 (.val 1024))).ssrc 0 0).bits.toNat ≤ 1024 ∧ ((s1.wgOf 0).bar 16).arr = 0 ∧ 0 < s1.wgs.length := by decide +kernel

/-- BarrierWords: a split alone in its warp arrives at barrier 16, which expects two; the phase before and after both arrivals; a barrier without payload. -/
theorem witness_barrier_phases :
    s1.splitsOf (s1.split 0).warp = [0] ∧ s1.ordinarySplit 0 = true ∧ (s1.warpOf 0).barArr.getLsbD 16 = false ∧ s1.wgIdxOf 0 < s1.wgs.length ∧ (s1.split 0).s.length = 32 ∧
    (let s (k : BarKind) : State := on s1 (fun x => { x with phase := .parked (.gather 16 k) });
      (∃ v, ((s .sync).split 0).phase = .parked v) ∧ ((s .sync).wgOf 0).bar 16 = { trk := false, exp := 2 } ∧ (s .sync).ordinarySplit 0 = true) ∧
    (let s := s1.modWg 0 (fun w => { w with bars := w.bars.set 16 { trk := false, exp := 2, arr := 2 } });
      s1.phaseFull 0 16 = false ∧ s.phaseFull 0 16 = true ∧ (completePhase 0 16 s).warpAgain 16 16 = none ∧ s1.warpAgain 0 16 = none ∧ s1.ctxAgain 0 16 = none ∧
      (completePhase 0 16 s).ctxAgain 0 16 = none ∧
      0 ∈ s.wgSplits 0 ∧ ((on s (fun x => { x with phase := .parked (.barrier 16 false (some 6)) })).split 0).phase = .parked (.barrier 16 ((s.wg 0).bar 16).par (some 6))) ∧
    (({ trk := false, exp := 2 } : Barrier).any = false ∧ ({ trk := false, exp := 2 } : Barrier).poison = false) :=
  ⟨by decide +kernel, by decide +kernel, by decide +kernel, by decide +kernel, by decide +kernel, ⟨⟨_, rfl⟩, by decide +kernel, by decide +kernel⟩, by decide +kernel, by decide +kernel⟩

/-- TrapWords: no request, a pre-emption; lanes and none; a handler and none; a split without privilege. -/
theorem witness_trap_words :
    let past (s : State) : State := s.closed.modSplit 0 (fun x => { x with pc := x.pc + 8 });
    s1.me.awaiting = false ∧ ((past s1).wgOf 0).creq = none ∧ ((past s1).wgOf 0).preq = none ∧
    ((past (s1.modWg 0 (fun g => { g with preq := some { tq := 5 } }))).wgOf 0).preq = some { tq := 5 } ∧
    s1.lanes ≠ 0 ∧ (on s1 (fun x => { x with mr := 4 })).lanes = 0 ∧ s1.me.prv = true ∧ s1.me.inTrap = false ∧
    (on s1 (fun x => { x with inTrap := true })).me.inTrap = true ∧ (on s1 (fun x => { x with prv := false })).me.prv = false := by decide +kernel

/-- TrapEntry: a vector and none, inside a handler and not. -/
theorem witness_trap_entry :
    0 < s1.splits.length ∧ (s1.wgOf 0).tvec ≠ 0 ∧ (s1.split 0).inTrap = false ∧ ((on s1 (fun x => { x with inTrap := true })).split 0).inTrap = true ∧
    ((s1.modWg 0 (fun g => { g with tvec := 0 })).wgOf 0).tvec = 0 := by decide +kernel


/-- The hits of a check that passes, and its poisoned helper lanes. -/
def hitsOf : Checked → List Hit
  | .ok hs _ => hs
  | _ => []

/-- The machine with only lane 0 executing. -/
def one : State := on s1 (fun x => { x with mr := 5 })

/-- A copy of block 0x100 (address 0x10000) in the L1 of core 0 under key slot 0, leased for another microsecond; an untracked one. -/
def hit1 (m : Bool) : State :=
  s1.modCore 0 (fun c => { c with l1 := [{ span := { block := 0x100, first := 0, count := 64 }, mode := if m then .untracked 0 else .leased 16064000
                                           data := List.replicate 256 9, home := 0, v := 0, key := 0, first := false }] })

def ldW : MemF := { s := true, d := 6, a := 10, b := 2, w := 2, p := 0 }

/-- GlobalLoads: LD.B32 of 32 words at 0x10000, with no copy and with one in the L1: no flag is raised, and a lane's row is there. -/
theorem witness_global_loads :
    let run (s : State) : Prop := ∃ o, loadWord (.ld ldW) = some (o, .zero) ∧ MemRegsReady s o true (regsOf o.n) ∧
      let c := s.checkLanes 0 .global o.n .load false false (s.globalAddr 0 o.a o.b);
      c.2 = .ok (hitsOf c.2) [] ∧ (hitsOf c.2).length = 32 ∧
      (∀ p ∈ (loadBlocks 0 o.n .zero o.reg o.policy false (blocksOf (hitsOf c.2)) c.1).2, ∀ q ∈ p.rows, enabledOf s.me.mr q.2.2 = 0);
    run s1 ∧ run (hit1 false) ∧
    (let c := (hit1 false).checkLanes 0 .global 4 .load false false ((hit1 false).globalAddr 0 10 2);
      ((loadBlocks 0 4 .zero 6 0 false (blocksOf (hitsOf c.2)) c.1).2.flatMap (fun p => p.rows.map (fun q => (q.1, q.2.1)))).find?
        (fun q => q.1 == 31) = some (31, [.val 0x09090909])) :=
  ⟨⟨_, rfl, ready (by decide +kernel), by decide +kernel⟩, ⟨_, rfl, ready (by decide +kernel), by decide +kernel⟩, by decide +kernel⟩

/-- LoadBlocksServed: a copy that may be used, leased (one time unit before its end) and untracked; no copy. -/
theorem witness_load_blocks_served :
    let sp : Span := { block := 0x100, first := 0, count := 32 };
    let h : Hit := { lane := 0, va := 0x10000, pa := 0x10000, leaf := {} };
    (∃ e, (hit1 false).l1Entry ((hit1 false).l1Core 0 0x10000) 0x100 = some e ∧ (hit1 false).l1Hit 0 e sp h.leaf = true ∧ e.key = h.leaf.key ∧
      e.span.covers sp = true ∧ e.mode = .leased 16064000) ∧ (hit1 false).earlierRead (.split 0) [sp] = false ∧ ((hit1 false).die 0).unsync = false ∧
    s1.l1Entry (s1.l1Core 0 0x10000) 0x100 = none ∧
    (∃ e, (hit1 true).l1Entry 0 0x100 = some e ∧ (hit1 true).l1Hit 0 e sp { h.leaf with m := true } = true ∧ e.mode = .untracked 0) :=
  ⟨⟨_, rfl, by decide +kernel⟩, by decide +kernel, by decide +kernel, by decide +kernel, ⟨_, rfl, by decide +kernel⟩⟩

/-- GlobalStores: ST.B32 of 32 words, under MR.PX, to a coherent page and to a software-managed one, whose block the L1 holds untracked. -/
theorem witness_global_stores :
    let run (s : State) (w : MemF) : Prop := ∃ o, storeWord (.st w) = some (o, .plain) ∧ MemRegsReady s o true (regsOf o.n) ∧
      let c := s.checkLanes 0 .global o.n .store true false (s.globalAddr 0 o.a o.b);
      let data (h : Hit) : List Byte × Flags := storeBytes .plain o.n s.me.mr (s.group 0 o.reg (regsOf o.n) h.lane);
      c.2 = .ok (hitsOf c.2) [] ∧ hitsOf c.2 ≠ [] ∧
      (∀ h ∈ hitsOf c.2, (∀ p ∈ s.group 0 o.reg (regsOf o.n) h.lane, p.isPoison = false) ∧ enabledOf s.me.mr (data h).2 = 0) ∧ s.me.awaiting = false ∧
      ∀ b ∈ blocksOf (hitsOf c.2), ∀ h ∈ b.head?, h.leaf.m = true →
        c.1.untrackedWait (s.coreOf 0) h.leaf (s.wgOf 0).troot (s.wgOf 0).trgen h.va o.n (b.map (fun h => (h.pa, (data h).1))) (.split 0) = none;
    let m := s1.modCore 0 (fun c => { c with xlat := c.xlat.map (fun x => { x with leaf := { x.leaf with m := true } }) });
    run (on s1 (fun x => { x with mr := 0x80007 })) { ldW with s := false } ∧
    run { m with pgen := [{ frame := 1, gen := 0, m := true }] } { ldW with p := 1 } ∧
    (let s := hit1 true; ∃ e, s.l1Entry (s.l1Core 0 0x10000) 0x100 = some e ∧ e.isLeased = false ∧ e.span.covers (spanOfLanes 4 [0x10000]) = true ∧
      s.l1Bytes (s.l1Core 0 0x10000) ≤ l1Capacity) :=
  ⟨⟨_, rfl, ready (by decide +kernel), by decide +kernel⟩, ⟨_, rfl, ready (by decide +kernel), by decide +kernel⟩, ⟨_, rfl, by decide +kernel⟩⟩

/-- ScratchpadWords: LDS of 32 words; STS and ATOMS.ADD of lane 0; ATOMS.CAS whose compare value is there. -/
theorem witness_scratchpad_words :
    (∃ o, localLoad (.lds { s := true, d := 6, a := 10, b := 31, w := 2, k := false }) = some (o, .zero) ∧ MemRegsReady s1 o false (regsOf o.n) ∧
      let c := s1.checkLanes 0 .scratch o.n .load false false (s1.localAddr 0 o.a o.b);
      c = (s1, .ok (hitsOf c.2) []) ∧ (hitsOf c.2).length = 32 ∧
      ∀ h ∈ hitsOf c.2, (loadWords .zero s1.me.mr ((s1.wgOf 0).scratchRead h.pa o.n)).1.length = regsOf o.n ∧
        enabledOf s1.me.mr (loadWords .zero s1.me.mr ((s1.wgOf 0).scratchRead h.pa o.n)).2 = 0) ∧
    (∃ o, localStore (.sts { s := false, d := 6, a := 10, b := 31, w := 2 }) = some (o, .plain) ∧ MemRegsReady one o false (regsOf o.n) ∧
      one.checkLanes 0 .scratch o.n .store true false (one.localAddr 0 o.a o.b) = (one, .ok [{ lane := 0, va := 0, pa := 0, leaf := {} }] []) ∧
      enabledOf one.me.mr (storeBytes .plain o.n one.me.mr (one.group 0 o.reg (regsOf o.n) 0)).2 = 0 ∧ one.me.awaiting = false) ∧
    (let w : AtomsF := { s := false, d := 6, a := 10, b := 31, w := 2, n := false, f := 0 };
      RegsReady one (groupRegs w.d.toNat (atomGroup (atomFn w.w.toNat w.f.toNat) 4) ++ one.addrRegs 0 false w.a w.b) ∧
      (atomOperands (atomFn 2 0) 4 (one.group 0 6 (atomGroup (atomFn 2 0) 4) 0)).2.2 = false ∧ atomFn 2 0 = .add ∧ one.me.awaiting = false) :=
  ⟨⟨_, rfl, ready (by decide +kernel), by decide +kernel⟩, ⟨_, rfl, ready (by decide +kernel), by decide +kernel⟩,
   ready (by decide +kernel), by decide +kernel⟩

/-- ScratchpadWords: the compare value of ATOMS.CAS is the second register of its group, and the word at 4 holds it. -/
theorem witness_scratchpad_cas :
    let s := one.modWg 0 (fun g => { g with scratch := [(4, 4)] });
    let x := atomOperands (atomFn 6 1) 4 (s.group 0 6 (atomGroup (atomFn 6 1) 4) 0);
    atomFn 6 1 = .cas ∧ x.2.2 = false ∧ natOfBytes ((s.wgOf 0).scratchRead 4 4) = x.2.1 ∧
    s.checkLanes 0 .scratch 4 .store true false (s.localAddr 0 11 31) = (s, .ok [{ lane := 0, va := 4, pa := 4, leaf := {} }] []) := by decide +kernel

/-- ConstantLoads: LDC.B32 of lane 0 at the last word of a window of 4096 bytes that begins at 0x2000. -/
theorem witness_constant_loads :
    let s := one.modWarp 0 (fun w => { w with v := w.v.set 11 (.uniform (.val 4092)) });
    let w : LdsF := { s := true, d := 6, a := 11, b := 31, w := 2, k := false };
    RegsReady s (groupRegs w.d.toNat (regsOf 4) ++ s.addrRegs 0 false w.a w.b) ∧
    (let c := s.checkLanes 0 .const 4 .load false false (s.localAddr 0 w.a w.b);
      ∃ h, c.2 = .ok [h] [] ∧ h.pa = 0x2FFC ∧ c.1.homeBusy 0 false h.pa 4 (.split 0) = false ∧ c.1.homeCause h.pa 4 = none ∧
        (loadWords .zero s.me.mr (c.1.readMem h.leaf.key h.pa 4)).1.length = regsOf 4 ∧ s.lanes.getLsbD h.lane = true ∧ h.lane < s.widthOf 0) :=
  ⟨ready (by decide +kernel), ⟨{ lane := 0, va := 4092, pa := 0x2FFC, leaf := { lg := 30, u := true, x := true, w := true } }, by decide +kernel⟩⟩

/-- AtomicWords: ATOM.ADD without an ordering and with both, on a page of hardware-coherent memory. -/
theorem witness_atomic_words :
    let w (o : BitVec 2) : AtomF := { s := false, d := 6, a := 10, b := 2, w := 2, o := o, f := 0 };
    RegsReady s1 (groupRegs (w 0).d.toNat (atomGroup (atomFn 2 0) 4) ++ s1.addrRegs 0 true (w 0).a (w 0).b) ∧
    s1.scopeUnsync 0 2 = false ∧ s1.me.awaiting = false ∧ s1.fenceWait 0 2 = none ∧ (w 3).o.getLsbD 1 = true ∧
    (let c := s1.checkLanes 0 .global 4 .store true true (s1.globalAddr 0 10 2);
      c.2 = .ok (hitsOf c.2) [] ∧ hitsOf c.2 ≠ [] ∧ ∀ x ∈ hitsOf c.2, ∀ p ∈ s1.group 0 6 (atomGroup (atomFn 2 0) 4) x.lane, p.isPoison = false) :=
  ⟨ready (by decide +kernel), by decide +kernel⟩

/-- FencesAndCacheControl: a release at each scope with nothing outstanding, one at sys scope; LD.ACQ; cache control of a writable page. -/
theorem witness_fences_and_cache_control :
    (∀ c, c < 4 → s1.scopeUnsync 0 c = false) ∧ (∀ c, c < 3 → s1.fenceWait 0 c = none) ∧
    (let s := on s1 (fun x => { x with ctl := 0 });
      s.outstanding (.split 0) = false ∧ (s.modDie 0 (fun d => { d with now := 2 ^ 40 })).drainCxl.fenceWait 0 3 = none) ∧ s1.me.awaiting = false ∧
    RegsReady s1 (groupRegs 6 (regsOf 4) ++ s1.addrRegs 0 true 10 2) ∧
    (let c := s1.checkLanes 0 .global 4 .load false true (s1.globalAddr 0 10 2); c.2 = .ok (hitsOf c.2) []) ∧
    (let c := s1.checkLanes 0 .global 1 .load false false (s1.globalAddr 0 10 2); c.2 = .ok (hitsOf c.2) [] ∧ ∀ h ∈ hitsOf c.2, h.leaf.w = true) :=
  ⟨by decide +kernel, by decide +kernel, by decide +kernel, by decide +kernel, ready (by decide +kernel), by decide +kernel⟩

/-- FencesAndCacheControl: cache control of lane 0 at a block that the L1 does not hold, and at one with a dirty byte; its block with it and without; a prefetch. -/
theorem witness_cache_blocks :
    let c (s : State) := s.checkLanes 0 .global 1 .load false false (s.globalAddr 0 10 2);
    let d : State := { one with cores := ((hit1 true).modCore 0 (fun x => { x with l1 := x.l1.map (fun e => { e with mode := .untracked 1 }) })).cores };
    let pure (t : State) (hot : List Hit) : Prop := lookupLanes 0 .store 0 1 true (one.helpersOf 0) (hot.map (fun h => (h.lane, h.va)))
          { s := t, hits := [], poisoned := [], bad := none, later := false } = { s := t, hits := hot, poisoned := [], bad := none, later := false };
    let dirty (t : State) (h : Hit) : Bool := match t.l1Entry (t.l1Core 0 h.pa) (h.pa / 256) with
        | some e => e.dirty != 0
        | none => false;
    RegsReady one (one.addrRegs 0 true 10 2) ∧
    ((c s1).2 = .ok (hitsOf (c s1).2) [] ∧ ((hitsOf (c s1).2).map (fun h => h.lane)).Nodup ∧ (hitsOf (c s1).2).filter (dirty (c s1).1) = [] ∧ pure (c s1).1 []) ∧
    ((c d).2 = .ok (hitsOf (c d).2) [] ∧ (hitsOf (c d).2).length = 1 ∧ (hitsOf (c d).2).filter (dirty (c d).1) = hitsOf (c d).2 ∧ pure (c d).1 (hitsOf (c d).2)) ∧
    (∃ e, d.l1Entry (d.l1Core (d.coreOf 0) 0x10000) 0x100 = some e ∧ e.dirty ≠ 0) ∧ (∀ e, one.l1Entry 0 0x100 = some e → e.dirty = 0) := by
  refine ⟨ready (by decide +kernel), ⟨by decide +kernel, by decide +kernel, by decide +kernel, rfl⟩, ⟨by decide +kernel, by decide +kernel, by decide +kernel, by decide +kernel⟩, ⟨_, rfl, by decide +kernel⟩, fun e h => ?_⟩
  cases h

/-- MemoryWrites: an empty memory is canonical, and so is the scratchpad of the workgroup. -/
theorem witness_memory_writes : Memory.wf s1.mem = true ∧ 0 < s1.wgs.length ∧ Memory.wf (s1.wg 0).scratch = true := by decide +kernel

/-- AddressMap: the first and the last byte of each range of R191. -/
theorem witness_address_map :
    homeOf 0 = .dram 0 0 ∧ homeOf (7 * 2 ^ 36 + 48 * 2 ^ 30 - 1) = .dram 7 15 ∧ homeOf (48 * 2 ^ 30) = .none ∧ homeOf (2 ^ 39 - 1) = .none ∧
    homeOf (2 ^ 39) = .none ∧ homeOf (2 ^ 51 - 1) = .none ∧ homeOf (2 ^ 51) = .host 0 ∧ homeOf (2 ^ 52 - 1) = .host 15 ∧
    7 * 2 ^ 36 + (48 * 2 ^ 30 - 1) < 2 ^ 52 ∧ (12 : Nat) % 2 ^ 2 = 0 := by decide +kernel

/-- CompletionTimes and LeasesGranted: a device address; a record that overlaps; a lease of class 3 on it and none on host memory above class 1. -/
theorem witness_completion_times :
    let s := { s1 with leases := [{ span := { block := 0x100, first := 0, count := 64 }, e := 16064000, wl := 0 }] };
    isHost 0x10000 = false ∧ (s.leases.map (fun l => l.span.overlaps (spanOf 0x10000 4))) = [true] ∧
    (s.grant 0 (spanOf 0x10000 4) 3).2 = some 16064000 ∧ (s.grant 0 (spanOf 0x10000 4) 0).2 = none ∧
    isHost (2 ^ 51) = true ∧ (s.grant 0 (spanOf (2 ^ 51) 4) 3).2 = some 16004000 ∧
    ({ s with ecc := [0x800] }.grant 0 (spanOf 0x10000 4) 3).2 = none ∧
    ((s.modDie 0 (fun d => { d with unsync := true })).grant 1 (spanOf 0x10000 4) 3).2 = none := by decide +kernel


/-- A request of the split for one word of the block at 0x10000. -/
def req1 (op : MemOp) : MemReq :=
  { id := 9, party := .split 0, core := 0, op := op, lanes := [{ lane := 0, va := 0x10000, pa := 0x10000, data := 3 }]
    leaf := { lg := 30, u := true, x := true, w := true }, policy := 0, prv := true, pc := 0x1000, mr := 7 }

/-- The machine with that request on its way. -/
def asked (op : MemOp) : State := { s1 with reqs := [.mem (req1 op)] }

/-- HomeServices: a load, a store and an atomic that nothing holds back. -/
theorem witness_home_requests :
    let free (op : MemOp) (write : Bool) : Prop :=
      let s := asked op; let r := req1 op;
      s.memReq 9 = some r ∧ s.blockedBy r = false ∧ r.fail = none ∧ s.wholeCause r.pa = none ∧ s.stale r.leaf r.pa = false ∧
      s.homeBusy (dieOfCore r.core) write r.pa (4 * r.span.count) r.party = false;
    (free (.load 4 .zero 6) false ∧ (MemOp.load 4 .zero 6).writes = false ∧
      (let s := asked (.load 4 .zero 6); let r := req1 (.load 4 .zero 6);
        s.homeBusy (dieOfCore r.core) false (s.readSpan r).base (4 * (s.readSpan r).count) r.party = false ∧ s.readGroup r = [r] ∧
        s.l1Bytes r.l1 + 4 * (s.readSpan r).count ≤ 128 * 1024 ∧
        0 < s.splits.length ∧ (s.wg (s.wgIdxOf 0)).preq = none ∧ (s.wg (s.wgIdxOf 0)).creq = none ∧
        ∀ l ∈ r.lanes, s.homeCause l.pa 4 = none ∧ enabledOf r.mr (loadWords .zero r.mr (s.readMem r.leaf.key l.pa 4)).2 = 0)) ∧
    free (.store 4) true ∧ free (.atomic .add 4 (some 6)) true ∧
    (asked (.atomic .add 4 (some 6))).homeCause 0x10000 4 = none := by decide +kernel

/-- HomeServices: a group whose results are back, without and with a cause that came with them; a span that its agent has finished with, recalled; a
record and a copy that lie in the past. -/
theorem witness_home_events :
    (let s := on s1 (fun x => { x with phase := .parked .group });
      (s.split 0).live = true ∧ (s.split 0).phase = .parked .group ∧ (s.split 0).awaiting = false ∧ (s.split 0).pend = none ∧
      ((on s (fun x => { x with pend := some { cause := 0x081, val := 0, pc := 0x1000 } })).split 0).pend.isSome = true) ∧
    (let o : Owner := { span := { block := 0x100, first := 0, count := 64 }, agent := .copy 0, recalled := true };
      ({ s1 with owners := [o] }.owners[0]? = some o) ∧ { s1 with owners := [o] }.ownerBusy o = false) ∧
    (let l : Lease := { span := { block := 0x100, first := 0, count := 64 }, e := 16000000, wl := 16000000 };
      { s1 with leases := [l] }.leases[0]? = some l ∧ l.e ≤ s1.nowDie (homeDie l.span.base)) ∧
    (∃ e, ((hit1 false).core 0).l1[0]? = some e ∧ e.isLeased = true) := ⟨by decide +kernel, by decide +kernel, by decide +kernel, _, rfl, by decide +kernel⟩

/-- HostServices: the host up, no line, one request; a request that has waited 1 ms; a read and a write of device memory. -/
theorem witness_host_services :
    let q : HostReq := { line := 2 ^ 45, own := true, since := 0 };
    s1.hdown = false ∧ ({ s1 with hreqs := [q] } : State).hlines.find? (fun l => l.line == 2 ^ 45) = none ∧ Memory.wf s1.mem = true ∧
    (List.replicate 64 (7 : Byte)).length = 64 ∧ q.since + 16000000 ≤ s1.nowDie 0 ∧
    hostRange 0x10000 64 = true ∧ s1.hostOn = true ∧ s1.onHold 0x10000 = false ∧ s1.homeBusy 0 false 0x10000 64 .device = false ∧ s1.homeCause 0x10000 64 = none ∧
    s1.hheld.contains 0x100 = false ∧ (s1.heldIn 0x10000).length < 16384 ∧ s1.noRoute 0 (homeDie 0x10000) = false ∧
    s1.ownedByOther (spanOf 0x10000 64) .device = false ∧ s1.wholeCause 0x10000 = none ∧
    ({ s1 with hwrites := [(0x10000, 5)] }.hwrites[0]? = some (0x10000, 5)) ∧ { s1 with hbinv := [0x100] }.hbinv.contains 0x100 = true := by decide +kernel

/-- HostServices: a device in PS2. -/
theorem witness_host_wakes : s1.dev.ps ≠ 2 ∧ (s1.modDev (fun x => { x with ps := 2 })).dev.ps = 2 ∧ s1.hdown = false := by decide +kernel

/-- TimeWordResults: a target that has come (s8 and s9 are 0); LOCQ of a cached translation in every lane. -/
theorem witness_time_words :
    s1.spair 0 8 = some 0 ∧ 0 ≤ s1.nowOf 0 ∧ s1.outstanding (.split 0) = false ∧ s1.me.awaiting = false ∧ 0 < s1.splits.length ∧
    RegsReady s1 [6, 4, 5] ∧
    ∀ l, s1.lanes.getLsbD l = true → s1.vpair 0 4 l = some 0x400000004 := 
  ⟨by decide +kernel, by decide +kernel, by decide +kernel, by decide +kernel, by decide +kernel, ready (by decide +kernel), lanes (by decide +kernel)⟩

/-- TimeWordResults and TranslationWords: the page of 4 GB that holds that address, cached and walked, with a lane's checks. -/
theorem witness_locq_lane :
    let s := s1.modWarp 0 (fun w => { w with v := w.v.set 5 (.uniform (.val 0)) });
    let k : Leaf := { lg := 30, u := true, x := true, w := true };
    (∀ l, s.lanes.getLsbD l = true → s.vpair 0 4 l = some 4) ∧ (4 : Nat) < 2 ^ 56 ∧
    s.cached (s.coreOf 0) (s.wgOf 0).troot (s.wgOf 0).trgen 4 = some k ∧ k.allows .load s.me.prv = true ∧ s.keyOn k.key = true :=
  ⟨lanes (by decide +kernel), by decide +kernel⟩

/-- A table of four levels at 0x100000, under which the page at 0x200000 is one of 64 KiB at 0x40000. -/
def tables : State :=
  let e (v : Nat) := bytesOfNat 16 v
  let m := cellsWrite [] 0x100000 (e (1 + 0x110000))
  let m := cellsWrite m 0x110000 (e (1 + 0x120000))
  let m := cellsWrite m 0x120000 (e (1 + 0x130000))
  let m := cellsWrite m (0x130000 + 16) (e (1 + 0x140000))
  { s1 with mem := cellsWrite m 0x140000 (e (1 + 2 + 4 + 8 + 16 + 0x40000)) }

/-- TableWalks and TranslationWords: the root is read, its entry names a table; the leaf at the last level; an absent entry; a malformed one. -/
theorem witness_table_walks :
    let s := tables.modWg 0 (fun w => { w with troot := 0x100000 });
    s.noRoute 0 (homeDie 0x100000) = false ∧ s.homeCause 0x100000 16 = none ∧ s.hostReady false 0x100000 16 = true ∧
    s.ownedByOther (spanOf 0x100000 16) .device = false ∧ s.genOf 0x100000 = (0, false) ∧
    s.walk 0 0x100000 0 0x200004 = .leaf { pa := 0x40000, u := true, x := true, w := true } ∧ s.walk 0 0x100000 0 0x600004 = .fault 0x0A1 ∧
    malformed (1 + 256) 0 = true ∧ malformed (s.readNat 0 0x140000 16) 4 = false ∧ malformed (s.readNat 0 0x100000 16) 0 = false ∧
    s.walk (dieOfCore 0) (s.wg 0).troot (s.wg 0).trgen 0x200004 = .leaf { pa := 0x40000, u := true, x := true, w := true } := by decide +kernel

/-- TranslationWords: a run of one frame at s2 and s3 (0x10000), coherent; and the other hypotheses of its clauses. -/
theorem witness_translation_words :
    Open s1 ∧ s1.me.prv = true ∧ s1.me.awaiting = false ∧
    (let s := tables.modWg 0 (fun w => { w with troot := 0x100000 });
     let t := on s (fun x => (x.setS 32 2 (.val 0x200000)).setS 32 0 (.val 1));
      ∃ r, t.runOf 0 2 0 = (0x200000, some (r, false)) ∧ (∀ f ∈ r.frames, isDram f = true ∧ homeOf f ≠ .none ∧ t.isPool f = false) ∧
        t.runBusy 0 r = false ∧ runInFlight r t.reqs = false ∧ ∀ f ∈ r.frames, t.onHold f = false) :=
  ⟨by unfold Open; decide +kernel, by decide +kernel, by decide +kernel, _, rfl, by decide +kernel⟩

/-- TranslationWords: GENRD of a frame with a home, an L1 without dirty spans, a translation 1 ms old. -/
theorem witness_translation_caches :
    s1.spair 0 2 = some 0x10000 ∧ homeOf 0x10000 ≠ .none ∧ s1.fusedAt 0 = false ∧ (∀ e ∈ ((hit1 false).core 0).l1, e.dirty = 0) ∧
    RegsReady s1 [6, 7, 4, 5] ∧
    (let s := s1.modDie 0 (fun d => { d with now := 32000000 });
      ∃ x, (s.core 0).xlat[0]? = some x ∧ x.time + 16000000 ≤ s.nowCore 0) :=
  ⟨by decide +kernel, by decide +kernel, by decide +kernel, by decide +kernel, ready (by decide +kernel), _, rfl, by decide +kernel⟩


/-- The load spoke with a value in x5. -/
def x5 (v : DWord) (s : State) : State := s.modSpoke 0 false (fun c => { c with x := c.x.set 5 v })

/-- SpokeWords: the context runs; nothing is outstanding, and nothing holds a fence back. -/
theorem witness_spoke_words :
    s1.who.wg < s1.wgs.length ∧ (s1.wg s1.who.wg).preq = none ∧ s1.outstanding (.spoke 0 false) = false ∧
    s1.scopeUnsync (dieOfCore (s1.wg 0).core) 2 = false ∧ s1.spokeRelease 0 false 2 s1.ctx.ctg = none := by decide +kernel

/-- SpokeMemory: the last word of scratchpad, of the constant window, and an aligned global one; a reservation of the last unit of its time. -/
theorem witness_spoke_memory :
    (s1.spokeSpace 0 0xFF000000000000FC 4 true = some (.scratch, 0xFC) ∧ (0xFF000000000000FC : DWord).toNat % 4 = 0) ∧
    (s1.spokeSpace 0 0xFE00000000000FFC 4 false = some (.const, 0xFFC) ∧
      (∃ t, s1.begun.vaRead 0 (0x2000 + 0xFFC) 4 true (.spoke 0 false) 9 = (t, .ok [0, 0, 0, 0])) ∧
      ((s1.begun.vaRead 0 (0x2000 + 0xFFC) 4 true (.spoke 0 false) 9).1.wg 0).preq = none) ∧
    (s1.spokeSpace 0 0x10000 8 true = some (.global, 0x10000) ∧
      let l : Leaf := { lg := 30, u := true, x := true, w := true };
      (∃ t, s1.begun.translate 0 0 0 0x10000 .store true = (t, .leaf l)) ∧ (∃ t, s1.begun.translate 0 0 0 0x10000 .load true = (t, .leaf l)) ∧
      let t := (s1.begun.translate 0 0 0 0x10000 .store true).1;
      l.m = false ∧ t.stale l (l.at 0x10000) = false ∧ t.onHold (l.at 0x10000) = false ∧ (t.wg 0).preq = none ∧
      t.l1Entry (t.spokeReq 0 false (.xload 8 false 5) 0x10000 l 0).l1 (spanOf (l.at 0x10000) 8).block = none) ∧
    (let q : Resv := { scratch := true, addr := 0xF8, n := 8, time := 16000000 - 63999 };
      (s1.modSpoke 0 false (fun c => { c with resv := some q })).ctx.resv = some q ∧ q.addr ≤ 0xFC ∧ 0xFC + 4 ≤ q.addr + q.n ∧ s1.nowCore 0 < q.time + 64000) ∧
    s1.ctx.resv = none :=
  ⟨by decide +kernel, ⟨by decide +kernel, snd (by decide +kernel), by decide +kernel⟩,
   ⟨by decide +kernel, snd (by decide +kernel), snd (by decide +kernel), by decide +kernel⟩, by decide +kernel, by decide +kernel⟩

/-- The machine whose cached page is software-managed. -/
def soft : State :=
  { s1.modCore 0 (fun c => { c with xlat := c.xlat.map (fun x => { x with leaf := { x.leaf with m := true } }) }) with pgen := [{ frame := 1, gen := 0, m := true }] }

/-- SpokeMemory: a store to a software-managed page, for which nothing has to come first, and an atomic of it. -/
theorem witness_spoke_untracked :
    soft.spokeSpace 0 0x10000 8 true = some (.global, 0x10000) ∧
    (let l : Leaf := { lg := 30, u := true, x := true, w := true, m := true };
      (∃ t, soft.begun.translate 0 0 0 0x10000 .store true = (t, .leaf l)) ∧ l.m = true ∧
      let t := (soft.begun.translate 0 0 0 0x10000 .store true).1;
      t.stale l (l.at 0x10000) = false ∧ t.onHold (l.at 0x10000) = false ∧
      t.untrackedWait 0 l 0 0 0x10000 8 [(l.at 0x10000, bytesOfNat 8 5)] (.spoke 0 false) = none) ∧
    (let sp : Span := spanOf 0x10000 8; (hit1 false).earlierRead (.spoke 0 false) [sp] = false) :=
  ⟨by decide +kernel, ⟨snd (by decide +kernel), rfl, by decide +kernel⟩, by decide +kernel⟩

/-- A record of 64 words of 4 bytes from 0x20000 on, at 0x10000; handle 0 filling. -/
def layout1 : Layout := { base := 0x20000, ndim := 1, fmt := 2, swz := 0, dim := [64, 1, 1, 1, 1], stride := [0, 0, 0, 0, 0] }
def copier : State :=
  let m := cellsWrite [] 0x10000 (bytesOfNat 8 0x20000 ++ bytesOfNat 8 0x201 ++ bytesOfNat 8 0x100000040 ++ bytesOfNat 8 0x100000001 ++ bytesOfNat 8 1)
  { s1 with mem := m }.modEntry 0 0 (fun e => { e with st := .filling })

/-- An entry in a state. -/
theorem is {s : State} {g h : Nat} {st : EntryState}
    (p : (Nat.blt h (s.wg g).entries.length && decide (((s.wg g).entry h).st = st)) = true) : s.entryIs g h st := by
  simpa [State.entryIs, Nat.blt_eq] using p

/-- A tensor copy or a store that fits its entry. -/
theorem passes {s : State} {g : Nat} {r : CopyReq} (p : (r.rec_.any (fun l => (Nat.blt r.h (s.wg g).entries.length && decide (((s.wg g).entry r.h).st = .filling)) && decide (((s.wg g).entry r.h).kind = 0) &&
    decide (2 ^ l.fmt * l.dim.foldl (fun a d => a * d) 1 ≤ ((s.wg g).entry r.h).size) && !r.win && decide (r.kind < 3))) = true) : s.copyPasses g r := by
  obtain ⟨l, hl, p⟩ := found p
  simp only [Bool.and_eq_true, decide_eq_true_eq, Bool.not_eq_true', Nat.blt_eq] at p
  obtain ⟨⟨⟨⟨hs, hk⟩, hb⟩, hw⟩, hn⟩ := p
  exact ⟨l, hl, hs, hk, fun _ => hb, fun h => by simp [hw] at h, fun h => by omega, fun h => by omega⟩

/-- SpokeExtension: CP.TENSOR with handle 0 and that record; handle 1 free; a ring; a barrier; a token. -/
theorem witness_spoke_extension :
    (∃ t, copier.begun.readLayout (.spoke 0 false) 0 0x10000 true = (t, .ok (1, some layout1)) ∧ t.copyPasses 0
      { kind := 1, win := false, h := 0, recAddr := 0x10000, rec_ := some layout1, aux := 0, prv := true, coord := [0, 0, 0, 0, 0] }) ∧
    s1.entryIs 0 1 .free ∧ copier.freeable 0 0 ∧ copier.entryIs 0 0 .filling ∧ (s1.modEntry 0 2 (fun e => { e with st := .full })).fullAt 0 2 false ∧
    3 < (s1.wg 0).entries.length ∧ 0 < (s1.wg 0).rings.length ∧
    s1.ctxBarCause 0 1 true = none ∧ s1.ctxBarCause 0 16 false = none ∧ s1.spokeRelease 0 false 0 s1.ctx.ctl = none :=
  ⟨⟨_, Prod.ext rfl (by decide +kernel), passes (by decide +kernel)⟩, is (by decide +kernel), .inr ⟨is (by decide +kernel), by decide +kernel⟩, is (by decide +kernel),
   ⟨is (by decide +kernel), by decide +kernel⟩, by decide +kernel⟩

/-- MatrixControl: MLDG at the last dword of the window, the word after MLIMM, a drained sequencer, a full handle, barriers 1 and 16. -/
theorem witness_matrix_control :
    (let s := s1.modSeq 0 (fun q => { q with g := q.g.set 3 0xFF8 });
      (((s.gval 0 3).setWidth 32 + (0 : BitVec 13).signExtend 32).toNat = 0xFF8 ∧ (0xFF8 : Nat) % 8 = 0 ∧ 0xFF8 + 8 ≤ (s.wg 0).cwsize) ∧
      ∃ t, s.vaRead 0 ((s.wg 0).cwin + 0xFF8) 8 true (.seq 0) 7 = (t, .ok (List.replicate 8 0)) ) ∧
    (let s := { s1 with mem := cellsWrite [] 0x1008 [0, 0xE0, 0x27, 0x06] };
      (∃ t, s.fetchWord 0 0x1008 true 7 = (t, .ok 0x0627E000)) ∧ mlimmConsumer 0x0627E000 = true) ∧
    s1.seqDrained 0 = true ∧ (s1.seq 0).cmds = [] ∧ s1.ctxBarCause 0 1 true = none ∧ s1.ctxBarCause 0 16 true = none ∧
    ((s1.wg 0).bar 16).par ≠ ((s1.modSeq 0 (fun q => { q with g := q.g.set 3 1 })).gval 0 3).getLsbD 0 ∧
    (let s := (s1.modEntry 0 2 (fun e => { e with st := .full })); s.fullAt 0 2 false ∧ s.freeable 0 2) ∧
    ({} : Seq).n + 1 < 16 ∧ 16 ≤ ({ n := 15 } : Seq).n + 1 ∧ 15 < ({} : Seq).g.length :=
  ⟨⟨by decide +kernel, snd (by decide +kernel)⟩, ⟨snd (by decide +kernel), by decide +kernel⟩, by decide +kernel, by decide +kernel, by decide +kernel,
   by decide +kernel, by decide +kernel, ⟨⟨is (by decide +kernel), by decide +kernel⟩, .inl (is (by decide +kernel))⟩, by decide +kernel⟩


/-- A change of the sequencer, in a workgroup with 8 KiB of scratchpad. -/
def onSeq (f : Seq → Seq) : State := (s1.modWg 0 (fun w => { w with scratchSize := 8192 })).modSeq 0 f

/-- A value in g3. -/
def g3 (v : DWord) : Seq → Seq := fun q => { q with g := q.g.set 3 v }

/-- MatrixWords: each word at the bounds of its checks: the last byte of scratchpad, of the window, of the rows; tile 15 as a shadow of tile 14. -/
theorem witness_matrix_words :
    ((s1.seq 0).cmds.length < 16 ∧ (15 : BitVec 4).toNat < s1.tileCount 0 ∧
    (let s := onSeq (fun q => { q with g := (q.g.set 3 (8192 - 6144)).set 4 96 });
      let off := (s.gval 0 3).toNat % 2 ^ 32; let stride := (s.gbval 0 4).toNat % 2 ^ 32; let n := panelRecord 0 (kDense 0 * 1);
      fmtClass 0 = some 0 ∧ fmtOnlyB 0 = false ∧ off % 4 = 0 ∧ stride % 4 = 0 ∧ n ≤ stride ∧ off + 63 * stride + n = (s.wg 0).scratchSize) ∧
    (let s := onSeq (fun q => { q with g := (q.g.set 3 (2 ^ 32 * 8192)).set 4 57344 });
      let off := (s.gval 0 3).toNat % 2 ^ 32; let n := (s.gval 0 3).toNat / 2 ^ 32 % 2 ^ 16; let win := (s.gbval 0 4).toNat % 2 ^ 16;
      off % 16 = 0 ∧ n % 16 = 0 ∧ off + n = (s.wg 0).scratchSize ∧ win % 16 = 0 ∧ win + n = 65536) ∧
    (let s := onSeq (fun q => { q with g := q.g.set 3 (65536 - 6144), islots := q.islots.set 2 (some (0, false)) });
      let off := (s.gbval 0 3).toNat % 2 ^ 16;
      mmaShape 0 0 = some (0, 24) ∧ (s.seq 0).islots.getD 2 none = some (0, false) ∧ 24 ≤ kDense ((fmtClass 0).getD 0) * 1 ∧ off % 16 = 0 ∧
      off + 64 * columnRecord 0 24 = 65536 ∧ ((s.seq 0).at 15).valid = false ∧ (s.seq 0).isTarget 15 = false) ∧
    s1.tileQuiet 0 15 = true ∧ ((s1.seq 0).at 15).shadow = false ∧
    (let s := onSeq (g3 (56 + 256 * 8)); let f := (s.gval 0 3).toNat % 64; let n := (s.gval 0 3).toNat / 256 % 128; n ≠ 0 ∧ f + n = 64) ∧
    (let s := onSeq (g3 0xFFFFFFFFFFFFFC); (storeBits ((s.seq 0).at 15).kind 0).isSome = true ∧ (s.gval 0 3).toNat % 4 = 0 ∧ (s.gval 0 3).toNat < 2 ^ 56) ∧
    ((s1.seq 0).openShadows.length < 4 ∧ ((s1.seq 0).at 14).shadow = false ∧ (s1.seq 0).isTarget 14 = false) ∧
    (let s := onSeq (fun q => { q with sig := q.sig.set 3 (some 1), issue := q.issue.set 15 { valid := true, shadow := true, target := 14 } });
      (∀ u, u < 16 → (0x8000 : Nat).testBit u = true → u < s.tileCount 0 ∧ ((s.seq 0).at u).shadow = true) ∧ (s.seq 0).sig.getD 3 none = some 1)) ∧
    (let s := onSeq (g3 0x10000); (∃ t, s.translate 0 0 0 0x10000 .store true = (t, .leaf { lg := 30, u := true, x := true, w := true })) ∧
      let t := (s.translate 0 0 0 0x10000 .store true).1; (t.seq 0).cmds.length < 16 ∧ (t.wg 0).preq = none ∧ t.seq 0 = s.seq 0) :=
  ⟨by decide +kernel, snd (by decide +kernel), by decide +kernel⟩

def cmd1 (op : CmdOp) (a b : DWord) : Cmd := { word := 0, op := op, a := a, b := b, pc := 0x1000 }

/-- MatrixPerforms: a command that ends, one of the 64 rows of a store, one that meets a cause; MMA with a panel and a window, MSPEC, MRESOLVE; a
pending MCOMMIT whose time has come. -/
theorem witness_matrix_performs :
    0 < s1.wgs.length ∧ (s1.wg 0).phase = .running ∧ (s1.wg 0).preq = none ∧
    (∃ t, performCmd 0 (cmd1 (.mclr 3 true) 0 0) s1 = .fin t) ∧
    (∃ t, performCmd 0 (cmd1 (.mst 3 0 0 false false) 0x10000 256) (onSeq (fun q => { q with tiles := q.tiles.set 3 { valid := true } })) = .row t) ∧
    (∃ k v t, performCmd 0 (cmd1 (.mst 3 0 0 false false) 0xFFFFFFFFFFFF00 256) (onSeq (fun q => { q with tiles := q.tiles.set 3 { valid := true } })) = .trap k v t) ∧
    (let s := onSeq (fun q => { q with slots := q.slots.set 2 (some { fa := 0, d := false, rows := List.replicate 64 (List.replicate 96 0) }) });
      mmaShape 0 0 = some (0, 24) ∧ ((s.seq 0).slots.getD 2 none).isSome = true ∧ (s.seq 0).badIndex 0 24 0 = none ∧ 15 < (s.seq 0).tiles.length) ∧
    (let s := onSeq (fun q => { q with tiles := q.tiles.set 15 { valid := true, shadow := true, target := 14 } });
      (cmd1 .mresolve 0x8000 1).a.toNat = 2 ^ 15 ∧ (s.seq 0).tiles.length = 16 ∧ ((s.seq 0).tile 15).target = 14 ∧ ((s.seq 0).tile 15).valid = true) ∧
    (let c : Commit := { tile := 3, va := 0x10000, pa := 0x10000, leaf := {}, time := 16000000 };
      ((onSeq (fun q => { q with commits := [c] })).seq 0).commits[0]? = some c ∧ c.time ≤ s1.nowCore (s1.wg 0).core) :=
  ⟨by decide +kernel, by decide +kernel, by decide +kernel, perfs.1 (by decide +kernel), perfs.2.1 (by decide +kernel), perfs.2.2 (by decide +kernel),
   by decide +kernel, by decide +kernel, by decide +kernel⟩

/-- MatrixPerforms: MLD.A, MLD.B and MPUSH at the ends of their slots, with the queue of rows empty and full; the last row of a store; a commit of a context that
runs. -/
theorem witness_matrix_moves :
    3 < (s1.seq 0).slots.length ∧ 3 < (s1.seq 0).tiles.length ∧ (s1.seq 0).queue.length < 64 ∧
    64 ≤ ((onSeq (fun q => { q with queue := List.replicate 64 { tag := 0, words := [] } })).seq 0).queue.length ∧
    (let c := { cmd1 (.mst 3 0 0 false true) 0x10000 256 with row := 63 };
      let s := onSeq (fun q => { q with tiles := q.tiles.set 3 { valid := true } }); let x := (s.seq 0).tile 3;
      let l : Leaf := { lg := 30, u := true, x := true, w := true }; let bs := storeRow x.kind 0 32 (RM.ofCode 0) false (x.row 63);
      storeBits x.kind 0 = some 32 ∧ c.a.toNat + c.row * (c.b.toNat % 2 ^ 32) = 0x13F00 ∧ 0x13F00 % 256 + bs.length ≤ 256 ∧
      (∃ v, s.translate (s.wg 0).core (s.wg 0).troot (s.wg 0).trgen 0x13F00 .store (s.wg 0).prv = (v, .leaf l)) ∧
      let v := (s.translate 0 0 0 0x13F00 .store true).1;
      v.stale l (l.at 0x13F00) = false ∧ l.m = false ∧ v.wholeCause (l.at 0x13F00) = none ∧ v.onHold (l.at 0x13F00) = false ∧
      v.homeBusy 0 true (l.at 0x13F00) bs.length (.seq 0) = false) ∧
    (s1.seq 0).phase = .ready :=
  ⟨by decide +kernel, by decide +kernel, by decide +kernel, by decide +kernel, ⟨by decide +kernel, by decide +kernel, by decide +kernel, snd (by decide +kernel), by decide +kernel⟩, by decide +kernel⟩

/-- MatrixWarpWords: a warp of 64 lanes and a row; MTRD under MR.PX; MTWR of lane 0 to the last element; a free signal slot. -/
theorem witness_matrix_warp_words :
    (s1.wgOf 0).matrix = true ∧
    (let r : QRow := { tag := 1, words := List.replicate 64 2 };
      let s := on ((onSeq (fun q => { q with queue := [r] })).modWarp 0 (fun w => { w with width := 64 })) (fun x => x.setAct 64 (onesMask 64));
      s.me.awaiting = false ∧ s.widthOf 0 = 64 ∧ s.lanes ≠ 0 ∧ (s.seq 0).queue = [r]) ∧
    RegsReady s1 [6, 4] ∧ (15 : BitVec 4).toNat < s1.tileCount 0 ∧ (s1.seq 0).infl 15 = false ∧
    (let s := on s1 (fun x => { x with mr := 0x80007 });
      mrPX s.me.mr = true ∧ (∀ l, s.lanes.getLsbD l = true → (((s.warpOf 0).reg 4).lane l).isPoison = false ∧ (((s.warpOf 0).reg 6).lane l).isPoison = false)) ∧
    (let s := { one with wgs := (onSeq (fun q => { q with tiles := q.tiles.set 15 { valid := true } })).wgs };
      let t := s.modWarp 0 (fun w => { w with v := w.v.set 4 (.uniform (.val 4095)) });
      ((t.seq 0).tile 15).shadow = false ∧ (t.seq 0).tiles.any (fun u => u.shadow && u.target == 15) = false ∧ lanesIn (t.widthOf 0) t.lanes = [0] ∧
      ((t.warpOf 0).reg 4).lane 0 = .val 4095 ∧ ((t.seq 0).tile 15).valid = true ∧ 15 < (t.seq 0).tiles.length) ∧
    (s1.seq 0).sig.getD 3 none = none ∧ s1.fenceWait 0 0 = none :=
  ⟨by decide +kernel, by decide +kernel, ready (by decide +kernel), by decide +kernel, by decide +kernel,
   ⟨by decide +kernel, lanes (by decide +kernel)⟩, by decide +kernel, by decide +kernel, by decide +kernel⟩

/-- HandleOperations: handle 3, the last: free, full, filling without and with a fault record, draining; a ring at its last stage. -/
theorem witness_handle_operations :
    let s (e : Entry) : State := s1.modEntry 0 3 (fun _ => e);
    let f : CopyFault := { detail := 0x105, dst := false, cause := 0x105, off := 0, va := 0, coord := [], arrived := 0 };
    0 < s1.wgs.length ∧ 3 < (s1.wg 0).entries.length ∧ ((s {}).wg 0).entry 3 = {} ∧
    (((s { st := .full }).wg 0).entry 3).st = .full ∧ (((s { st := .full }).wg 0).entry 3).copy = none ∧ (s { st := .full }).entryDone 0 3 = false ∧
    (((s { st := .filling }).wg 0).entry 3).kind = 0 ∧ (((s { st := .filling, kind := 1 }).wg 0).entry 3).kind ≠ 0 ∧
    (((s { st := .draining }).wg 0).entry 3).st = .draining ∧
    (((s { st := .filling, fault := true, frec := some f }).wg 0).entry 3).frec = some f ∧
    ((s1.wg 0).rings[0]? = some { stages := 2, first := 0 }) ∧
    ((s1.modWg 0 (fun w => { w with rings := [{ stages := 2, first := 0, pStage := 1 }] })).wg 0).rings[0]? = some { stages := 2, first := 0, pStage := 1 } := by decide +kernel

/-- The copy of handle 0 issued. -/
def issued : State :=
  match issueCopy (.split 0) 0 { kind := 1, win := false, h := 0, recAddr := 0x10000, rec_ := some layout1, aux := 0, prv := true, coord := [0, 0, 0, 0, 0] } copier with
  | .ok u _ => u
  | _ => s1

/-- HandleOperations and CopiesProceed: the copy of handle 0 has faulted; attached to its issuer alone. -/
theorem witness_copy_resumes :
    let s := issued.modEntry 0 0 (fun e => { e with fault := true });
    ∃ c, ((s.wg 0).entry 0).st = .filling ∧ ((s.wg 0).entry 0).fault = true ∧ ((s.wg 0).entry 0).copy = some 0 ∧ s.copyOf 0 = some c ∧ c.attached = [(0, 0)] :=
  ⟨_, by decide +kernel, by decide +kernel, by decide +kernel, rfl, by decide +kernel⟩

/-- HandleOperations: a copy that has failed, whose handle's fault CP.RESUME clears. -/
theorem witness_copy_resumed :
    let f : CopyFault := { detail := 0x105, dst := false, cause := 0x0A1, off := 64, va := 0, coord := [], arrived := 0 };
    let s := (issued.modEntry 0 0 (fun e => { e with fault := true })).modCopy 0 (fun c => { c with issuer := true, fail := some (f, 64) });
    ∃ c, ((s.wg 0).entry 0).st = .filling ∧ ((s.wg 0).entry 0).fault = true ∧ ((s.wg 0).entry 0).copy = some 0 ∧ s.copyOf 0 = some c ∧ (0, 0) ∈ c.served ∧
      c.fail = some (f, 64) :=
  ⟨_, by decide +kernel, by decide +kernel, by decide +kernel, rfl, by decide +kernel⟩

/-- CopyWords: CP.TENSOR with no lane; with lane 0 as its leader, handle 4 in v4 filling, and its record at the address in s2 and s3. -/
theorem witness_copy_words :
    let s := copier.modEntry 0 0 (fun e => { e with st := .free });
    let s := { s with wgs := s.wgs.modify 0 (fun w => { w with entries := w.entries ++ [{ size := 4096, st := .filling }] }) };
    RegsReady s [4, 6] ∧ (on s (fun x => { x with mr := 4 })).lanes = 0 ∧ lowestLane s.lanes = some 0 ∧ s.me.sreg 2 = .val 0x10000 ∧ s.me.sreg 3 = .val 0 ∧
    (∃ t, s.readLayout (.split 0) 0 0x10000 s.me.prv = (t, .ok (1, some layout1))) ∧
    (let t := (s.readLayout (.split 0) 0 0x10000 s.me.prv).1;
      (∀ d ∈ (List.range layout1.ndim).filter (fun d => !(1 == 3 && d == 1)), 6 + d < (t.wgOf 0).alloc ∧ (t.warpOf 0).absent.getLsbD ((6 + d) / 8) = false) ∧
      t.copyPasses 0 { kind := 1, win := false, h := 4, recAddr := 0x10000, rec_ := some layout1, coord := [4, 0, 0, 0, 0], aux := 0, prv := s.me.prv }) ∧
    s.me.awaiting = false :=
  ⟨ready (by decide +kernel), by decide +kernel, by decide +kernel, by decide +kernel, by decide +kernel, snd (by decide +kernel),
   ⟨by decide +kernel, passes (by decide +kernel)⟩, by decide +kernel⟩

/-- CopyWords: the handle words on handle 4 in s0, which fills, is full or free; and on ring 0 in s1. -/
theorem witness_handle_words :
    s1.ssrc 0 0 = .val 4 ∧ s1.ssrc 0 1 = .val 0 ∧
    s1.entryIs 0 0 .free ∧ copier.freeable 0 0 ∧ (s1.modEntry 0 0 (fun e => { e with st := .full })).fullAt 0 0 false ∧ 0 < (s1.wg 0).rings.length ∧
    (issued.modEntry 0 0 (fun e => { e with fault := true })).resumable 0 0 ∧ issued.entryIs 0 0 .filling ∧ s1.me.awaiting = false :=
  ⟨by decide +kernel, by decide +kernel, is (by decide +kernel), .inr ⟨is (by decide +kernel), by decide +kernel⟩, ⟨is (by decide +kernel), by decide +kernel⟩,
   by decide +kernel, ⟨is (by decide +kernel), by decide +kernel, _, _, rfl, rfl⟩, is (by decide +kernel), by decide +kernel⟩

/-- CopiesProceed: the box of 256 bytes fits; the copy has a unit to send; once it has been sent it is in flight; the last one fills the handle. -/
theorem witness_copies_proceed :
    (∃ e, (copier.wg 0).entry 0 = e ∧ e.st = .filling ∧ e.kind = 0 ∧ 2 ^ layout1.fmt * layout1.dim.foldl (fun a d => a * d) 1 ≤ e.size) ∧
    ((issued.wg 0).entry 0).copy = some 0 ∧ copier.tagCancelled (dieOfCore (copier.wg 0).core) (copier.wg 0).ltag = false ∧
    (∃ c, issued.copyOf 0 = some c ∧ (decide (c.stop = false ∧ c.fail = none ∧ c.sent < c.bytes ∧ c.flight.length < 32) &&
      ((sendUnit 0 c issued).copyOf 0).any (fun d => d.flight.head?.any (fun u => decide (d.kind = 1 ∧ d.win = false ∧ d.dests = [] ∧ d.issuer = true ∧
        d.own = true ∧ d.wg = 0 ∧ d.h = 0 ∧ d.again = 0 ∧ d.stop = false ∧ u.n = 256 ∧ u.more = [])))) = true) ∧
    (let s := issued.modEntry 0 0 (fun e => { e with arrived := 256 }); s.entryDone 0 0 = true) :=
  ⟨⟨_, rfl, by decide +kernel⟩, by decide +kernel, by decide +kernel, found (by decide +kernel), by decide +kernel⟩

/-- CopiesProceed: a copy of node 0 of tree 8, whose removal has reached its die. -/
theorem witness_copy_cancelled :
    let s := { issued.modCopy 0 (fun c => { c with ltag := 0x80100 }) with
      cancels := [{ tree := 8, whole := false, nodes := [(0, 1)], sent := 0, done := 17000000, arrived := 1 }] };
    s.copyOf 0 |>.any (fun c => !c.stop && s.tagCancelled (dieOfCore c.core) c.ltag) := by decide +kernel

/-- CopiesProceed: a store copy with a unit in flight; a copy that has failed with none; a delivery to a member whose handle fills. -/
theorem witness_copy_stores :
    let u : Machine.Unit := { off := 0, n := 256, va := 0x20000, span := { block := 0x200, first := 0, count := 64 }, leaf := { lg := 30, w := true, u := true }, data := List.replicate 256 1 };
    let s := issued.modCopy 0 (fun c => { c with kind := 2, flight := [u] });
    (∃ c, s.copyOf 0 = some c ∧ c.flight[0]? = some u ∧ c.kind = 2 ∧ s.wholeCause u.span.base = none ∧
      s.homeBusy (dieOfCore c.core) true u.span.base (4 * u.span.count) (.copy 0) = false) ∧
    (let t := issued.modCopy 0 (fun c => { c with fail := some ({ detail := 0x105, dst := false, cause := 0x0A1, off := 0, va := 0, coord := [], arrived := 0 }, 0) });
      ∃ c, t.copyOf 0 = some c ∧ c.fail.isSome = true ∧ c.raised = false ∧ c.flight = [] ∧ c.stop = false) ∧
    (let t := { issued with wgs := issued.wgs ++ [{ wg1 with rank := 1, entries := [{ size := 4096, st := .filling }] }] }.modCopy 0 (fun c =>
        { c with kind := 4, dests := [{ wg := 1, rank := 1, accepted := false }] });
      ∃ c d, t.copyOf 0 = some c ∧ c.dests.find? (fun x => x.rank == 1 && !x.accepted) = some d ∧ d.wg < t.wgs.length ∧ c.h < (t.wg d.wg).entries.length ∧
        ((t.wg d.wg).entry c.h).st = .filling ∧ ((t.wg d.wg).entry c.h).kind = 0 ∧ c.stop = false ∧ d.wg ≠ c.wg) :=
  ⟨⟨_, rfl, by decide +kernel⟩, ⟨_, rfl, by decide +kernel⟩, _, _, rfl, rfl, by decide +kernel⟩


/-- A request of the split to an engine of die 0. -/
def eng1 (op : EngOp) (vals : List Nat) : EngReq :=
  { id := 9, party := .split 0, core := 0, die := 0, op := op, d := 6, vals := vals, prv := true, pc := 0x1000, mr := 7 }

def askedEng (op : EngOp) (vals : List Nat) : State := { s1 with reqs := [.eng (eng1 op vals)] }

/-- Tree 8, of die 0, with 300 prefix tokens, page 0 as its prefix page and page 8 as its first frontier page; its node 0 lives. -/
def tree1 : Tree :=
  { id := 8, plen := 300, flog := 3, pages := [[0]], front := [(0, [8])], nodes := { st := .live, pos := 300, anc := 1 } :: List.replicate 255 {} }

def grown (s : State) : State := { s.modDie 0 (fun d => { d with lcnt := 8 }) with trees := [tree1], pool := [{ page := 0 }, { page := 8 }] }

/-- LineageWords: TREE.NEW of 1 stream, the handle of tree 8 in s0, a lane's handle of its node 0 with a key block, and the bounds of KV.APPEND. -/
theorem witness_lineage_words :
    let s := (on s1 (fun x => (x.setS 32 0 (.val 0x80000)).setS 32 1 (.val 4096))).modWarp 0 (fun w =>
      { w with v := (w.v.set 4 (.uniform (.val 0x80100))).set 5 (.uniform (.val 0x800000E0)) });
    (s.me.awaiting = false ∧ s.scopeUnsync (dieOfCore (s.coreOf 0)) 2 = false ∧ s.fenceWait 0 2 = none ∧ s1.ssrc 0 0 = .val 4 ∧ (s1.die 0).lEn = true ∧
    (4 : Word).toNat / 2 ^ 24 = 0 ∧ (4 : Word).toNat / 2 ^ 8 % 2 ^ 8 = 0 ∧ (4 : Word).toNat / 2 ^ 20 % 16 ≤ 8 ∧ (4 : Word).toNat / 2 ^ 16 % 16 ≤ 8 ∧
    s.ssrc 0 0 = .val 0x80000 ∧ s.lineageOff 0 [0x80000] = none ∧ (s.die (treeOf 0x80000 % 8)).lost = none ∧
    s.sbsrc 0 8 = .val 0 ∧ s.sbsrc 0 1 = .val 4096) ∧ RegsReady s [6, 7, 4, 5] ∧
    (let f : Nat → List Nat := fun _ => [0x80100, 0x800000E0];
      s.lineageOff 0 ((lanesIn (s.widthOf 0) s.lanes).map (fun l => (f l).getD 0 0)) = none ∧
      (∀ l, s.lanes.getLsbD l = true → [(s.vsrc 0 4).lane l, (s.vbsrc 0 5).lane l] = (f l).map (fun v => .val (BitVec.ofNat 32 v)) ∧
        (∀ v ∈ f l, v < 2 ^ 32) ∧ keyOk ((f l).getD 1 0) = true ∧ (f l).length = 2)) :=
  ⟨by decide +kernel, ready (by decide +kernel), by decide +kernel,
   lanes (by decide +kernel)⟩

/-- LineageHomes: TREE.RD and MASKGEN answer at once; a free tree number; a live node and a free slot on an allocated page; key blocks of the prefix and of
the frontier. -/
theorem witness_lineage_homes :
    let s (op : EngOp) : State := grown (askedEng op [0x80000, 0]);
    ((s (.treeRd 0)).engReq 9 = some (eng1 (.treeRd 0) [0x80000, 0]) ∧ (s (.treeRd 0)).treeWaits (eng1 (.treeRd 0) [0x80000, 0]) = false ∧
      (∃ t p, performTree (eng1 (.treeRd 0) [0x80000, 0]) (s (.treeRd 0)) = (t, some p) ∧ p.ready ≤ t.nowDie 0) ∧ (EngOp.treeRd 0).isTree = true ∧
      (s (.treeRd 0)).serves 0 ∧ (eng1 (.treeRd 0) [0x80000, 0]).reply = none) ∧
    (let r := eng1 (.maskgen true) [0x80000, 0];
      ((s1.modDie 0 (fun d => { d with lost := some 5 })).die 0).lost ≠ none ∧ r.reply = none ∧ r.die = 0 ∧
      (EngReply.ready {} ≤ s1.nowDie 0) ∧ ({ r with reply := some {} } : EngReq).reply = some {}) ∧
    (∃ t p, performTree (eng1 (.maskgen false) [0x80000, 0]) (s (.maskgen false)) = (t, some p) ∧ p.ready ≤ t.nowDie 0) ∧
    (s (.treeRd 0)).freeTree 0 = some 0 ∧ 2 ≤ (s (.treeRd 0)).blocksFree 0 ∧
    (grown s1).liveTree 8 0 = some tree1 ∧ genOfHandle 0x100 ≠ 0 ∧ tree1.liveNode 0x100 = some 0 ∧ (tree1.node 0).pos + 1 < 2 ^ 24 ∧
    (List.range (2 ^ tree1.flog)).find? (fun n => (tree1.node n).st == .free) = some 1 ∧ 1 < tree1.nodes.length ∧
    tree1.front.any (fun p => p.1 == 1 / tree1.perPage) = true ∧ tree1.liveSlots ≠ [] ∧ (0 : Nat) < 2 ^ 31 ∧ (2 ^ 31 : Nat) ≤ 2 ^ 31 ∧ genOfHandle 0 = 0 :=
  ⟨⟨by decide +kernel, by decide +kernel, replied (by decide +kernel), rfl, .inl (by decide +kernel), rfl⟩, by decide +kernel, replied (by decide +kernel),
   by decide +kernel⟩

/-- LineageHomes: a pruned slot whose time has come, a releasing tree that is due, a lapsed page, a set on its way to die 7. -/
theorem witness_lineage_times :
    (let x := { tree1 with nodes := tree1.nodes.set 2 { st := .pruned, tend := 16000000 } };
      let s := { grown s1 with trees := [x] };
      s.tree 8 = some x ∧ (s.dueSlots x).contains 2 = true) ∧
    (let x := { tree1 with live := false, freeAt := 16000000 }; { grown s1 with trees := [x] }.tree 8 = some x ∧ { grown s1 with trees := [x] }.treeDue x = true) ∧
    (let p : PoolPage := { page := 0, count := 0, lapse := 16000000 }; { grown s1 with pool := [p] }.pageLapsed p = true) ∧
    (let c : CancelSet := { tree := 8, whole := false, nodes := [(0, 1)], sent := 16000000, done := 16000000 };
      { s1 with cancels := [c] }.cancels[0]? = some c ∧ c.arrived.getLsbD 7 = false ∧ (s1.die 7).lost = none ∧ c.sent ≤ s1.nowDie (c.tree % 8)) := by decide +kernel

/-- What a tree's pages grow to where none is shared. -/
def grownTree (x : Tree) (n : Nat) (s : State) : Option (State × Tree) :=
  match growTree x n [] s with
  | .inl (t, y, []) => some (t, y)
  | _ => none

/-- A tree that grows. -/
theorem grows {x : Tree} {n : Nat} {s : State} (h : (grownTree x n s).isSome = true) : ∃ t y, growTree x n [] s = .inl (t, y, []) := by
  unfold grownTree at h
  split at h
  · exact ⟨_, _, by assumption⟩
  · cases h

/-- LineageHomes: what TREE.CLONE needs; the handles of NODE.PRUNE: of no node, of a live, committed and pruned node, of an older generation; what NODE.COMMIT needs
without another branch and with one; trees that grow within their page and past it; the words on a node and on the prefix. -/
theorem witness_tree_operations :
    let s := grown s1; let x := tree1;
    let node (st : NodeState) : Node := { tree1.node 0 with st := st };
    let two : Tree := { x with nodes := x.nodes.set 1 { st := .live, pos := 301, anc := 2 } };
    let bare : Tree := { x with nodes := List.replicate 256 {} };
    (s.tree 8 = some x ∧ s.freeTree 1 = some 1 ∧ (∀ n ∈ x.pages.flatMap id, s.pageCount n < 65535) ∧
      { id := 1, nstrm := x.nstrm, slog := x.slog, flog := x.flog, plen := x.plen, dom := 0, pages := x.pages : Tree }.blocks ≤ s.blocksFree 1) ∧
    (genOfHandle 0x100 ≠ 0 ∧ (x.node (slotOf 0x100)).ngen = genOfHandle 0x100 ∧ (x.node 0).st = .live ∧ (x.node 0).ngen ≠ genOfHandle 0x200 ∧
      (node .committed).st = .committed ∧ (node .pruned).st = .pruned) ∧
    (x.liveNode 0x100 = some 0 ∧ x.liveSlots.filter (fun j => !(x.node 0).anc.getLsbD j && !(x.below 0).contains j) = [] ∧ x.plen + (x.node 0).depth < 2 ^ 24 ∧
      (∃ t y, growTree x (x.node 0).depth [] s = .inl (t, y, [])) ∧
      s.copyBusy (x.id % 8) (s.commitBlocks x ((grownTree x (x.node 0).depth s).elim x Prod.snd) (x.path 0)) = false) ∧
    two.liveSlots.filter (fun j => !(two.node 0).anc.getLsbD j && !(two.below 0).contains j) = [1] ∧
    (bare.liveSlots = [] ∧ bare.plen + 1 < 2 ^ 24 ∧ (∃ t y, growTree bare 1 [] s = .inl (t, y, []))) ∧
    (x.pages.length = x.nstrm ∧ (∃ t y, growTree x 300 [] s = .inl (t, y, []))) ∧
    (s.liveTree 8 0 = some x ∧ s.liveTree 9 0 = none ∧ genOfHandle 0 = 0 ∧ 0 < x.nstrm ∧ 299 < x.plen ∧ x.plen ≤ 300 ∧ x.liveNode 0x101 = none ∧
      x.front.find? (fun f => f.1 == 0 / x.perPage) = some (0, [8])) := by
  refine ⟨by decide +kernel, by decide +kernel, ⟨by decide +kernel, by decide +kernel, by decide +kernel, grows (by decide +kernel), by decide +kernel⟩, by decide +kernel,
    ⟨by decide +kernel, by decide +kernel, grows (by decide +kernel)⟩, ⟨by decide +kernel, grows (by decide +kernel)⟩, by decide +kernel⟩

/-- LineageHomes: no slot, tree or page is due, so that an operation finds its tree; what NODE.PRUNE, NODE.COMMIT and KV.APPEND then give. -/
theorem witness_tree_performs :
    let s := grown s1;
    settleTrees s = s ∧ (EngOp.nodeRd 1).wide = false ∧ EngOp.treeRel.wide = true ∧ s.handleTree 0x80000 0 = some tree1 ∧ tree1.claims s = [] ∧
    (match nodePrune tree1 0x100 s with
      | (_, .inl _) => true
      | _ => false) = true ∧
    (match nodeCommit tree1 0x100 false [] s with
      | .ok _ _ _ => true
      | _ => false) = true ∧
    (match kvAppend tree1 1 [] s with
      | .ok _ _ _ => true
      | _ => false) = true := by
  refine ⟨by decide +kernel, by decide +kernel, by decide +kernel, by decide +kernel, by decide +kernel, by decide +kernel, by decide +kernel, by decide +kernel⟩

/-- TaskWords: a deque header and a record at multiples of 64 with a translation; die 7; a counter that is zero; an unpoisoned bound. -/
theorem witness_task_words :
    let s := on s1 (fun x => (x.setS 32 4 (.val 0x20040)).setS 32 6 (.val 7));
    s.me.awaiting = false ∧ s.spair 0 2 = some 0x10000 ∧ s.spair 0 4 = some 0x20040 ∧ 0x10000 % 64 = 0 ∧ 0x20040 % 64 = 0 ∧
    s.scopeUnsync (dieOfCore (s.coreOf 0)) 2 = false ∧ s.fenceWait 0 2 = none ∧
    (∃ t, s.translate 0 0 0 0x10000 .store s.me.prv = (t, .leaf { lg := 30, u := true, x := true, w := true })) ∧
    (∃ t, s.translate 0 0 0 0x10000 .load s.me.prv = (t, .leaf { lg := 30, u := true, x := true, w := true })) ∧
    s.sbsrc 0 6 = .val 7 ∧ (s.die 7).lost = none ∧
    (∃ t, taskAt (s.engOf 0 .depDec 0 0 [] []) 0x10000 4 .load s = (t, .ok { lg := 30, u := true, x := true, w := true })) ∧
    (taskAt (s.engOf 0 .depDec 0 0 [] []) 0x10000 4 .load s).1.readNat 0 0x10000 4 = 0 ∧ s.me.prv = true :=
  ⟨by decide +kernel, by decide +kernel, by decide +kernel, by decide +kernel, by decide +kernel, by decide +kernel, by decide +kernel, snd (by decide +kernel),
   snd (by decide +kernel), by decide +kernel, by decide +kernel, snd (by decide +kernel), by decide +kernel⟩

/-- TaskHomes: a pop of an empty deque and a decrement answer; a deque with room and one that is full; queues, a bound, an enqueue and a give-back. -/
theorem witness_task_homes :
    let deque (bot : Nat) : State := { askedEng .tqPop [0x10000] with mem := cellsWrite [] 0x10000 (bytesOfNat 4 0 ++ bytesOfNat 4 bot ++ bytesOfNat 8 1 ++ bytesOfNat 8 0x20000) };
    let r := eng1 .tqPop [0x10000];
    (deque 0).serves 0 ∧ ((deque 0).engReq 9 = some r ∧ r.reply = none ∧ r.op.isDeque = true ∧ ∃ t p, performDeque r (deque 0) = (t, some p) ∧ p.ready ≤ t.nowDie 0) ∧
    (∃ t p, performDec (eng1 .depDec [0, 0x10000, 0]) (askedEng .depDec [0, 0x10000, 0]) = (t, some p) ∧ p.ready ≤ t.nowDie 0) ∧
    (∃ t p, performDec (eng1 .depDec [0, 0x10000, 0]) (askedEng .depDec [0, 0x10000, 0] |>.modDie 0 (fun d => { d with delta := 160 })) = (t, some p)) ∧
    (∃ t, readDeque r 0x10000 (deque 1) = (t, .ok ({ top := 0, bot := 1, clog := 1, buf := 0x20000, ok := true }, { lg := 30, u := true, x := true, w := true }))) ∧
    ({ top := 0, bot := 1, clog := 1, buf := 0x20000, ok := true } : Deque).ok = true ∧
    ({ top := 0, bot := 1, clog := 1, buf := 0x20000, ok := true } : Deque).count ≠ 2 ^ 1 ∧
    ({ top := 0, bot := 2, clog := 1, buf := 0x20000, ok := true } : Deque).count = 2 ^ 1 ∧
    (∃ u, taskAt r 0x20008 8 .store (deque 1) true = (u, .ok { lg := 30, u := true, x := true, w := true })) :=
  ⟨.inl (by decide +kernel), ⟨by decide +kernel, rfl, rfl, replied (by decide +kernel)⟩, replied (by decide +kernel), performed (by decide +kernel), snd (by decide +kernel),
   by decide +kernel, by decide +kernel, by decide +kernel, snd (by decide +kernel)⟩

/-- TaskHomes: a stored answer whose time has come; a counter of 1 in an armed block; entries in order; an idle queue; a bound; an enqueue; a give-back. -/
theorem witness_task_events :
    (let r := { eng1 .depDec [0, 0x10000, 0] with reply := some { ready := 16000000 } };
      { s1 with reqs := [.eng r] }.engReq 9 = some r ∧ ({ ready := 16000000 } : EngReply).ready ≤ s1.nowDie r.die) ∧
    (let q : List PqEntry := [{ key := 1, addr := 64, tag := 0, seq := 3 }, { key := 1, addr := 128, tag := 0, seq := 5 }];
      q.Pairwise (fun a b => a.before b = true) ∧ ∀ a ∈ q, a.seq ≠ ({ key := 1, addr := 192, tag := 0, seq := 4 } : PqEntry).seq) ∧
    (s1.die 0).lost = none ∧
    (let r := eng1 (.bndMin 7) [5];
      { s1 with reqs := [.eng r] }.reqs = [.eng r] ∧ r.op = .bndMin 7 ∧ r.reply = none ∧ clusterOfCore r.core = 0 ∧ r.time = 0) ∧
    (let s := { sendBound 0 7 5 s1 with reqs := [] }; (s.core 3).bndWay.find? (fun x => x.k == 7) = some { k := 7, val := 5, time := s1.nowDie 0 }) ∧
    (let a : AutoEnq := { pa := 0x30000, key := 0, ctl := 2 ^ 31 + 7, addr := 0x20040, core := 0, root := 0, rgen := 0, prv := true };
      let s := { s1 with autos := [a] };
      s.autos[0]? = some a ∧ bitsOf a.ctl 8 23 = 0 ∧ bitsOf a.ctl 3 4 = 0 ∧
      (∃ t, readKey { id := 0, party := .device, core := a.core, die := homeDie a.pa, op := .pqIns, prv := a.prv, pc := 0, mr := 7, root := a.root, rgen := a.rgen }
        a.addr { s with autos := s.autos.eraseIdx 0 } = (t, .ok { flags := 0, succ := 0, key := 0, tag := 0 })) ∧
      s1.tagCancelled (homeDie a.pa) 0 = false ∧ (s1.die (a.ctl % 8)).lost = none ∧
      (pqQueue (a.ctl % 8) { key := 0, addr := a.addr, tag := 0 } s1).isSome = true) ∧
    (let b : GiveBack := { req := eng1 .pqMin [0], entry := { key := 1, addr := 64, tag := 0 } };
      { s1 with gives := [b] }.gives[0]? = some b ∧ b.req.op = .pqMin ∧ s1.tagCancelled b.req.die b.entry.tag = false ∧ (pqQueue 0 b.entry s1).isSome = true) :=
  ⟨by decide +kernel, by decide +kernel, by decide +kernel, by decide +kernel, by decide +kernel,
   ⟨by decide +kernel, by decide +kernel, by decide +kernel, snd (by decide +kernel), by decide +kernel⟩, by decide +kernel⟩


/-- TaskWords: the counter of DEP.WAIT has no write of its core before it. -/
theorem witness_dep_wait :
    let t := (taskAt (s1.engOf 0 .depDec 0 0 [] []) 0x10000 4 .load s1).1;
    t.acceptedWrites (t.l1Core (s1.coreOf 0) 0x10000) (spanOf 0x10000 4) = [] := by decide +kernel

/-- TaskHomes: a deque of one record, whose tag is not cancelled, popped and stolen from; an empty one; a counter of 1 in an armed block, and one of 2. -/
theorem witness_task_ends :
    let deque (op : EngOp) (bot : Nat) : State := { askedEng op [0x10000] with
      mem := cellsWrite [] 0x10000 (bytesOfNat 4 0 ++ bytesOfNat 4 bot ++ bytesOfNat 8 1 ++ bytesOfNat 8 0x20000) ++ cellsWrite [] 0x20000 (bytesOfNat 8 0x30000) };
    let q (bot : Nat) : Deque := { top := 0, bot := bot, clog := 1, buf := 0x20000, ok := true };
    let l : Leaf := { lg := 30, u := true, x := true, w := true };
    (∀ op ∈ [EngOp.tqPop, .tqSteal], let r := eng1 op [0x10000]; let s := deque op 1;
      s.noRoute 0 r.die = false ∧ s.opBehind r = false ∧ s.dequeAhead r = false ∧ (op = .tqPop ∨ op = .tqSteal) ∧
      (readDeque r 0x10000 s).2 = .ok (q 1, l) ∧ (q 1).count ≠ 0 ∧
      let t := (readDeque r 0x10000 s).1;
      (taskRead r ((q 1).entry 0) 8 t).2 = .ok (bytesOfNat 8 0x30000) ∧
      (readTag r 0x30000 (taskRead r ((q 1).entry 0) 8 t).1).2 = .ok { flags := 0, succ := 0, key := 0, tag := 0 } ∧
      (readTag r 0x30000 (taskRead r ((q 1).entry 0) 8 t).1).1.tagCancelled r.die 0 = false) ∧
    ((1 : Nat) + 2 ^ 32 - 1) % 2 ^ 32 = 0 ∧ (q 0).count = 0 ∧ (readDeque (eng1 .tqPop [0x10000]) 0x10000 (deque .tqPop 0)).2 = .ok (q 0, l) ∧
    (let s := askedEng .depDec [0, 0x10000, 1]; let r := eng1 .depDec [0, 0x10000, 1];
      s.noRoute 0 r.die = false ∧ s.opBehind r = false ∧ ∃ u, counterAt r 0x10000 s = (u, .ok (l, 0x10000))) ∧
    (let m : State := { s1 with mem := cellsWrite [] 0x10000 (bytesOfNat 4 1 ++ bytesOfNat 4 0x87) };
      m.readNat l.key 0x10000 4 = 1 ∧ (1 + 2 ^ 32 - 1 % 2 ^ 32) % 2 ^ 32 = 0 ∧ 0x10000 % 16 = 0 ∧ (m.readNat l.key 0x10004 4).testBit 7 = true) ∧
    s1.stopped 0 = false :=
  ⟨by decide +kernel, by decide +kernel, by decide +kernel, by decide +kernel, ⟨by decide +kernel, by decide +kernel, snd (by decide +kernel)⟩,
   by decide +kernel, by decide +kernel⟩

/-! ## A machine with a queue -/

/-- Queue 0, active, of die 0, with 16 slots at 0x200000 and one context area, under a root whose first gigabyte is itself; packet 0 is ready. -/
def queue0 : Queue := { qbase := 0x200000, qcfg := 0x14040, qroot := 0x150000, qctx := 0x1000000, qsave := 0x300000, qdb := 1, en := true, state := .active, launches := [] }

def queued (packet : List Host.Cell) : State :=
  { s1 with mem := [(0x150000, 1), (0x150002, 0x16), (0x160000, 1), (0x160002, 0x17), (0x170000, 0x1F)] ++ packet ++
              [(0x210000, 1), (0x210004, 3), (0x210005, 64), (0x210006, 1), (0x210011, 0x10)]
            wgs := [], warps := [], splits := [], launches := [], queues := [queue0, {}] }

/-- That descriptor: code at 0x1000, 64 registers, one numbered barrier, width 32. -/
def descriptor1 : List Byte := [1, 0, 0, 0, 3, 64, 1, 0] ++ List.replicate 8 0 ++ bytesOfNat 8 0x1000 ++ List.replicate 104 0

/-- A DISPATCH of one workgroup of 32 lanes on die 0, whose descriptor stands at 0x210000. -/
def dispatch1 : List Byte := [1, 0, 0, 0, 0, 0, 32, 0, 1, 0, 1, 0, 1, 0, 1, 0] ++ bytesOfNat 8 0x210000 ++ bytesOfNat 8 0 ++ bytesOfNat 4 1 ++ bytesOfNat 4 0 ++
  bytesOfNat 8 0x220000 ++ bytesOfNat 8 7 ++ bytesOfNat 4 0xFFFFFFFF ++ bytesOfNat 4 0

/-- Its bytes that are not zero, at the head of the queue. -/
def packet1 : List Host.Cell :=
  [(0x200000, 1), (0x200006, 32), (0x200008, 1), (0x20000A, 1), (0x20000C, 1), (0x20000E, 1), (0x200012, 0x21), (0x200020, 1), (0x20002A, 0x22), (0x200030, 7),
   (0x200038, 255), (0x200039, 255), (0x20003A, 255), (0x20003B, 255)]

/-- QueuePackets: the host is there; a disabled, an active and a failed queue; a NOP, a malformed packet and one of a reserved type at the head of its lane. -/
theorem witness_queue_packets :
    let ok (c : List Host.Cell) (p : List Byte) : Prop := let s := queued c; let b := p ++ List.replicate (64 - p.length) 0;
      s.laneOpen 0 = true ∧ (∃ t, s.headPacket 0 = (t, .ok b)) ∧
      (s.headPacket 0).1.barred 0 b = false ∧ (s.headPacket 0).1.laneBehind 0 (packetRank (fieldOf b 0 1)) = false;
    0 < (queued []).queues.length ∧ (queued []).hostOn = true ∧ ((queued []).queue 1).state = .disabled ∧ ((queued []).queue 0).state = .active ∧
    ((queued []).queue 0).en = true ∧ (queued []).allSaved 0 = false ∧
    (((queued []).modQueue 0 (fun x => { x with state := .error })).queue 0).state = .error ∧
    ok [(0x200000, 4)] [4] ∧ headerOk [4] = true ∧ ok [(0x200000, 4), (0x200002, 1)] [4, 0, 1] ∧ headerOk [4, 0, 1] = false ∧ ok [] [0] := by
  refine ⟨by decide +kernel, by decide +kernel, by decide +kernel, by decide +kernel, by decide +kernel, by decide +kernel, by decide +kernel, ?_, by decide +kernel, ?_, by decide +kernel, ?_⟩ <;>
    exact ⟨by decide +kernel, snd (by decide +kernel), by decide +kernel⟩

/-- QueuePackets: a WAIT whose condition holds and one whose does not, a SIGNAL, and a DISPATCH whose descriptor can be read and placed. -/
theorem witness_queue_packets_rest :
    (let t := queued [(0x200000, 2), (0x20000A, 0x23)]; (t.queue 0).waiting = none ∧
      (t.rooted (t.ccDie 0) (t.queue 0).qroot (t.queue 0).qrgen 0x230000 8 .load).2 = .ok { lg := 30, u := true, x := true, w := true } ∧
      t.homeCause 0x230000 8 = none ∧ headerOk [2] = true ∧ waitHolds 0 0 0 = true ∧ waitHolds 1 0 0 = false ∧
      (let w : QWait := { key := 0, pa := 0x230000, cond := 0, value := 0, woken := true };
        ((t.modQueue 0 (fun x => { x with waiting := some w })).queue 0).waiting = some w ∧ (t.modQueue 0 (fun x => { x with waiting := some w })).laneOpen 0 = true)) ∧
    (let t := queued packet1; packetOk (t.queue 0) dispatch1 = true ∧
      (∃ u, t.queueRead 0 (fieldOf dispatch1 0x10 8) 128 = (u, .ok descriptor1)) ∧
      (describe dispatch1 descriptor1 []).any (fun x => (launchCause (t.queueRead 0 (fieldOf dispatch1 0x10 8) 128).1 x).isNone) = true) :=
  ⟨by decide +kernel, by decide +kernel, snd (by decide +kernel), by decide +kernel⟩

/-- QueuePackets: a queue whose workgroups are all saved, with its record written; a SIGNAL taken before whose time has come. -/
theorem witness_queue_saved :
    (let s := (queued []).modQueue 0 (fun x => { x with state := .preempting });
      s.allSaved 0 = true ∧ ∃ t, s.queueWrite 0 (s.queue 0).qsave (s.queueRecord 0) = (t, .ok 16000000)) ∧
    (let s := (queued [(0x200000, 3)]).modQueue 0 (fun x => { x with signal := some (0x230000, 7, 0) });
      (s.queue 0).signal = some (0x230000, 7, 0) ∧ (s.queue 0).state = .active ∧ s.queueServed 0 = true ∧ s.signalDue 0 (s.queue 0).latest 0 = true ∧
      (writeSignal 0 0x230000 7 0 s).isSome = true) :=
  ⟨⟨by decide +kernel, snd (by decide +kernel)⟩, by decide +kernel⟩

/-- QueuePackets: the packet of queue 0 has passed, while its round still holds another lane's, and once it is over; a SIGNAL with none before it. -/
theorem witness_queue_rounds :
    (let s := (queued [(0x200000, 4)]).modQueue 0 (fun x => { x with passed := true });
      (s.queue 0).passed = true ∧ (s.queue 0).owner < 8 ∧ (s.queue 1).passed = false ∧ s.roundOver 0 = true) ∧
    (let s := ((queued [(0x200000, 4)]).modQueue 0 (fun x => { x with passed := true })).modQueue 1 (fun x => { x with signal := some (0x230000, 7, 0) });
      (s.queue 0).passed = true ∧ s.roundOver 0 = false) ∧
    ((queued [(0x200000, 3)]).modQueue 0 (fun x => { x with signal := some (0x230000, 7, 0) })).signalBehind 0 = false := by decide +kernel

/-- What DISPATCH made of that packet: launch 0, and its one workgroup still to be placed; and after it has been placed. -/
noncomputable def launched : State :=
  match exec (.dispatchPacket 0) (queued packet1) with
  | .next t => t
  | _ => queued []
noncomputable def placed : State :=
  match exec (.workgroupPlace 0) launched with
  | .next t => t
  | _ => queued []
noncomputable def started : State :=
  match exec (.workgroupStart 0) placed with
  | .next t => t
  | _ => queued []

/-- LaunchesAndSaves: the launch's workgroup may be placed on core 0, then bound and started. -/
theorem witness_launches :
    (launched.runList ((launched.queue 0).owner)).find? (fun k => (launched.nextPlace k).isSome) = some 0 ∧ (launched.launch 0).live = true ∧
    (launched.nextPlace 0).any (fun p => decide (p.1.map Prod.fst = [0] ∧ p.2 = [0])) = true ∧ launched.fusedLeft = [] ∧ (launched.launch 0).cgrp = 1 ∧
    placed.wgs.map (fun w => w.phase) = [.placed] ∧ (∃ t im, bindWg 0 placed = (t, some im)) ∧
    started.splits.map (fun x => (x.pc, x.phase)) = [(0x1000, .ready)] :=
  ⟨by decide +kernel, by decide +kernel, by decide +kernel, by decide +kernel, by decide +kernel, by decide +kernel, performed (by decide +kernel),
   by decide +kernel⟩

/-- A launch of queue 0 whose one workgroup has gone. -/
def finished : State :=
  { queued [] with launches := [{ live := true, next := 1, sig := 0x220000, sigval := 7 }] }.modQueue 0 (fun x => { x with launches := [0] })

/-- LaunchesAndSaves: the launch is over, successfully and by a cause, and its signal can be written; a die is idle; a queue is granted, handed over
and returned. -/
theorem witness_launch_ends :
    (let s := finished;
      (s.launch 0).live = true ∧ (s.launch 0).ended = none ∧ (s.launch 0).cut = false ∧ s.queueServed (s.launch 0).queue = true ∧ (s.launch 0).total ≤ (s.launch 0).next ∧ s.launchGone 0 = true ∧
      s.signalDue (s.launch 0).queue (s.launch 0).largest (s.launch 0).rel = true ∧
      (signalLaunch 0 (s.launch 0).sigval (s.launch 0).largest s).1.isSome = true) ∧
    (let s := finished.modLaunch 0 (fun x => { x with ended := some 0x28 });
      (s.launch 0).ended = some 0x28 ∧ s.launchGone 0 = true ∧ s.signalDue (s.launch 0).queue (s.launch 0).endTime (s.launch 0).rel = true ∧
      (signalLaunch 0 (0xFFFFFFFFFFFFFE00 + 0x28) (s.launch 0).endTime s).1.isSome = true) ∧
    (s1.ccAlive 7 = true ∧ s1.dies.any (fun x => x.mail.contains 7) = false ∧ s1.queues.any (fun x => x.thief == some 7) = false ∧
      (s1.die 7).busyAt + 32000 ≤ s1.nowDie 7 ∧ s1.hasWork 7 = false ∧ s1.nextDie 7 = some 0) ∧
    (let s := (queued [(0x200000, 4)]).modDie 0 (fun d => { d with mail := [7] });
      (s.die 0).mail = [7] ∧ s.ccAlive 7 = true ∧ s.ccAlive 0 = true ∧ s.grantable 0 = some 0 ∧ (s.ownedBy 7).length < 32) ∧
    (let s := (queued [(0x200000, 4)]).modQueue 0 (fun x => { x with thief := some 7 });
      0 < s.queues.length ∧ (s.queue 0).thief = some 7 ∧ (s.queue 0).state = .active ∧ (s.queue 0).launches = [] ∧ (s.queue 0).signal = none ∧ (s.queue 0).waiting = none ∧
        (s.roundOf (s.queue 0).owner).contains 0 = false) ∧
    (let s := (queued []).modQueue 0 (fun x => { x with owner := 7, qrd := 1 });
      (s.queue 0).owner ≠ (s.queue 0).hdie ∧ (s.queue 0).qrd = (s.queue 0).qdb ∧ (s.queue 0).drained + 160000 ≤ s.nowDie (s.queue 0).owner ∧
      s.ccAlive (s.queue 0).hdie = true) := by decide +kernel


/-- LaunchesAndSaves: a stopped workgroup of a pre-empting queue stores its parts; its header has been stored and its time has come. -/
theorem witness_saves :
    let g : Wg := { wg1 with matrix := false, load := false, store := false, entries := [], rings := [], scratchSize := 0
                             preq := some { tq := 0, unitDone := true, tdone := 5 } };
    let s := { finished with wgs := [g] }.modQueue 0 (fun x => { x with state := .preempting });
    (s.wg 0).preq = some { tq := 0, unitDone := true, tdone := 5 } ∧ (s.wg 0).phase = .running ∧ (s.wg 0).creq = none ∧
    (s.queue (s.launch (s.wg 0).launch).queue).state = .preempting ∧ s.queueServed (s.launch (s.wg 0).launch).queue = true ∧
    ((s.modWg 0 (fun x => { x with seq := {}, lspoke := {}, sspoke := {} })).wgStill 0) = true ∧
    (∃ t v, writeParts 0 (s.areaBase 0 (s.wg 0).area) (s.saveParts 0) (s, .ok 0) = (t, .ok v)) ∧
    (∃ u x, s.queueWrite 0 (s.areaBase 0 (s.wg 0).area) (s.header 0 5) = (u, .ok x)) ∧
    (16000000 ≤ s.nowDie (s.ccDie 0)) ∧ 0 < s.wgs.length :=
  ⟨by decide +kernel, by decide +kernel, by decide +kernel, by decide +kernel, by decide +kernel, by decide +kernel, got (by decide +kernel), got (by decide +kernel),
   by decide +kernel⟩

/-- A saved workgroup, whose context area's header and unit header are valid and hold no warp. -/
def saved1 : State :=
  { finished with wgs := [{ phase := .saved }], launches := [{ live := true, next := 1, dies := 1 }], mem := finished.mem ++ [(0x1000000, 1), (0x1000004, 1), (0x11E8000, 1), (0x11E8004, 1)] }

/-- LaunchesAndSaves: the next saved workgroup of an active queue; its launch names a lost die, or it fits on core 0 and is read back. -/
theorem witness_restores :
    (saved1.nextRestore 0 = some 0 ∧ (saved1.queue 0).state = .active ∧ (saved1.wg 0).area = 0 ∧
    (List.range 8).any (fun d => ((saved1.modDie 0 (fun x => { x with lost := some 5 })).launch 0).dies.getLsbD d &&
      ((saved1.modDie 0 (fun x => { x with lost := some 5 })).die d).lost.isSome) = true ∧
    (List.range 8).any (fun d => (saved1.launch (saved1.wg 0).launch).dies.getLsbD d && (saved1.die d).lost.isSome) = false ∧
    saved1.restoreSet 0 = [0] ∧ saved1.placesFor (saved1.queue 0).owner 0 [unitsOf (byFirstLane (saved1.wg 0).stored)] = some [(0, [])] ∧
    saved1.canBindOn 0 0 = true ∧ (saved1.launch 0).fuse = false ∧ saved1.fusedLeft = [] ∧
    saved1.queueServed 0 = true) ∧ ∃ v u, gotThen (restoreAll 0 [(0, (0, []))] saved1) (fun _ t => reissueAll [0] t) = (v, .ok u) :=
  ⟨by decide +kernel, got (by decide +kernel)⟩

/-- The same with a save record of queue 0 at 0x300000: one launch, and the bit of area 0. -/
def recorded : State :=
  let below (c : Host.Cell) : Bool := Nat.blt c.1 0x300000
  { saved1 with mem := saved1.mem.filter below ++ cellsWrite [] 0x300000 (bytesOfNat 4 1 ++ bytesOfNat 4 0x11 ++ List.replicate 24 0 ++ [1]) ++
                         saved1.mem.filter (fun c => !below c) }

/-- LaunchesAndSaves: an ended launch, whose queue goes to error, writes its signal at the later of its two times; the record of a queue with one launch and one saved
workgroup, whose area's bit is set; its area, whose header is valid. -/
theorem witness_launch_records :
    (let s := finished.modLaunch 0 (fun x => { x with ended := some 0x28, endTime := 16, largest := 32 });
      let time := max (s.launch 0).endTime (s.launch 0).largest;
      time = 32 ∧ s.queueServed 0 = true ∧ s.signalDue 0 time (s.launch 0).rel = true ∧
      (signalLaunch 0 (0xFFFFFFFFFFFFFE00 + 0x28) time (queueError 0 0x1A4 s)).1.isSome = true) ∧
    ((queued []).ccAlive 0 = true ∧ (queued []).ccAlive 7 = true ∧ ((queued []).queue 0).passed = false) ∧
    (let r := recorded.modQueue 0 (fun x => { x with resume := true });
      (r.queue 0).state = .active ∧ r.queueServed 0 = true ∧ (r.queue 0).resume = true ∧
      (match (r.queueRead 0 (r.queue 0).qsave 0x40).2 with
        | .ok hd => decide (fieldOf hd 0 4 = 1 ∧ (fieldOf hd 4 4).testBit 0 = true ∧ fieldOf hd 4 4 / 2 ^ 4 % 2 ^ 3 = 1 ∧ (fieldOf hd 0x20 32).testBit 0 = true)
        | _ => false) = true ∧
      (∃ u recs, (r.queueRead 0 (r.queue 0).qsave 0x40).1.queueRead 0 ((r.queue 0).qsave + 0x40) 128 = (u, .ok recs)) ∧
      (r.queue 0).launches = [0] ∧ r.savedOf 0 = [0] ∧ (r.wg 0).launch = 0 ∧ (r.wg 0).area = 0 ∧ ∀ d, d < 8 → (r.die d).lost = none) ∧
    ((saved1.queue 0).resume = false ∧ ∃ t x, checkAreas 0 [0] saved1 = (t, .ok x)) :=
  ⟨by decide +kernel, by decide +kernel, ⟨by decide +kernel, by decide +kernel, by decide +kernel, by decide +kernel, got (by decide +kernel), by decide +kernel, by decide +kernel, by decide +kernel, by decide +kernel, by decide +kernel⟩,
   by decide +kernel, got (by decide +kernel)⟩

/-- RegisterWords: registers that may be read and written, one that is unassigned, privileged, read-only; LCTL enabled and disabled. -/
theorem witness_register_words :
    ((let ok (rd wr : Bool) (n : BitVec 13) : Prop := sysCheck s1.me.prv (s1.die 0).pmuv rd wr n.toNat = none;
      ok true false 0x010 ∧ ok false true 0x003 ∧ ok true true 0x007) ∧ s1.me.awaiting = false ∧ sysReg (s1.die 0).pmuv 0x1FFF = none ∧
    (sysReg false 0x010).any (fun r => r.ro) = true ∧ (sysReg false 0x003).any (fun r => r.priv && !r.ro) = true ∧
    (s1.modSplit 0 (fun x => { x with prv := false })).me.prv = false ∧ s1.bar0On = true ∧ 0 < s1.splits.length ∧
    (let s := s1.modDie 7 (fun d => { d with lEn := false, lCopy := 0 });
      (s.die 7).lEn = false ∧ 7 < s.dies.length ∧ (s.die 7).lost = none) ∧ (s1.die 7).lEn = true) ∧
    (∃ x ∈ (grown s1).trees, x.live = true ∧ x.id % 8 = 0) :=
  ⟨by decide +kernel, tree1, by decide +kernel⟩

/-- RegisterWords: a read of PSTAT's neighbour has no effect of its own; one that has comes once the loads have returned; a register of the trap group. -/
theorem witness_register_effects :
    readActs 0x010 = false ∧ s1.me.awaiting = false ∧ 0 < s1.splits.length ∧ mrOk 7 = true ∧ mrOk 0xFFFFFFFF = false := by decide +kernel

/-- StopEvents: a pre-emption of the queue has come; a split that has not stopped for 20 µs; a cancellation 2 µs old; every split stopped, with the save
area at 0x8000; an absent granule of a record that reads as zeros. -/
theorem witness_stop_events :
    (let s := s1.modQueue 0 (fun x => { x with state := .preempting, tq := 16000000 });
      (s.wg 0).phase = .running ∧ (s.wg 0).preq = none ∧ (s.wg 0).creq = none ∧ (s.queue (s.launch (s.wg 0).launch).queue).state = .preempting ∧
      (s.queue 0).tq ≤ s.nowCore (s.wg 0).core) ∧
    (let s := s1.modWg 0 (fun w => { w with preq := some { tq := 16000000 - 320000 } });
      (s.wgOf 0).preq = some { tq := 16000000 - 320000 } ∧ (s.split 0).live = true ∧ (s.split 0).phase = .ready ∧ (s.split 0).n = 0 ∧ (s.split 0).held = [] ∧
      15680000 + 320000 ≤ s.nowOf 0 ∧ (s.split 0).warp < s.warps.length) ∧
    (let s := s1.modWg 0 (fun w => { w with creq := some (16000000 - 32000) }); (s.wg 0).creq = some 15968000 ∧ 15968000 + 32000 ≤ s.nowCore (s.wg 0).core) ∧
    (let s := on (s1.modWg 0 (fun w => { w with preq := some { tq := 0 } })) (fun x => { x with phase := .stopped none 0 });
      s.allStopped 0 = true ∧ (s.warpsOf 0).any (fun k => (s.liveAbsent k).isSome) = false ∧ ∃ t v, writeSave 0 s = (t, .ok v)) ∧
    (let s := s1.modWarp 0 (fun w => { w with absent := 0x80, record := 0x20000 });
      (s.warp 0).live = true ∧ (s.warp 0).absent.getLsbD 7 = true ∧
      (∃ t, loadBytes (s.warp 0).wg 2 (s.warp 0).record 0x48 (s, .ok []) = (t, .ok (List.replicate 0x48 0))) ∧
      ∃ u rs, restoreGranule (s.warp 0).wg 0 ((s.warp 0).record + 256 + roundUp (s.warp 0).width 64) 0 0 0 ((List.range 8).map (fun j => 56 + j)) (s, .ok []) =
        (u, .ok rs)) :=
  ⟨by decide +kernel, by decide +kernel, by decide +kernel, ⟨by decide +kernel, by decide +kernel, got (by decide +kernel)⟩,
   by decide +kernel, by decide +kernel, snd (by decide +kernel), got (by decide +kernel)⟩


/-- StopEvents: a split that is parked at a word which it would execute again; a save area that no page maps; the save area written, whose time has
come. -/
theorem witness_save_ends :
    (let s := on (s1.modWg 0 (fun w => { w with preq := some { tq := 0 } })) (fun x => { x with phase := .parked (.retest .rowReady) });
      (∃ c, (s.split 0).phase = .parked (.retest c)) ∧ (s.split 0).n = 0) ∧
    (let p : Preempt := { tq := 0 };
      let s := on (s1.modWg 0 (fun w => { w with preq := some p, save := 0xFF0000000000, seq := {}, lspoke := {}, sspoke := {} })) (fun x =>
        { x with phase := .stopped none 0 });
      (s.wg 0).phase = .running ∧ (s.wg 0).creq = none ∧ s.allStopped 0 = true ∧ p.unitDone = false ∧ p.failed = false ∧ p.written = none ∧
      ((s.wg 0).seq.phase.still && (s.wg 0).lspoke.phase.still && (s.wg 0).sspoke.phase.still) = true ∧ ∃ t v, writeSave 0 s = (t, .bad v)) ∧
    (let s := s1.modWg 0 (fun w => { w with preq := some { tq := 0, written := some 16000000 } });
      16000000 ≤ s.nowCore (s.wg 0).core ∧ ∃ t x, saveBytes 0 2 ((s.wg 0).save + 4) (bytesOfNat 4 1)
        (saveBytes 0 2 ((s.wg 0).save + 0x18) (bytesOfNat 8 16000000) (s, .ok 0)) = (t, .ok x)) :=
  ⟨⟨⟨_, rfl⟩, by decide +kernel⟩, ⟨by decide +kernel, by decide +kernel, by decide +kernel, rfl, rfl, rfl, by decide +kernel, refused (by decide +kernel)⟩,
   by decide +kernel, got (by decide +kernel)⟩

/-! ## The crossing, the fabric, security and power -/

/-- CrossingEvents: links that are up; dies awake, 1 ms into their time, that reach one another and have an upstream die; an open SYNC; a bound at which a
die loses its time, and one at which it has it back. -/
theorem witness_crossing_events :
    s1.dies.length = 8 ∧ (∃ link, s1.linkOn link = true ∧ s1.asleep (link / 4) = false ∧
      16 ≤ ((s1.modDie (link / 4) (fun x => { x with resends := [16, 16, 16, 16] })).die (link / 4)).resends.getD (link % 4) 0 ∧
      (s1.die (link / 4)).linkBeat.getD (link % 4) 0 + 128000 ≤ (s1.die (link / 4)).now) ∧
    ((s1.die 7).ports.getD 3 {}).up = true ∧ s1.asleep 1 = false ∧ (s1.die 1).sent.1 + 16000 ≤ (s1.die 1).now ∧
    (let s := s1.modDie 1 (fun x => { x with sent := (15000000, 5, 15) });
      (s.hops 1 0).isSome = true ∧ (s.die 0).beats.find? (fun p => p.1 == 1) = none ∧ 0 < (s.die 1).sent.1) ∧
    (s1.upstream 1).isSome = true ∧ max (((s1.die 1).sync.map Prod.fst).getD 0) (s1.die 1).lastSync + 16000 ≤ (s1.die 1).now ∧
    (s1.modDie 1 (fun x => { x with sync := some (15999000, 15998000) })).syncTimes 1 15999000 15998000 16000000 16000000 = true ∧
    (s1.die 1).hold = false ∧ (s1.die 1).lastSync + 64000 ≤ (s1.die 1).now ∧ (s1.die 1).unsync = false ∧
    160000 < (s1.modDie 1 (fun x => { x with delta := 999999 })).pkgRaw 1 ∧
    (let s := s1.modDie 1 (fun x => { x with lastSync := 16000000, unsync := true, belowSince := some 5, beats := [(0, 0, 16000000)] });
      (s.die 1).belowSince = some 5 ∧ (s.die 1).unsync = true ∧ s.pkgRaw 1 < 16000 ∧ 5 + 1600000 ≤ (s.die 1).now) :=
  ⟨by decide +kernel, ⟨0, by decide +kernel⟩, by decide +kernel⟩

/-- CrossingEvents: a GENWAIT whose time has come is the one party of its die that waits for a time. -/
theorem witness_time_target :
    let s := on s1 (fun x => { x with phase := .parked (.genwait 16000000 4) });
    idxsOf s.splits (fun x => x.live && x.phase.timed) = [0] ∧ (s.split 0).phase = .parked (.genwait 16000000 4) ∧ 16000000 ≤ s.nowOf 0 ∧
      ∀ p c, s.ctxPhase p ≠ .retest (.time c) := by
  refine ⟨by decide +kernel, by decide +kernel, by decide +kernel, fun p c => ?_⟩
  rcases p with _ | (_ | _) | ⟨_ | _, _ | _⟩ | _ | _ <;> exact CtxPhase.noConfusion

/-- CrossingEvents: PTM is enabled, with no response for 1 ms; a die without a path for 16 µs. -/
theorem witness_crossing_partition :
    (let s := { s1 with ptm := { enabled := true, lost := false } };
      s.ptm.enabled = true ∧ s.hdown = false ∧ s.asleep 0 = false ∧ s.ptm.lost = false ∧ s.ptm.last + 16000000 ≤ s.nowDie 0) ∧
    (let s := s1.modDie 3 (fun x => { x with noPath := some 5, unseen := some 5 });
      (s.die 3).noPath = some 5 ∧ (s.die 3).unseen = some 5 ∧ (s.die 3).lost = none ∧ s.asleep 0 = false ∧ 5 + 256000 ≤ s.nowDie 0 ∧ (s.die 3).quiesced = false ∧ s.dev.ps ≠ 2 ∧
      5 + 256000 ≤ (s.die 3).now) := by decide +kernel

/-- Every die under endpoint 5 of the fabric, one peer measured now: peer 0, of endpoint 6. At 0x10000 a descriptor of a sum of one integer over the two ranks
of the team at 0x10100: this die and the peer; window 0 of the export table at 0x31000 opens the root at 0x150000 to loads and stores. -/
def fab1 : State :=
  { s1 with
    dies := s1.dies.map (fun x => { x with fabid := 5, cepeer := 0x30000, cexport := 0x31000, peers := [{ peer := 0, off := 0, rtt := 0, bound := 0, time := 16000000 }] })
    mem := [(0x10001, 1), (0x10002, 1), (0x10009, 2), (0x1000A, 1), (0x10011, 3), (0x10012, 1), (0x10018, 1), (0x10021, 4), (0x10022, 1), (0x1002C, 1),
            (0x10100, 2), (0x10108, 7), (0x10140, 5), (0x10148, 6), (0x30000, 6), (0x30003, 0x80), (0x31000, 3), (0x3100A, 0x15),
            (0x150000, 1), (0x150002, 0x16), (0x160000, 1), (0x160002, 0x17), (0x170000, 0x1F)] }

/-- What the collective engine reads at an address for that workgroup. -/
def ceBytes (n va k : Nat) : List Byte :=
  match (ceRead { core := 0, root := 0, rgen := 0, prv := true } n va k fab1).2 with
  | .ok bs => bs
  | _ => []

/-- That collective. -/
def coll1 : Coll :=
  { kind := 0, desc := 0x10000, team := 7, seq := 0, ranks := [(5, 0), (6, 0)], rank := 0, count := 1, type := 0, src := 0x10200, dst := 0x10300, done := 0x10400
    tmo := 1, ltag := 0, wg := some 0, core := 0, root := 0, rgen := 0, prv := true, posted := 16000000 }

/-- Peer entries that are all there. -/
theorem laned {q : State × RemoteChecked} (h : (match q.2 with | .ok _ => true | _ => false) = true) : ∃ t rs, q = (t, .ok rs) := by
  obtain ⟨t, r⟩ := q
  cases r with
  | ok rs => exact ⟨t, rs, rfl⟩
  | trap _ _ => cases h
  | wait => cases h

/-- FabricWords: the fabric is usable; the descriptors of a collective are read, with a slot free and with none; the peer entries of a load of 4 bytes and
of a store of 8 are read. -/
theorem witness_fabric_words :
    fab1.me.awaiting = false ∧ (fab1.die 0).fabEn = true ∧ fab1.epsFab 0 ≠ noBound ∧ fab1.spair 0 2 = some 0x10000 ∧ fab1.fenceWait 0 2 = none ∧
    (let c : CeCtx := { core := 0, root := 0, rgen := 0, prv := true };
      let r1 := ceRead c 1 0x10000 64 fab1; let r2 := ceRead c 1 0x10100 64 r1.1; let r3 := ceRead c 130 0x10140 16 r2.1;
      r1.2 = .ok (ceBytes 1 0x10000 64) ∧ natOfBytes ((ceBytes 1 0x10000 64).take 8) = 0x10100 ∧ r2.2 = .ok (ceBytes 1 0x10100 64) ∧
      natOfBytes ((ceBytes 1 0x10100 64).take 4) = 2 ∧ r3.2 = .ok (ceBytes 130 0x10140 16) ∧
      collOf 0 0x10000 0 5 (some 0) 0 16000000 c (ceBytes 1 0x10000 64) (ceBytes 1 0x10100 64 ++ ceBytes 130 0x10140 16) = some coll1 ∧
      (idxsOf (r3.1.die 0).colls Option.isNone).head? = some 0 ∧ ∃ z t, writeStatus coll1 0xFFFFFFFF (r3.1.setColl 0 0 (some coll1)) = (z, .ok t)) ∧
    (idxsOf ((fab1.modDie 0 (fun x => { x with colls := List.replicate 16 (some coll1) })).die 0).colls Option.isNone) = [] ∧
    fab1.me.lit = none ∧ RegsReady fab1 (groupRegs 6 2 ++ [10, 11]) ∧
    (∀ l, fab1.lanes.getLsbD l = true → fab1.vpair 0 10 l = some (0x400000000 + 4 * l)) ∧
    (∃ t rs, remoteLanes 0 (fun _ => []) ((lanesIn 32 fab1.lanes).map (fun l => (l, 0x400000000 + 4 * l))) fab1 = (t, .ok rs)) ∧
    (∃ t rs, remoteLanes 0 (fun _ => List.replicate 8 7) [(31, 0x400000000)] fab1 = (t, .ok rs)) :=
  ⟨by decide +kernel, by decide +kernel, by decide +kernel, by decide +kernel, by decide +kernel,
   ⟨by decide +kernel, by decide +kernel, by decide +kernel, by decide +kernel, by decide +kernel, by decide +kernel, by decide +kernel, got (by decide +kernel)⟩,
   by decide +kernel, by decide +kernel, ready (by decide +kernel), lanes (by decide +kernel), laned (by decide +kernel), laned (by decide +kernel)⟩

/-- FabricEvents: a collective's slot before its SRC is sent, with the peer's packet taken, with DST written, and failed; a packet of the peer; one whose
time-out has come. -/
theorem witness_fabric_events :
    let put (c : Coll) : State := fab1.setColl 0 0 (some c);
    let sent := { coll1 with own := some [1, 0, 0, 0], joined := [(1, [2, 0, 0, 0])] };
    (put coll1).coll 0 0 = some coll1 ∧ (put coll1).stopped 0 = false ∧ 1 < coll1.ranks.length ∧
    coll1.ranks.any (fun e => (put coll1).ownEnd 0 e && ((put coll1).die e.2).lost.isSome) = false ∧ fab1.dies.length = 8 ∧ coll1.fail = none ∧ coll1.own = none ∧
    sent.own.isSome = true ∧ sent.blocks = some [[1, 0, 0, 0], [2, 0, 0, 0]] ∧ sent.sent < (sent.result [[1, 0, 0, 0], [2, 0, 0, 0]]).length ∧
    (sent.result [[1, 0, 0, 0], [2, 0, 0, 0]]).length ≤ ({ sent with sent := 4 } : Coll).sent ∧ sent.latest ≤ (put sent).nowDie 0 ∧
    ({ coll1 with fail := some 0x1C5 } : Coll).fail.isSome = true ∧
    1 ≠ coll1.rank ∧ coll1.joined.any (fun p => p.1 == 1) = false ∧ (put coll1).ownEnd 0 (coll1.ranks.getD 1 (0, 0)) = false ∧
    ([2, 0, 0, 0] : List Byte).length = coll1.block ∧ (put coll1).fabric = [] ∧ coll1.ranks.all ((put coll1).ownEnd 0) = false ∧
    coll1.joined.length + 1 < coll1.ranks.length ∧ ({ coll1 with posted := 15984000 } : Coll).posted + 1 * 16000 ≤ fab1.nowDie 0 := by decide +kernel

/-- FabricEvents: remote requests of a split whose die has a way to the fabric; an access that window 0 admits; a port with eight lanes, with four and with
none; a die that has not measured its peers for 1 ms, and the reply of one. -/
theorem witness_fabric_events_rest :
    (let q : EngReq := { id := 3, party := .split 0, core := 0, die := 0, op := .rld 4, prv := true, pc := 0x1000, mr := 5, root := 0, rgen := 0 };
      let s := { fab1 with reqs := [.eng q, .eng { q with id := 4, op := .rst 8 }] };
      s.engReq 3 = some q ∧ s.engReq 4 = some { q with id := 4, op := .rst 8 } ∧ s.fabPath 0 = true) ∧
    (let p := fab1.engineRead 0 (0x31000 + 32 * (256 % 256)) 32 .device; let l : Leaf := { lg := 30, u := true, x := true, w := true };
      p.2 = .ok (3 :: List.replicate 9 0 ++ 0x15 :: List.replicate 21 0) ∧ (p.1.walk 0 0x150000 0 0x10000) = .leaf l ∧ l.m = false ∧
      p.1.stale l (l.at 0x10000) = false ∧ p.1.keyOn l.key = true ∧ p.1.onHold (l.at 0x10000) = false ∧ p.1.homeCause (l.at 0x10000) 8 = none ∧ l.allows .load false = true ∧ l.allows .store false = true ∧
      p.1.homeBusy 0 false (l.at 0x10000) 8 .device = false ∧ p.1.homeBusy 0 true (l.at 0x10000) 8 .device = false ∧
      (fab1.die 0).lost = none ∧ (fab1.die 0).hung = false ∧ (fab1.die 0).fabEn = true) ∧
    (let s := fab1.modDie 0 (fun x => { x with ports := [{ up := true, lanes := 8, resends := 16 }, { up := true, lanes := 4 }, {}, {}] });
      16 ≤ ((s.die 0).ports.getD 0 {}).resends ∧ ((s.die 0).ports.getD 0 {}).up = true ∧ 4 < ((s.die 0).ports.getD 0 {}).lanes ∧ ((s.die 0).ports.getD 1 {}).up = true ∧
      ((s.die 0).ports.getD 1 {}).lanes ≤ 4 ∧ ((s.die 0).ports.getD 2 {}).up = false ∧ ((s.die 0).ports.getD 2 {}).dead = false) ∧
    (fab1.die 0).fabSync + 160000 ≤ (fab1.die 0).now ∧ (0, (6, 0)) ∈ fab1.validPeers 0 :=
  ⟨by decide +kernel, by decide +kernel, by decide +kernel, by decide +kernel, List.mem_filterMap.mpr ⟨0, by decide, by decide +kernel⟩⟩

/-- FabricEvents: the rank of a die that has no way to its endpoint; the two writes that end a collective; an ABORT on its way from the peer; a sample's reply. -/
theorem witness_fabric_ends :
    let put (c : Coll) : State := fab1.setColl 0 0 (some c);
    let l : Leaf := { lg := 30, u := true, x := true, w := true };
    (let s : State := { put coll1 with dies := (put coll1).dies.map (fun x => { x with ports := List.replicate 4 {} }) };
      (5, 0) ∈ coll1.ranks ∧ s.coll 0 0 = some coll1 ∧ coll1.own = none ∧ s.ownEnd 0 (5, 0) = true ∧ s.fabPath 0 = false) ∧
    (put coll1).fabPath 0 = true ∧ coll1.said = none ∧
    (∃ t, ceAt coll1.ctx coll1.done 4 .store (put coll1) = (t, .ok l)) ∧
    (∃ u w, writeStatus coll1 0 (ceAt coll1.ctx coll1.done 4 .store (put coll1)).1 = (u, .ok w)) ∧
    (let w := 15000000; ({ coll1 with said := some w } : Coll).said = some w ∧ w + fab1.epsRelease 0 2 ≤ fab1.nowDie 0) ∧
    (let s : State := { put coll1 with fabric := [.abort 1 (coll1.ranks.getD coll1.rank (0, 0)) coll1.team coll1.seq 1 0x1C4] };
      s.coll 0 0 = some coll1 ∧ s.stopped 0 = false ∧ s.fabric = [.abort 1 (5, 0) 7 0 1 0x1C4]) ∧
    (let s : State := { fab1 with fabric := [.sync 0 (6, 0) (fab1.die 0).fabSync] };
      s.fabric = [.sync 0 (6, 0) (s.die 0).fabSync] ∧ (6, 0) ∈ (s.validPeers 0).map Prod.snd) :=
  ⟨by decide +kernel, by decide +kernel, by decide +kernel, snd (by decide +kernel), got (by decide +kernel), by decide +kernel, by decide +kernel, by decide +kernel⟩

/-- A machine whose host-port traffic is secured, with KEYSEL 5, in an attestation session, and an identity. -/
def secured : State := s1.modDev (fun x => { x with keysel := 5, ideOk := true, ideKeyed := true, session := true, identity := true })

/-- SecurityEvents: BAR0 answers; a slot to load; one to disable that no access holds; a running device with an identity, in a session and without one; an
unsecured link; a device that starts. -/
theorem witness_security_events :
    secured.bar0On = true ∧ secured.dev.keysel ≠ 0 ∧ secured.keyOn 5 = false ∧ secured.dev.ideOk = true ∧ secured.dev.closing = none ∧
    (let s := { secured with keys := [(5, List.replicate 64 1)], dev := { secured.dev with closing := some 5 } };
      s.dev.closing = some 5 ∧ s.keyInUse 5 = false) ∧
    secured.hdown = false ∧ secured.dev.ps ≠ 2 ∧ secured.dev.st = 1 ∧ secured.dev.identity = true ∧ secured.dev.signed < 32768 ∧
    s1.dev.session = false ∧ secured.dev.session = true ∧ secured.dev.ideKeyed = true ∧ secured.dev.st ≠ 0 ∧
    State.reset.hdown = false ∧ State.reset.dev.st = 0 := by decide +kernel

/-- A device that has started, with no work. -/
def bare : State := { s1 with wgs := [], warps := [], splits := [], launches := [] }

/-- PowerEvents: the device before a cold and a warm start, running, in PS2, and with its start done; a start without failures; idle long enough for PS1, and
for PS2; dies at an operating point, hot, and too hot; a granule without an error. -/
theorem witness_power_events :
    (let s := State.reset; s.dev.start = some .cold ∧ s.dev.ready = none) ∧
    (beginStart .warm s1).dev.start = some .warm ∧ s1.dev.st ≠ 0 ∧ s1.dev.ps ≠ 2 ∧ (s1.modDev (fun x => { x with ps := 2 })).dev.ps = 2 ∧ s1.hdown = false ∧
    (beginStart .wake (s1.modDev (fun x => { x with ps := 2 }))).dev.start = some .wake ∧ (beginStart .wake (s1.modDev (fun x => { x with ps := 2 }))).dev.ps ≠ 2 ∧
    (let o : StartOutcome := { step2 := [], step4 := [], step5 := [], links := [], svn := some 0, firmware := { header := [], body := [], version := 0, key := [], signature := [] }, duration := 0 };
      4 ∉ o.step2 ∧ 4 ∉ o.step4 ∧ 4 ∉ o.step5) ∧
    (let s := s1.modDev (fun x => { x with st := 0, ready := some 16000000 }); s.dev.ready = some 16000000 ∧ 16000000 ≤ s.nowDie 0) ∧
    (let s := bare.modDev (fun x => { x with lattol := 20, idleAt := some 14400000 });
      s.dev.st = 1 ∧ s.dev.ps = 0 ∧ 20 ≤ s.dev.lattol.toNat ∧ s.queuesIdle = true ∧ s.since s.dev.idleAt 1600000 = true ∧ s.mayPs2 = false) ∧
    (bare.modDev (fun x => { x with lattol := 500000, offAt := some 0 })).mayPs2 = true ∧
    (s1.die 0).hung = false ∧ 8 * 550 ≤ min State.reset.dev.pwrcap 4400 ∧ isDram 0 = true ∧ s1.ecc.contains (0 / 32) = false := by decide +kernel

/-- SecurityEvents and PowerEvents: a link that has not gone down; firmware that is accepted or is not; PS1; a die whose draw fits at point 0, and one at which no point
fits. -/
theorem witness_power_points :
    s1.dev.down = false ∧ (∀ f, s1.dev.accepts f = false ∨ s1.dev.accepts f = true) ∧
    (let s := s1.modDev (fun x => { x with ps := 1 }); s.dev.ps = 1 ∧ s.dev.ps ≠ 2) ∧
    (let fits (draws : List (Nat × Nat)) (k : Nat) : Prop := 8 * (draws.getD k (0, 50)).1 ≤ min s1.dev.pwrcap 4400 ∧ (draws.getD k (0, 50)).2 < 100;
      fits [(500, 60)] 0 ∧ ¬fits [(600, 60), (500, 99)] 0 ∧ fits [(600, 60), (500, 99)] 1 ∧ ∀ k, k < 4 → ¬fits (List.replicate 5 (0, 100)) k) :=
  ⟨by decide +kernel, fun f => by cases s1.dev.accepts f <;> simp, by decide +kernel, by decide +kernel⟩

/-- EncodingRoundTrip: a well-formed instruction of each stream. -/
theorem witness_encoding_round_trip :
    (let ok (i : Instr) : Prop := i.wf = true ∧ i.isReserved = false ∧ encode i ≠ [];
      ok (.add { s := true, d := 3, a := 1, b := 2, x := false, y := false }) ∧ ok (.madd { s := false, d := 1, a := 2, b := 3 }) ∧
      ok (.spokeOtherInstruction true (.imm .addi 31 31 0xFFF))) ∧
    decodeWarp false 0x98182100 0 0 = .add { s := true, d := 3, a := 1, b := 2, x := false, y := false } ∧
    decodeMatrix 0x06246000 0 = .madd { s := false, d := 1, a := 2, b := 3 } := by decide +kernel

/-- A step to come, with words at 0x1000. -/
def coded (cells : List Host.Cell) (t : Turn) : State := { s1 with mem := cells, agenda := [t] }

/-- What a warp or the sequencer fetches there, and what a spoke has fetched, is an instruction of a size. -/
noncomputable def fetches (st : Stream) (lit : Bool) (n : Nat) (bs : List Byte) : Bool :=
  match Sys2Proof.decode st lit bs with
  | .ok (k, _) => k.size == n
  | .error _ => false

theorem fetched {st : Stream} {lit : Bool} {n : Nat} {bs : List Byte} (h : fetches st lit n bs = true) :
    ∃ k rest, Sys2Proof.decode st lit bs = .ok (k, rest) ∧ k.size = n := by
  unfold fetches at h
  split at h
  · rename_i k rest heq
    exact ⟨k, rest, heq, by simpa using h⟩
  · cases h

/-- A triple whose middle is known. -/
theorem snd3 {α β γ : Type} {p : α × β × γ} {b : β} (h : p.2.1 = b) : ∃ a c, p = (a, b, c) := ⟨p.1, p.2.2, by rw [← h]⟩

/-- StepRunsDecoded: an event; the issue slot of a partition picks the split, which fetches ADD, or LIMM with its literal. -/
theorem witness_step_runs_decoded :
    (coded [] (.event .ptmLost)).nextTurn = some (.event .ptmLost) ∧
    (let run (cells : List Host.Cell) (bs all : List Byte) (n : Nat) : Prop :=
        let s := coded cells (.issue 0 0); let p : State := { s.tick with agenda := s.agenda.drop 1 };
        let q := (usePort 0 0 p).modCore 0 (fun c => { c with rr := c.rr.set 0 ((p.warpOf 0).id % 128) });
        let t := (wake 0 (countIssue 0 q)).modSplit 0 (fun x => { x with boosted := false });
        s.nextTurn = some (.issue 0 0) ∧ p.portOpen 0 0 = true ∧ p.pick 0 0 = some 0 ∧ (t.split 0).lit = none ∧ (t.split 0).cons = none ∧
        (∃ u va, fetchWords (t.wgIdxOf 0) (t.split 0).prv 0 1 (t.split 0).pc t = (u, .ok bs, va)) ∧
        (∃ u va, fetchWords (t.wgIdxOf 0) (t.split 0).prv 0 (n / 4) (t.split 0).pc t = (u, .ok all, va)) ∧
        (∃ k rest, Sys2Proof.decode .warp false (bs ++ List.replicate 8 0) = .ok (k, rest) ∧ k.size = n) ∧
        ∃ k rest, Sys2Proof.decode .warp false (all ++ List.replicate 8 0) = .ok (k, rest) ∧ k.size = n;
      run [(0x1001, 0x21), (0x1002, 0x18), (0x1003, 0x98)] [0, 0x21, 0x18, 0x98] [0, 0x21, 0x18, 0x98] 4 ∧
      run [(0x1003, 0x7E), (0x1004, 0x78), (0x1005, 0x56), (0x1006, 0x34), (0x1007, 0x12)] [0, 0, 0, 0x7E] [0, 0, 0, 0x7E, 0x78, 0x56, 0x34, 0x12] 8) :=
  ⟨rfl, ⟨rfl, by decide +kernel, by decide +kernel, by decide +kernel, by decide +kernel, snd3 (by decide +kernel), snd3 (by decide +kernel), fetched (by decide +kernel), fetched (by decide +kernel)⟩,
    ⟨rfl, by decide +kernel, by decide +kernel, by decide +kernel, by decide +kernel, snd3 (by decide +kernel), snd3 (by decide +kernel), fetched (by decide +kernel), fetched (by decide +kernel)⟩⟩

/-- StepRunsDecoded: the sequencer fetches MADD; the load spoke has fetched ADDI; the fetch of a word whose translation is at hand. -/
theorem witness_step_runs_decoded_rest :
    (let s := coded [(0x1001, 0x60), (0x1002, 0x24), (0x1003, 6)] (.issueSeq 0); let p : State := { s.tick with agenda := s.agenda.drop 1 };
      let t := ((usePort 0 4 p).modCore 0 (fun c => { c with rrSeq := (p.wg 0).slot.getD 0 })).modSeq 0 (fun x => { x with phase := .ready });
      s.nextTurn = some (.issueSeq 0) ∧ p.portOpen 0 4 = true ∧ p.pickCtx 0 .seq (p.core 0).rrSeq = some 0 ∧ (t.seq 0).lit = none ∧ (t.seq 0).cons = none ∧ (t.wg 0).preq = none ∧
      (∃ u va, fetchWords 0 (t.wg 0).prv 7 1 (t.seq 0).pc t = (u, .ok [0, 0x60, 0x24, 6], va)) ∧
      ∃ k rest, Sys2Proof.decode .matrix false ([0, 0x60, 0x24, 6] ++ List.replicate 8 0) = .ok (k, rest) ∧ k.size = 4) ∧
    (let s := (coded [] (.issueSpoke 0 false)).modWg 0 (fun w => { w with lspoke := { w.lspoke with pc := 0, image := [0x93, 0, 0xF0, 0xFF] } });
      let p : State := { s.tick with agenda := s.agenda.drop 1 };
      let t := ((usePort 0 5 p).modCore 0 (fun c => { c with rrLoad := (p.wg 0).slot.getD 0 })).setCtxPhase (.spoke 0 false) .ready;
      s.nextTurn = some (.issueSpoke 0 false) ∧ p.portOpen 0 5 = true ∧ p.pickCtx 0 (fun g => .spoke g false) (p.core 0).rrLoad = some 0 ∧ (t.wg 0).preq = none ∧
      (t.spoke 0 false).badFetch = false ∧ ∃ k rest, Sys2Proof.decode .spoke false (t.spoke 0 false).fetch = .ok (k, rest) ∧ k.size = 4) ∧
    (let l : Leaf := { lg := 30, u := true, x := true, w := true };
      s1.cached (s1.wg 0).core (s1.wg 0).troot (s1.wg 0).trgen 0x1000 = some l ∧ l.allows .fetch true = true ∧ s1.keyOn l.key = true ∧
      s1.stale l (l.at 0x1000) = false ∧ s1.homeBusy 0 false (l.at 0x1000) 4 .device = false ∧ s1.homeCause (l.at 0x1000) 4 = none) :=
  ⟨⟨rfl, by decide +kernel, by decide +kernel, by decide +kernel, by decide +kernel, by decide +kernel, snd3 (by decide +kernel), fetched (by decide +kernel)⟩,
   ⟨rfl, by decide +kernel, by decide +kernel, by decide +kernel, by decide +kernel, fetched (by decide +kernel)⟩, by decide +kernel⟩

/-- StepRunsDecoded: a split and the sequencer hold a literal with its consumer, ADD with vb = 63 and MADD with b = 15; the store spoke's pc has left
its image. -/
theorem witness_step_runs_held :
    (let s := (coded [] (.issue 0 0)).modSplit 0 (fun x => { x with lit := some 5, cons := some 0x98183F80 });
      let p : State := { s.tick with agenda := s.agenda.drop 1 };
      let t := (wake 0 (countIssue 0 ((usePort 0 0 p).modCore 0 (fun c => { c with rr := c.rr.set 0 ((p.warpOf 0).id % 128) })))).modSplit 0 (fun x => { x with boosted := false });
      s.nextTurn = some (.issue 0 0) ∧ p.portOpen 0 0 = true ∧ p.pick 0 0 = some 0 ∧ (t.split 0).lit.isSome = true ∧ (t.split 0).cons = some 0x98183F80 ∧
      ∃ k rest, Sys2Proof.decode .warp true (wordBytes 0x98183F80 ++ List.replicate 8 0) = .ok (k, rest) ∧ k.size = 4) ∧
    (let s := (coded [] (.issueSeq 0)).modSeq 0 (fun x => { x with lit := some 5, cons := some 0x0627E000 });
      let p : State := { s.tick with agenda := s.agenda.drop 1 };
      let t := ((usePort 0 4 p).modCore 0 (fun c => { c with rrSeq := (p.wg 0).slot.getD 0 })).modSeq 0 (fun x => { x with phase := .ready });
      s.nextTurn = some (.issueSeq 0) ∧ p.portOpen 0 4 = true ∧ p.pickCtx 0 .seq (p.core 0).rrSeq = some 0 ∧ (t.seq 0).lit.isSome = true ∧ (t.seq 0).cons = some 0x0627E000 ∧
      ∃ k rest, Sys2Proof.decode .matrix true (wordBytes 0x0627E000 ++ List.replicate 8 0) = .ok (k, rest) ∧ k.size = 4) ∧
    (let s := coded [] (.issueSpoke 0 true); let p : State := { s.tick with agenda := s.agenda.drop 1 };
      let t := ((usePort 0 6 p).modCore 0 (fun c => { c with rrStore := (p.wg 0).slot.getD 0 })).setCtxPhase (.spoke 0 true) .ready;
      s.nextTurn = some (.issueSpoke 0 true) ∧ p.portOpen 0 6 = true ∧ p.pickCtx 0 (fun g => .spoke g true) (p.core 0).rrStore = some 0 ∧ (t.wg 0).preq = none ∧
      (t.spoke 0 true).badFetch = true) :=
  ⟨⟨rfl, by decide +kernel, by decide +kernel, by decide +kernel, by decide +kernel, fetched (by decide +kernel)⟩,
   ⟨rfl, by decide +kernel, by decide +kernel, by decide +kernel, by decide +kernel, fetched (by decide +kernel)⟩, rfl, by decide +kernel⟩

/-- An instruction that answers a next state. -/
theorem ran {o : Host.Outcome State Fault Refusal} (h : (match o with | .next _ => true | _ => false) = true) : ∃ t, o = .next t := by
  cases o with
  | next t => exact ⟨t, rfl⟩
  | fault _ => cases h
  | refused _ => cases h

/-- MemoryStaysCanonical: a machine whose memory is canonical takes a step. -/
theorem witness_memory_stays_canonical : MemoryCanonical (coded [(5, 7)] (.event (.homeRead 9))) ∧
    ∃ t, step (coded [(5, 7)] (.event (.homeRead 9))) = .next t :=
  ⟨⟨by decide +kernel, by decide +kernel⟩, ran (by decide +kernel)⟩

/-- What Frames starts from: a split whose group is empty, in a workgroup that nothing stops. -/
theorem witness_frames_alone : s1.who.split < s1.splits.length ∧ s1.me.held = [] ∧ s1.me.pend = none ∧ (s1.wg s1.mine).preq = none ∧ (s1.wg s1.mine).creq = none := by
  decide +kernel

/-- Frames: ADD, SADD and SADDI answer a next state; a store of four bytes in two lanes that its home applies. -/
theorem witness_frames :
    (∃ o, laneWord (.add { s := true, d := 3, a := 1, b := 2, x := false, y := false }) = some o) ∧
    (∃ t, exec (.add { s := true, d := 3, a := 1, b := 2, x := false, y := false }) s1 = .next t) ∧
    (∃ f, scalarWord (.sadd { s := true, d := 1, a := 2, b := 3 }) = some ({ s := true, d := 1, a := 2, b := 3 }, f)) ∧
    (∃ t, exec (.sadd { s := true, d := 1, a := 2, b := 3 }) s1 = .next t) ∧ (∃ t, exec (.saddi { s := true, d := 4, a := 4, i := -1 }) s1 = .next t) ∧
    (let r : MemReq := { id := 9, party := .split 0, core := 0, op := .store 4, policy := 0, prv := true, pc := 0x1000, mr := 5
                         leaf := { lg := 30, u := true, x := true, w := true }, lanes := [{ lane := 0, pa := 0x10000, va := 0x10000, data := 7 }] };
      let s := { s1 with reqs := [.mem r] };
      s.memReq 9 = some r ∧ s.blockedBy r = false ∧ r.fail = none ∧ s.wholeCause r.pa = none ∧ s.stale r.leaf r.pa = false ∧
      s.homeBusy (dieOfCore r.core) true r.pa (4 * r.span.count) r.party = false ∧ Memory.wf s.mem = true ∧ ∃ t, exec (.homeWrite 9) s = .next t) :=
  ⟨⟨_, rfl⟩, ran (by decide +kernel), ⟨_, rfl⟩, ran (by decide +kernel), ran (by decide +kernel), by decide +kernel, by decide +kernel, by decide +kernel, by decide +kernel, by decide +kernel,
   by decide +kernel, by decide +kernel, ran (by decide +kernel)⟩

/-! ## Single steps, with the values of the spec's own examples -/

/-- The state after an instruction. -/
def after (k : Instr) (s : State) : State :=
  match exec k s with
  | .next t => t
  | _ => s

/-- The state after a word of the warp stream. -/
noncomputable def word (w : Word) (s : State) : State := after (decodeWarp false w 0 0) s

/-- Lane l of register q. -/
def laneOf (s : State) (q l : Nat) : PWord := ((s.warp 0).reg q).lane l

/-- s1 with registers set, and MR. -/
def regs (mr : Word) (rs : List (Nat × VReg)) : State :=
  (s1.modWarp 0 (fun w => { w with v := rs.foldl (fun v r => v.set r.1 r.2) w.v })).modSplit 0 (fun x => { x with mr := mr })

/-- A register whose lanes are the values of a list, and 0 past it. -/
def general (ws : List Word) : VReg := .general ((ws ++ List.replicate (128 - ws.length) 0).map PWord.val)

/-- `cvt.fp32.int32 v2, v1` on −31, −29 to 31: the exact values as fp32, at the ends and at 1 (the MXF6 round trip worked in the vector chapter). -/
theorem test_cvt : let t := word 0xA6102100 (regs 7 [(1, .affine 0xFFFFFFE1 2)]);
    laneOf t 2 0 = .val 0xC1F80000 ∧ laneOf t 2 16 = .val 0x3F800000 ∧ laneOf t 2 31 = .val 0x41F80000 := by decide +kernel

/-- `nenc.e2m3 v4, v2, v3` with v3 = 2 on −31, 9, 31 and −15 gives 0x3F, 0x11, 0x1F and 0x37 (the same example). -/
theorem test_nenc : let t := word 0xA8204182 (regs 0x67 [(2, general [0xC1F80000, 0x41100000, 0x41F80000, 0xC1700000]), (3, .uniform (.val 2))]);
    laneOf t 4 0 = .val 0x3F ∧ laneOf t 4 1 = .val 0x11 ∧ laneOf t 4 2 = .val 0x1F ∧ laneOf t 4 3 = .val 0x37 := by decide +kernel

/-- `pack6 v5, v4` on the codes of lanes 0 to 15: words 0 to 2 of its block (the same example). -/
theorem test_pack6 : let t := word 0xA8288013 (regs 7 [(4, general [0x3F, 0x3E, 0x3E, 0x3C, 0x3C, 0x3A, 0x3A, 0x38, 0x37, 0x35, 0x33, 0x31, 0x2E, 0x2A, 0x26, 0x22])]);
    laneOf t 5 0 = .val 0xBCF3EFBF ∧ laneOf t 5 1 = .val 0x3D77E3AE ∧ laneOf t 5 2 = .val 0x8A6AAEC7 ∧ laneOf t 5 7 = .val 0 := by decide +kernel

/-- `mul v9, v8, v9` on −9 and 9: −81; `abs v9, v8` on −9: 9 (the same example). -/
theorem test_mul_abs : laneOf (word 0x98490482 (regs 7 [(8, .uniform (.val 0xFFFFFFF7)), (9, .uniform (.val 9))])) 9 0 = .val 0xFFFFFFAF ∧
    laneOf (word 0x98490008 (regs 7 [(8, .uniform (.val 0xFFFFFFF7))])) 9 31 = .val 9 := by decide +kernel

/-- R63: EX2 of −3 is exactly 0.125, LG2 of 64 exactly 6, SIN of 1/4 exactly 1. -/
theorem test_special : let s := regs 0x67 [(5, general [0xC0400000, 0x42800000, 0x3E800000])];
    laneOf (after (.ex2 { s := true, d := 6, a := 5, x := false }) s) 6 0 = .val 0x3E000000 ∧
    laneOf (after (.lg2 { s := true, d := 6, a := 5, x := false }) s) 6 1 = .val 0x40C00000 ∧
    laneOf (after (.sin { s := true, d := 6, a := 5, x := false }) s) 6 2 = .val 0x3F800000 := by decide +kernel

/-- `add v1, v0, v0` on lane numbers is affine with stride 2, and wraps at 2³². -/
theorem test_add : laneOf (word 0x98080000 (regs 7 [(0, .affine 0 1)])) 1 31 = .val 62 ∧
    laneOf (word 0x98080000 (regs 7 [(0, .uniform (.val 0x80000001))])) 1 5 = .val 2 := by decide +kernel

/-- `saddi s4, s4, -1` on 7 (R160). -/
theorem test_saddi : ((word 0xBE209FFF s1).split 0).sreg 4 = .val 6 := by decide +kernel

/-- `trap s4`: the cause 0x028, its value, the word after it, and the handler at TVEC with MR at 7 (R135, R136). -/
theorem test_trap : let x := (word 0x96008000 s1).split 0;
    x.tcause = 0x028 ∧ x.tval = 7 ∧ x.tpc = 0x1004 ∧ x.pc = 0x4000 ∧ x.prv = true ∧ x.inTrap = true ∧ x.pprv = true ∧ x.mr = 7 := by decide +kernel

/-- `laneq v5` (R101). -/
theorem test_laneq : laneOf (after (.laneq { s := true, d := 5 }) s1) 5 31 = .val 31 := by decide +kernel

/-- A store of four bytes: its home writes them, little-endian, and no others. -/
theorem test_home_write :
    let r : MemReq := { id := 9, party := .split 0, core := 0, op := .store 4, policy := 0, prv := true, pc := 0x1000, mr := 5
                        leaf := { lg := 30, u := true, x := true, w := true }, lanes := [{ lane := 0, pa := 0x10000, va := 0x10000, data := 0x04030201 }] };
    (after (.homeWrite 9) { s1 with reqs := [.mem r] }).mem = [(0x10000, 1), (0x10001, 2), (0x10002, 3), (0x10003, 4)] := by decide +kernel

/-- An atomic add at its home wraps at 2³²: 0xFFFFFFFF and 2 leave 1. -/
theorem test_home_atomic :
    let r : MemReq := { id := 9, party := .split 0, core := 0, op := .atomic .add 4 none, policy := 0, prv := true, pc := 0x1000, mr := 5
                        leaf := { lg := 30, u := true, x := true, w := true }, lanes := [{ lane := 0, pa := 0x10000, va := 0x10000, data := 2 }] };
    (after (.homeAtomic 9) { s1 with reqs := [.mem r], mem := [(0x10000, 255), (0x10001, 255), (0x10002, 255), (0x10003, 255)] }).mem = [(0x10000, 1)] := by
  decide +kernel

/-- `maddi g8, g9, 16` on 0 (the example after R272): 16. -/
theorem test_maddi : ((after (decodeMatrix 0x89120010 0) s1).seq 0).g.getD 8 0 = 16 := by decide +kernel

/-- ADDI x1, x0, −1 of a spoke writes all ones, and a write of x0 nothing. -/
theorem test_spoke_addi :
    ((after (.spokeOtherInstruction false (.imm .addi 1 0 0xFFF)) s1).spoke 0 false).x.getD 1 0 = 0xFFFFFFFFFFFFFFFF ∧
    ((after (.spokeOtherInstruction false (.imm .addi 0 0 0xFFF)) s1).spoke 0 false).x.getD 0 0 = 0 := by decide +kernel

/-- `widthq s6` reads the width 32 (R101). -/
theorem test_widthq : ((word 0x8C300010 s1).split 0).sreg 6 = .val 32 := by decide +kernel

/-- ADD v3, v1, v2 at the pc, on 4 and 4: the step runs it. -/
theorem test_step_runs :
    (match step (coded [(0x1001, 0x21), (0x1002, 0x18), (0x1003, 0x98)] (.issue 0 0)) with
      | .next t => decide (laneOf t 3 0 = .val 8)
      | _ => false) = true := by decide +kernel

end Sys2Proof.Tests
end

section
/-! PROOFS. The trap words, SAFE, the privileged words and reserved words (R31, R40, R42, R122, R136): what the end of a group leaves of a split's
place and of the requests that have reached its workgroup, what a privileged word does for a split without privilege, and the statement TrapWords. -/

namespace Sys2Proof.Machine

/-! ## What the end of a group leaves of where a split runs (R28) -/

/-- In `t` every split is in the warp and the workgroup of `s`, and every workgroup has the requests and the registers of `s`. -/
structure SamePlaces (s t : State) : Prop where
  warp : ∀ j, (t.split j).warp = (s.split j).warp
  wg : ∀ w, (t.warp w).wg = (s.warp w).wg
  preq : ∀ g, (t.wg g).preq = (s.wg g).preq
  creq : ∀ g, (t.wg g).creq = (s.wg g).creq
  regs : ∀ g, (t.wg g).regs = (s.wg g).regs

namespace SamePlaces

theorem refl (s : State) : SamePlaces s s := ⟨fun _ => rfl, fun _ => rfl, fun _ => rfl, fun _ => rfl, fun _ => rfl⟩

theorem trans {s t u : State} (h : SamePlaces s t) (k : SamePlaces t u) : SamePlaces s u where
  warp j := (k.warp j).trans (h.warp j)
  wg w := (k.wg w).trans (h.wg w)
  preq g := (k.preq g).trans (h.preq g)
  creq g := (k.creq g).trans (h.creq g)
  regs g := (k.regs g).trans (h.regs g)

/-- A change of a split that leaves it in its warp. -/
theorem modSplit (s : State) (i : Nat) (f : Split → Split) (hf : ∀ x, (f x).warp = x.warp) : SamePlaces s (s.modSplit i f) where
  warp j := by rw [State.split_modSplit]; split <;> simp [hf]
  wg := by simp
  preq := by simp
  creq := by simp
  regs := by simp

/-- A change of a warp that leaves it in its workgroup. -/
theorem modWarp (s : State) (w : Nat) (f : Warp → Warp) (hf : ∀ x, (f x).wg = x.wg) : SamePlaces s (s.modWarp w f) where
  warp := by simp
  wg j := by rw [State.warp_modWarp]; split <;> simp [hf]
  preq := by simp
  creq := by simp
  regs := by simp

/-- A change of a workgroup that leaves its requests and its registers. -/
theorem modWg (s : State) (g : Nat) (f : Wg → Wg) (hf : ∀ x, (f x).preq = x.preq ∧ (f x).creq = x.creq ∧ (f x).regs = x.regs) :
    SamePlaces s (s.modWg g f) where
  warp := by simp
  wg := by simp
  preq j := by rw [State.wg_modWg]; split <;> simp [hf]
  creq j := by rw [State.wg_modWg]; split <;> simp [hf]
  regs j := by rw [State.wg_modWg]; split <;> simp [hf]

theorem modCore (s : State) (c : Nat) (f : Core → Core) : SamePlaces s (s.modCore c f) := by constructor <;> simp

section
variable {s t : State} (h : SamePlaces s t)
include h

theorem wgIdxOf (i : Nat) : t.wgIdxOf i = s.wgIdxOf i := by
  rw [State.wgIdxOf, State.warpOf, h.wg, h.warp, State.wgIdxOf, State.warpOf]

theorem preqOf (i : Nat) : (t.wgOf i).preq = (s.wgOf i).preq := by rw [State.wgOf, h.wgIdxOf, h.preq, State.wgOf]

theorem creqOf (i : Nat) : (t.wgOf i).creq = (s.wgOf i).creq := by rw [State.wgOf, h.wgIdxOf, h.creq, State.wgOf]

/-- The registers of a full stop mask (R123) are the same. -/
theorem fullLiveOf (i : Nat) : (t.wgOf i).fullLive = (s.wgOf i).fullLive := by
  rw [State.wgOf, h.wgIdxOf, Wg.fullLive, h.regs, State.wgOf, Wg.fullLive]

end

end SamePlaces

/-- A write of a translation root reaches no request. -/
theorem writeRoot_samePlaces (g n : Nat) (v : Word) (s : State) : SamePlaces s (writeRoot g n v s) :=
  (SamePlaces.modCore s _ _).trans (SamePlaces.modWg _ g _ (fun x => by split <;> exact ⟨rfl, rfl, rfl⟩))

theorem applyHeld_samePlaces (i : Nat) (h : Held) (s : State) : SamePlaces s (applyHeld i h s) := by
  cases h with
  | vset r m v => exact .modWarp s _ _ (fun _ => rfl)
  | lastUse r m => exact .modWarp s _ _ (fun _ => rfl)
  | sset r v => exact .modSplit s i _ (fun x => by simp)
  | pset p m bits => exact .modWarp s _ _ (fun x => by rw [Warp.setPred]; split <;> rfl)
  | deact m => exact .modSplit s i _ (fun x => by simp)
  | sys n v => exact writeRoot_samePlaces _ n v s
  | await k => exact .refl s
  | mark k => exact .refl s

theorem commitGroup_samePlaces (i : Nat) (s : State) : SamePlaces s (commitGroup i s) :=
  (foldState_keeps (SamePlaces s) _ (fun h t ht => ht.trans (applyHeld_samePlaces i h t)) _ s (.refl s)).trans
    (.modSplit _ i _ (fun _ => rfl))

theorem closeGroup_samePlaces (i : Nat) (s : State) : SamePlaces s (closeGroup i s) := by
  rw [closeGroup]
  split
  · exact .modSplit s i _ (fun _ => rfl)
  · exact commitGroup_samePlaces i s

/-- A word that has executed leaves its split where it was, and the requests to its workgroup (R28). -/
theorem finishWord_samePlaces (i : Nat) (closes : Bool) (held : List Held) (s : State) : SamePlaces s (finishWord i closes held s) := by
  simp only [finishWord]
  split
  · refine .trans (.modSplit s i _ ?_) (closeGroup_samePlaces i _)
    exact fun _ => rfl
  · exact .modSplit s i _ (fun _ => rfl)

/-! ## SAFE (R122) -/

/-- A closing word without checks acts from the state in which its group is written (R28, R29). -/
theorem closingWord_noCheck {act : Nat → State → State → Ctl} {s u : State} (ha : s.me.awaiting = false)
    (hu : act s.who.split s s.closed = .ok u) : closingWord noCheck act s = .next (stopSweep s.mine u) :=
  closingWord_done ha rfl hu

/-- The state in which SAFE goes on: its group is written, and the pc is past the two words of its mask. -/
def State.pastSafe (s : State) : State := s.closed.modSplit s.who.split (fun x => { x with pc := x.pc + 8 })

theorem pastSafe_samePlaces (s : State) : SamePlaces s s.pastSafe :=
  (finishWord_samePlaces _ true [] s).trans (.modSplit _ _ _ (fun _ => rfl))

/-- The state in which SAFE stops: as where it goes on, with those of its mask's registers that are allocated. -/
def State.stoppedAtSafe (s : State) (lo hi : Word) : State :=
  s.pastSafe.modSplit s.who.split (fun x => { x with
    phase := .stopped none (BitVec.ofNat 64 (lo.toNat + hi.toNat * 2 ^ 32) &&& (s.wgOf s.who.split).fullLive) })

/-- SAFE looks at the requests once its group is written, which has left them as they were. -/
theorem safe_uncancelled {s : State} (e : Bool) (lo hi : Word) (ha : s.me.awaiting = false) (hc : (s.wgOf s.who.split).creq = none) :
    Acts (.safe e lo hi) s (if (s.wgOf s.who.split).preq.isSome then s.stoppedAtSafe lo hi else s.pastSafe) := by
  have hs := pastSafe_samePlaces s
  have hc' : (s.pastSafe.wgOf s.who.split).creq = none := (hs.creqOf _).trans hc
  rw [State.stoppedAtSafe, ← hs.preqOf, ← hs.fullLiveOf]
  change execSafe e lo hi s = _
  refine closingWord_noCheck ha ?_
  change (if (s.pastSafe.wgOf s.who.split).creq.isSome then _ else _) = _
  rw [hc']
  exact (apply_ite Ctl.ok _ _ _).symm

theorem safe_goes_on {s : State} (e : Bool) (lo hi : Word) (ha : s.me.awaiting = false) (hc : (s.wgOf s.who.split).creq = none)
    (hp : (s.wgOf s.who.split).preq = none) : Acts (.safe e lo hi) s s.pastSafe := by
  simpa [hp] using safe_uncancelled e lo hi ha hc

theorem safe_stops {s : State} {p : Preempt} (e : Bool) (lo hi : Word) (ha : s.me.awaiting = false) (hc : (s.wgOf s.who.split).creq = none)
    (hp : (s.wgOf s.who.split).preq = some p) : Acts (.safe e lo hi) s (s.stoppedAtSafe lo hi) := by
  simpa [hp] using safe_uncancelled e lo hi ha hc

/-! ## TRAP and TRET (R136) -/

theorem trap_without_lanes {s : State} (w : SA) (ha : s.me.awaiting = false) (hl : s.lanes = 0) : Acts (.trap w) s s.closed := by
  change execTrap w s = _
  refine closingWord_noCheck ha ?_
  exact if_pos (beq_iff_eq.mpr hl)

theorem trap_with_lanes {s : State} (w : SA) (ha : s.me.awaiting = false) (hl : s.lanes ≠ 0) :
    Acts (.trap w) s (enterTrap s.who.split
      { cause := 0x028, val := (s.ssrc s.who.split w.a).bits.toNat, pc := (s.closed.split s.who.split).pc } s.closed) := by
  change execTrap w s = _
  refine closingWord_noCheck ha ?_
  exact if_neg (fun h => hl (beq_iff_eq.mp h))

theorem tret_in_handler {s : State} (w : S0) (ha : s.me.awaiting = false) (hp : s.me.prv = true) (ht : s.me.inTrap = true) :
    Acts (.tret w) s (leaveTrap s.who.split s.closed) := by
  change execTret w s = _
  exact closingWord_done ha ((privileged_yes hp).trans (if_pos ht)) rfl

theorem tret_outside_handler {s : State} (w : S0) (ha : s.me.awaiting = false) (hp : s.me.prv = true) (ht : s.me.inTrap = false) :
    exec (.tret w) s = .next (raiseHere s.who.split 0x029 0 s) := by
  change execTret w s = _
  exact closingWord_trap ha ((privileged_yes hp).trans (if_neg (Bool.eq_false_iff.mp ht)))

/-! ## Privileged words of a split without privilege (R40), and reserved words (R42) -/

/-- A privileged word of any frame of `issueWord` raises 0x003 for a split without privilege, and its body does not run. -/
theorem issueWord_unprivileged {closes : Bool} {body : Nat → State → State × Out} {s : State} (hp : s.me.prv = false) :
    issueWord closes (privileged body) s = .next (raiseHere s.who.split 0x003 0 s) :=
  issueWord_trap (privileged_no hp)

theorem tret_unprivileged {s : State} (w : S0) (ha : s.me.awaiting = false) (hp : s.me.prv = false) :
    exec (.tret w) s = .next (raiseHere s.who.split 0x003 0 s) := by
  change execTret w s = _
  exact closingWord_trap ha (privileged_no hp)

/-- GENWAIT parks its split itself, so its frame is its own. -/
theorem genwait_unprivileged {s : State} (w : SDAB) (hp : s.me.prv = false) :
    exec (.genwait w) s = .next (raiseHere s.who.split 0x003 0 s) := by
  change execGenwait w s = _
  simp only [execGenwait]
  rw [privileged_no hp]

/-- The privileged words (R40). -/
def NeedsPrivilege (k : Instr) : Prop :=
  (∃ w, k = .tret w) ∨ (∃ w, k = .l1wbinv w) ∨ (∃ w, k = .xlflush w) ∨ (∃ w, k = .regmode w) ∨ (∃ w, k = .geninc w) ∨
    (∃ w, k = .genwait w) ∨ (∃ w, k = .genrd w) ∨ (∃ w, k = .xlat w) ∨ (∃ w, k = .bndSet w)

/-- Each privileged word raises 0x003 for a split without privilege. -/
theorem needsPrivilege_unprivileged {s : State} {k : Instr} (ha : s.me.awaiting = false) (hp : s.me.prv = false) (hk : NeedsPrivilege k) :
    exec k s = .next (raiseHere s.who.split 0x003 0 s) := by
  obtain ⟨w, rfl⟩ | ⟨w, rfl⟩ | ⟨w, rfl⟩ | ⟨w, rfl⟩ | ⟨w, rfl⟩ | ⟨w, rfl⟩ | ⟨w, rfl⟩ | ⟨w, rfl⟩ | ⟨w, rfl⟩ := hk
  case inl => exact tret_unprivileged w ha hp
  case inr.inr.inr.inr.inr.inl => exact genwait_unprivileged w hp
  all_goals exact issueWord_unprivileged hp

/-- A cause met at a word whose group awaits nothing is taken at once, over the results of the earlier words (R31). -/
theorem raiseHere_settled {i cause val : Nat} {s : State} (ha : (s.split i).awaiting = false) :
    raiseHere i cause val s = enterTrap i { cause := cause, val := val, pc := (s.split i).pc } (commitGroup i s) := by
  simp [raiseHere, raiseAt, ha]

/-! ## The statement -/

/-- Settles O14: SAFE, TRAP and TRET by their own lemmas, the privileged words through the one rule of R40, a reserved word through that of R31. -/
theorem trapWords : Obligations.TrapWords := by
  unfold Obligations.TrapWords
  refine ⟨fun s ha => ⟨fun e lo hi hc => ⟨safe_goes_on e lo hi ha hc, fun p hp => safe_stops e lo hi ha hc hp⟩,
    fun w => ⟨trap_without_lanes w ha, trap_with_lanes w ha⟩, fun w => tret_in_handler w ha,
    fun hp k hk => needsPrivilege_unprivileged ha hp hk, fun w => tret_outside_handler w ha⟩, fun w s ha => ?_⟩
  exact congrArg Host.Outcome.next (raiseHere_settled ha)

end Sys2Proof.Machine
end

section
/-! PROOFS. The uniform scalar words (R159, R160): what shifts of an element compute, what a scalar word answers of its operands, the one frame of the
words of major 0x19, SADDI, and the statement ScalarResults. -/

namespace Sys2Proof.Machine

/-! ## Shifts of an element are those of a word of its width (R148) -/

theorem shlElem_toNat {n : Nat} (a : BitVec n) (b : Nat) : shlElem n a.toNat b = (a <<< b).toNat := by
  simp only [shlElem, Nat.ble_eq]
  split
  next h => rw [BitVec.shiftLeft_eq_zero h]; rfl
  next => rw [BitVec.toNat_shiftLeft, Nat.shiftLeft_eq]

/-- A shift right by more than the width is one by the width. -/
theorem div_two_pow_min {n x : Nat} (b : Nat) (hx : x < 2 ^ n) : x / 2 ^ min b n = x / 2 ^ b := by
  obtain h | h := Nat.le_total b n
  · rw [Nat.min_eq_left h]
  · rw [Nat.min_eq_right h, Nat.div_eq_of_lt hx, Nat.div_eq_of_lt (Nat.lt_of_lt_of_le hx (Nat.pow_le_pow_right Nat.two_pos h))]

theorem shrElem_unsigned_toNat {n : Nat} (a : BitVec n) (b : Nat) : shrElem false n a.toNat b = (a >>> b).toNat := by
  rw [BitVec.toNat_ushiftRight, Nat.shiftRight_eq_div_pow]
  exact div_two_pow_min b a.isLt

/-- A sign fill: a number below N with ones above it, divided by a divisor M of N, is modulo N the ones' complement of its complement's quotient. -/
theorem ones_above_div_mod {M Q x : Nat} (hx : x < M * Q) :
    (x + (M * Q - 1) * (M * Q)) / M % (M * Q) = M * Q - 1 - (M * Q - 1 - x) / M := by
  generalize hy : M * Q - 1 - x = y
  obtain ⟨q, rfl⟩ : ∃ q, Q = q + 1 := Nat.exists_eq_add_one_of_ne_zero (by rintro rfl; omega)
  generalize hN : M * (q + 1) = N at *
  have hlt : y / M < N := Nat.lt_of_le_of_lt (Nat.div_le_self y M) (by omega)
  have hbelow : x + (N - 1) * N = M * ((q + 1) * N) - (y + 1) := by
    obtain ⟨k, rfl⟩ : ∃ k, N = k + 1 := ⟨N - 1, by omega⟩
    rw [← Nat.mul_assoc, hN, Nat.add_sub_cancel, Nat.succ_mul]
    omega
  have hdiv : (x + (N - 1) * N) / M = (q + 1) * N - (y / M + 1) := by
    rw [hbelow]
    refine Nat.mul_sub_div _ _ _ ?_
    rw [← Nat.mul_assoc, hN]
    exact Nat.lt_of_lt_of_le (show y < N by omega) (Nat.le_mul_self N)
  rw [hdiv, show (q + 1) * N - (y / M + 1) = N - 1 - y / M + N * q by rw [Nat.succ_mul, Nat.mul_comm N q]; omega,
    Nat.add_mul_mod_self_left, Nat.mod_eq_of_lt (Nat.sub_one_sub_lt_of_lt hlt)]

theorem shrElem_signed_toNat {n : Nat} (a : BitVec n) (b : Nat) : shrElem true n a.toNat b = (a.sshiftRight b).toNat := by
  simp only [shrElem, Bool.true_and, Nat.ble_eq]
  split
  next h =>
    have ha := a.isLt
    have hpow : 2 ^ n = 2 ^ min b n * 2 ^ (n - min b n) := by rw [← Nat.pow_add, Nat.add_sub_cancel' (Nat.min_le_right b n)]
    rw [BitVec.toNat_sshiftRight_of_msb_true (by simpa [BitVec.msb_eq_decide] using h), Nat.shiftRight_eq_div_pow,
      ← div_two_pow_min b (Nat.sub_one_sub_lt_of_lt ha)]
    rw [hpow] at ha ⊢
    exact ones_above_div_mod ha
  next h =>
    rw [BitVec.toNat_sshiftRight_of_msb_false (by simpa [BitVec.msb_eq_decide] using h), Nat.shiftRight_eq_div_pow]
    exact div_two_pow_min b a.isLt

/-! ## What a scalar word answers (R33, R159) -/

@[simp] theorem scalarOut_val (s : State) (i d : Nat) (x y : Word) (f : Word → Word → Word) :
    scalarOut s i d (.val x) (.val y) f = (s, .done [.sset d (.val (f x y))]) := rfl

/-- A poisoned operand gives 0x043 where MR.PX is set, else poison. -/
theorem scalarOut_poisoned {a b : PWord} (h : a.isPoison = true ∨ b.isPoison = true) (s : State) (i d : Nat) (f : Word → Word → Word) :
    scalarOut s i d a b f = if mrPX (s.split i).mr then (s, .trap 0x043 0) else (s, .done [.sset d .poison]) := by
  match a, b, h with
  | .poison, _, _ => rfl
  | .val _, .poison, _ => rfl

theorem scalarOut_poison {s : State} {i : Nat} {a b : PWord} (h : a.isPoison = true ∨ b.isPoison = true)
    (hx : mrPX (s.split i).mr = false) (d : Nat) (f : Word → Word → Word) :
    scalarOut s i d a b f = (s, .done [.sset d .poison]) := by
  simp [scalarOut_poisoned h, hx]

theorem scalarOut_trap {s : State} {i : Nat} {a b : PWord} (h : a.isPoison = true ∨ b.isPoison = true)
    (hx : mrPX (s.split i).mr = true) (d : Nat) (f : Word → Word → Word) :
    scalarOut s i d a b f = (s, .trap 0x043 0) := by
  simp [scalarOut_poisoned h, hx]

/-! ## The words of major 0x19 (R159) -/

/-- Scalar words over equal functions of two words are equal. -/
theorem scWord_congr (w : Sc3) {f g : Word → Word → Word} (h : ∀ a b, f a b = g a b) (s : State) : scWord w f s = scWord w g s :=
  congrArg (scWord w · s) (funext fun a => funext (h a))

/-- Every scalar word of major 0x19 is the one frame of them all over its function of two words. -/
theorem exec_scalarWord {k : Instr} {w : Sc3} {f : Word → Word → Word} (h : scalarWord k = some (w, f)) (s : State) :
    exec k s = scWord w f s := by
  cases k with
  | sadd | ssub | smul | smulhu | smulhs | sand | sor | sxor => cases h; rfl
  | sshl => cases h; exact scWord_congr _ (fun a b => by rw [shlElem_toNat, BitVec.ofNat_toNat, BitVec.setWidth_eq]) s
  | sshr => cases h; exact scWord_congr _ (fun a b => by rw [shrElem_unsigned_toNat, BitVec.ofNat_toNat, BitVec.setWidth_eq]) s
  | ssra => cases h; exact scWord_congr _ (fun a b => by rw [shrElem_signed_toNat, BitVec.ofNat_toNat, BitVec.setWidth_eq]) s
  | sminu | smaxu => cases h; exact scWord_congr _ (fun a b => by simp [BitVec.ult_iff_toNat_lt]) s
  | smins | smaxs => cases h; exact scWord_congr _ (fun a b => by simp [BitVec.slt_iff_toInt_lt]) s
  | sseq => cases h; exact scWord_congr _ (fun a b => by simp [boolWord]) s
  | ssltu => cases h; exact scWord_congr _ (fun a b => by simp [boolWord, BitVec.ult_iff_toNat_lt]) s
  | sslts => cases h; exact scWord_congr _ (fun a b => by simp [boolWord, BitVec.slt_iff_toInt_lt]) s
  | _ => cases h

/-- A word of the frame `issueWord` whose body changes no state and is done completes with what the body gives. -/
theorem holds_of_done {k : Instr} {closes : Bool} {body : Nat → State → State × Out} {s : State} {held : List Held}
    (hk : exec k s = issueWord closes body s) (hb : body s.who.split s = (s, .done held)) : Holds k s closes s held :=
  hk.trans (issueWord_done hb)

theorem scalarWord_holds_value {k : Instr} {w : Sc3} {f : Word → Word → Word} (hk : scalarWord k = some (w, f)) {s : State} {a b : Word}
    (ha : s.ssrc s.who.split w.a = .val a) (hb : s.sbsrc s.who.split w.b = .val b) :
    Holds k s w.s s [.sset w.d.toNat (.val (f a b))] :=
  holds_of_done (exec_scalarWord hk s) (by simp only [ha, hb, scalarOut_val])

theorem scalarWord_holds_poison {k : Instr} {w : Sc3} {f : Word → Word → Word} (hk : scalarWord k = some (w, f)) {s : State}
    (hp : (s.ssrc s.who.split w.a).isPoison = true ∨ (s.sbsrc s.who.split w.b).isPoison = true) (hx : mrPX s.me.mr = false) :
    Holds k s w.s s [.sset w.d.toNat .poison] :=
  holds_of_done (exec_scalarWord hk s) (scalarOut_poison hp hx _ _)

/-! ## SADDI (R160) -/

/-- SADDI answers as a word of major 0x19 that adds, with its immediate as second operand. -/
theorem exec_saddi (w : SaddiF) (s : State) : exec (.saddi w) s = issueWord w.s
    (fun i s => scalarOut s i w.d.toNat (s.ssrc i w.a) (.val (w.i.signExtend 32)) (fun a b => a + b)) s := rfl

theorem saddi_holds_sum (w : SaddiF) {s : State} {a : Word} (ha : s.ssrc s.who.split w.a = .val a) :
    Holds (.saddi w) s w.s s [.sset w.d.toNat (.val (a + w.i.signExtend 32))] :=
  holds_of_done (exec_saddi w s) (by simp only [ha, scalarOut_val])

theorem saddi_holds_poison (w : SaddiF) {s : State} (hp : (s.ssrc s.who.split w.a).isPoison = true) (hx : mrPX s.me.mr = false) :
    Holds (.saddi w) s w.s s [.sset w.d.toNat .poison] :=
  holds_of_done (exec_saddi w s) (scalarOut_poison (.inl hp) hx _ _)

theorem saddi_traps (w : SaddiF) {s : State} (hp : (s.ssrc s.who.split w.a).isPoison = true) (hx : mrPX s.me.mr = true) :
    exec (.saddi w) s = .next (raiseHere s.who.split 0x043 0 s) :=
  (exec_saddi w s).trans (issueWord_trap (scalarOut_trap (.inl hp) hx _ _))

/-- SADDI has the fields of a VI word over major 0x1F. -/
theorem encodeWord_saddi (w : SaddiF) : encodeWord (.saddi w) = some (BitVec.ofNat 32
    (w.s.toNat * 2 ^ 31 + 0x1F * 2 ^ 25 + w.d.toNat * 2 ^ 19 + w.a.toNat * 2 ^ 13 + w.i.toNat)) := by
  change some (SaddiF.put 0x3E000000 w) = _
  rw [SaddiF.put]
  congr 2
  omega

/-! ## The statement -/

/-- Settles O4: a word of major 0x19 by the one frame of them all, SADDI by the same answers of `scalarOut` with its immediate as second operand. -/
theorem scalarResults : Obligations.ScalarResults := by
  unfold Obligations.ScalarResults
  exact fun s => ⟨fun k w f hk => ⟨fun a b => scalarWord_holds_value hk, scalarWord_holds_poison hk⟩,
    fun w => ⟨fun a => saddi_holds_sum w, fun hp => ⟨saddi_holds_poison w hp, saddi_traps w hp⟩, encodeWord_saddi w⟩, by decide⟩

end Sys2Proof.Machine
end

section
/-! PROOFS. The physical map (R191): the home of each range of addresses, the slice as nibbles, what a block and an aligned access share, and the
statement AddressMap. -/

namespace Sys2Proof.Machine

/-! ## The ranges of the map -/

/-- `homeOf` with its bounds as orders of numbers. -/
theorem homeOf_eq (pa : Nat) : homeOf pa =
    if 2 ^ 52 ≤ pa then .none else if 2 ^ 51 ≤ pa then .host (sliceOf pa) else if 2 ^ 39 ≤ pa then .none
    else if pa % 2 ^ 36 < 48 * 2 ^ 30 then .dram (pa / 2 ^ 36) (sliceOf pa) else .none := by
  simp only [homeOf, Nat.ble_eq, Nat.blt_eq]

/-- Below 2^39 an address has a die and an offset in the die's 2^36 bytes, and the offset alone says whether DRAM backs it. -/
theorem homeOf_in_die {d off : Nat} (hd : d < 8) (ho : off < 2 ^ 36) : homeOf (d * 2 ^ 36 + off) =
    if off < 48 * 2 ^ 30 then .dram d (sliceOf (d * 2 ^ 36 + off)) else .none := by
  have hdie : (d * 2 ^ 36 + off) / 2 ^ 36 = d := by omega
  have hoff : (d * 2 ^ 36 + off) % 2 ^ 36 = off := by omega
  rw [homeOf_eq, if_neg (by omega), if_neg (by omega), if_neg (by omega), hdie, hoff]

theorem homeOf_above_dies {pa : Nat} (hlo : 2 ^ 39 ≤ pa) (hhi : pa < 2 ^ 51) : homeOf pa = .none := by
  rw [homeOf_eq, if_neg (by omega), if_neg (by omega), if_pos hlo]

theorem homeOf_host {pa : Nat} (hlo : 2 ^ 51 ≤ pa) (hhi : pa < 2 ^ 52) : homeOf pa = .host (sliceOf pa) := by
  rw [homeOf_eq, if_neg (by omega), if_pos hlo]

theorem homeDie_of_dram {pa d sl : Nat} (h : homeOf pa = .dram d sl) : homeDie pa = d := by
  simp only [homeDie, h]

theorem homeDie_of_host {pa sl : Nat} (h : homeOf pa = .host sl) : homeDie pa = 0 := by
  simp only [homeDie, h]

theorem homeCause_of_unbacked {pa : Nat} (h : homeOf pa = .none) (s : State) (n : Nat) : s.homeCause pa n = some 0x084 := by
  simp only [State.homeCause, h]

/-! ## The slice, and what a block shares -/

theorem sliceOf_eq (pa : Nat) : sliceOf pa = (pa / 2 ^ 8 % 16) ^^^ (pa / 2 ^ 12 % 16) ^^^ (pa / 2 ^ 16 % 16) := rfl

theorem sliceOf_lt (pa : Nat) : sliceOf pa < 16 :=
  have nibble (q : Nat) : q % 16 < 2 ^ 4 := Nat.mod_lt q (by decide)
  Nat.xor_lt_two_pow (Nat.xor_lt_two_pow (nibble _) (nibble _)) (nibble _)

/-- S(pa) reads no bit below bit 8 (R191), so the slice of an address is that of its block's base. -/
theorem sliceOf_blockBase (pa : Nat) : sliceOf (pa / 256 * 256) = sliceOf pa := by
  have h8 : pa / 256 * 256 / 2 ^ 8 = pa / 2 ^ 8 := by omega
  have h12 : pa / 256 * 256 / 2 ^ 12 = pa / 2 ^ 12 := by omega
  have h16 : pa / 256 * 256 / 2 ^ 16 = pa / 2 ^ 16 := by omega
  rw [sliceOf_eq, sliceOf_eq, h8, h12, h16]

/-- Every bound of the map is a multiple of 256, so an address has the home of its block's base. -/
theorem homeOf_blockBase (pa : Nat) : homeOf (pa / 256 * 256) = homeOf pa := by
  have hle {m : Nat} (hm : 256 ∣ m) : m ≤ pa / 256 * 256 ↔ m ≤ pa := by omega
  have hoff : pa / 256 * 256 % 2 ^ 36 < 48 * 2 ^ 30 ↔ pa % 2 ^ 36 < 48 * 2 ^ 30 := by omega
  have hdie : pa / 256 * 256 / 2 ^ 36 = pa / 2 ^ 36 := by omega
  simp only [homeOf_eq, sliceOf_blockBase, hdie, hoff, hle (show 256 ∣ 2 ^ 52 by decide), hle (show 256 ∣ 2 ^ 51 by decide),
    hle (show 256 ∣ 2 ^ 39 by decide)]

theorem homeOf_of_same_block {a pa : Nat} (h : a / 256 = pa / 256) : homeOf a = homeOf pa := by
  rw [← homeOf_blockBase a, h, homeOf_blockBase]

/-- An access of `c` bytes aligned to `c` crosses no boundary that is a multiple of `c`. -/
theorem add_div_of_aligned {a c j m : Nat} (hm : c ∣ m) (ha : c ∣ a) (hj : j < c) : (a + j) / m = a / m := by
  obtain ⟨q, rfl⟩ := hm
  obtain ⟨p, rfl⟩ := ha
  have hc : 0 < c := Nat.zero_lt_of_lt hj
  rw [← Nat.div_div_eq_div_mul, ← Nat.div_div_eq_div_mul, Nat.mul_add_div hc, Nat.div_eq_of_lt hj, Nat.add_zero, Nat.mul_div_cancel_left p hc]

/-! ## The statement -/

/-- Settles O24: each range by its own lemma, the block through its base, an aligned access because its length divides 256. -/
theorem addressMap : Obligations.AddressMap := by
  unfold Obligations.AddressMap
  refine ⟨fun pa hpa => ⟨?dram, ?gap, homeOf_above_dies, ?host, fun s n h => homeCause_of_unbacked h s n, sliceOf_eq pa, sliceOf_lt pa,
    fun _ => homeOf_of_same_block⟩, ?aligned⟩
  case dram =>
    rintro d off hd ho rfl
    have h := (homeOf_in_die hd (by omega)).trans (if_pos ho)
    exact ⟨h, homeDie_of_dram h⟩
  case gap =>
    rintro d off hd hlo hhi rfl
    exact (homeOf_in_die hd hhi).trans (if_neg (Nat.not_lt.mpr hlo))
  case host =>
    intro hlo
    exact ⟨homeOf_host hlo hpa, homeDie_of_host (homeOf_host hlo hpa)⟩
  case aligned =>
    intro a k j hk ha hj
    have hblock : 2 ^ k ∣ 256 := Nat.pow_dvd_pow 2 (show k ≤ 8 by omega)
    exact add_div_of_aligned hblock (Nat.dvd_of_mod_eq_zero ha) hj

end Sys2Proof.Machine
end
